-- ==== Sys2Proof/Word.lean ====
section
/-! DEFINITION. The word types of the KNX-Y9-M512 and their plainest arithmetic (spec 03 R39, R41, R47; 08 R149). -/

namespace Sys2Proof

/-- One byte of memory, little-endian order (R39). -/
abbrev Byte := BitVec 8

/-- A lane register's element (R66). -/
abbrev Word32 := BitVec 32

/-- A scalar register, an address, a system register (R66, R67). -/
abbrev Word64 := BitVec 64

/-- The whole lane instruction, W0 in [95:64], W1 in [63:32], W2 in [31:0] (R39, R47). -/
abbrev LaneWord := BitVec 96

end Sys2Proof
end

