-- ==== Sys2Proof/Machine/Flags.lean ====
section
/-! DEFINITION. FMODE's fields and the flags that results carry into FFLAGS (R52, R68, R69, R110, R112). -/

namespace Sys2Proof.Machine

open Sys2Proof

/-- The rounding modes (R68, R110). -/
inductive RM where
  | rne | rtz | rup | rdn
  deriving DecidableEq, Repr

/-- The mode of an instruction: its override where that is 1 to 4, else FMODE.RM (R52, R110). -/
def rmOf (rnd fmode : BitVec 3) : RM :=
  match rnd.toNat with
  | 1 => .rne
  | 2 => .rtz
  | 3 => .rup
  | 4 => .rdn
  | _ => match fmode.toNat % 4 with | 0 => .rne | 1 => .rtz | 2 => .rup | _ => .rdn

/-- FMODE.SUBN (R68). -/
def subnOf (fmode : BitVec 3) : Bool := fmode.getLsbD 2

/-- FFLAGS bits (R69). -/
def flNV : BitVec 7 := 1
def flDZ : BitVec 7 := 2
def flOF : BitVec 7 := 4
def flUF : BitVec 7 := 8
def flNX : BitVec 7 := 16
def flBADCODE : BitVec 7 := 32
def flRESINEXACT : BitVec 7 := 64

end Sys2Proof.Machine
end

