-- ==== Sys2Proof/Machine/Float.lean ====
section
/-! DEFINITION. The floating-point formats (R101, R102), exact values, rounding (R110), subnormals (R111), flags (R112),
and the sums of exact values. -/

namespace Sys2Proof.Machine

open Sys2Proof

/-- A format (R101, R102): field widths, bias, the largest finite code, whether it has infinities, its canonical NaN (0
where it has none, R115), and whether SUBN acts on it (R111). -/
structure Fmt where
  ebits : Nat
  mbits : Nat
  bias : Nat
  maxCode : Nat
  hasInf : Bool
  nan : Nat
  subn : Bool
  deriving DecidableEq, Repr

def fmtF32 : Fmt := { ebits := 8, mbits := 23, bias := 127, maxCode := 0x7F7FFFFF, hasInf := true, nan := 0x7FC00000, subn := true }
def fmtBf16 : Fmt := { ebits := 8, mbits := 7, bias := 127, maxCode := 0x7F7F, hasInf := true, nan := 0x7FC0, subn := true }
def fmtF16 : Fmt := { ebits := 5, mbits := 10, bias := 15, maxCode := 0x7BFF, hasInf := true, nan := 0x7E00, subn := true }
def fmtF8e5 : Fmt := { ebits := 5, mbits := 2, bias := 15, maxCode := 0x7B, hasInf := true, nan := 0x7E, subn := false }
def fmtF8e4 : Fmt := { ebits := 4, mbits := 3, bias := 7, maxCode := 0x7E, hasInf := false, nan := 0x7F, subn := false }
def fmtF4 : Fmt := { ebits := 2, mbits := 1, bias := 1, maxCode := 7, hasInf := false, nan := 0, subn := false }

/-- The sign bit's place. -/
def Fmt.sbit (f : Fmt) : Nat := f.ebits + f.mbits
/-- The exponent of the least quantum. -/
def Fmt.qmin (f : Fmt) : Int := 1 - (f.bias : Int) - f.mbits
/-- The least exponent of a normal value. -/
def Fmt.emin (f : Fmt) : Int := 1 - (f.bias : Int)
/-- A code with a sign. -/
def Fmt.signed (f : Fmt) (neg : Bool) (mag : Nat) : Nat := if neg then 2 ^ f.sbit + mag else mag
/-- The infinity of a sign. -/
def Fmt.infCode (f : Fmt) (neg : Bool) : Nat := f.signed neg ((2 ^ f.ebits - 1) * 2 ^ f.mbits)

/-- A value: a NaN (signalling or quiet), an infinity, or (−1)^neg · m · 2^e. -/
inductive FVal where
  | nan (signalling : Bool)
  | inf (neg : Bool)
  | fin (neg : Bool) (m : Nat) (e : Int)
  deriving DecidableEq, Repr

def FVal.isNan : FVal → Bool | .nan _ => true | _ => false
def FVal.isSnan : FVal → Bool | .nan b => b | _ => false
def FVal.isZero : FVal → Bool | .fin _ m _ => m == 0 | _ => false

/-- Reads a code; under `subn` a subnormal of a format that SUBN acts on is a zero (R101, R102, R111). -/
def Fmt.decode (f : Fmt) (subn : Bool) (code : Nat) : FVal :=
  let neg := code / 2 ^ f.sbit % 2 == 1
  let mag := code % 2 ^ f.sbit
  let e := mag / 2 ^ f.mbits
  let frac := mag % 2 ^ f.mbits
  if f.hasInf && e == 2 ^ f.ebits - 1 then
    (if frac = 0 then .inf neg else .nan (decide (frac < 2 ^ (f.mbits - 1))))
  else if !f.hasInf && f.nan != 0 && mag == f.nan then .nan false
  else if e = 0 then .fin neg (if subn && f.subn then 0 else frac) f.qmin
  else .fin neg (2 ^ f.mbits + frac) (f.qmin + e - 1)

/-- Rounds m · 2^−drop, with a tail below the last bit where `sticky`, to an integer; whether it was inexact (R110). -/
def roundInt (rm : RM) (neg : Bool) (m : Nat) (drop : Int) (sticky : Bool) : Nat × Bool :=
  if drop ≤ 0 then (m * 2 ^ (-drop).toNat, sticky)
  else
    let len := if m = 0 then 0 else Nat.log2 m + 1
    let far := decide ((len : Int) + 1 < drop)
    let d := if far then len + 2 else drop.toNat
    let q := m / 2 ^ d
    let rest := m % 2 ^ d
    let half := 2 ^ (d - 1)
    let inexact := rest != 0 || sticky
    let up := match rm with
      | .rne => decide (half < rest) || (rest == half && (sticky || q % 2 == 1))
      | .rtz => false
      | .rup => inexact && !neg
      | .rdn => inexact && neg
    (if up then q + 1 else q, inexact)

/-- Whether IEEE 754 overflow gives an infinity (R114). -/
def toInf (rm : RM) (neg : Bool) : Bool :=
  match rm with | .rne => true | .rtz => false | .rup => !neg | .rdn => neg

/-- The result of an overflow (R114). -/
def Fmt.overflow (f : Fmt) (rm : RM) (sat neg : Bool) : Nat :=
  if sat then f.signed neg f.maxCode
  else if !toInf rm neg then f.signed neg f.maxCode
  else if f.hasInf then f.infCode neg
  else if f.nan ≠ 0 then f.nan
  else f.signed neg f.maxCode

/-- A rounded value: its code and its flags. -/
abbrev Coded := Nat × BitVec 7

/-- Rounds (−1)^neg · (m · 2^e + tail) once (R110 to R112, R114). A sticky tail is below m's last bit. -/
def Fmt.encode (f : Fmt) (rm : RM) (subn sat neg : Bool) (m : Nat) (e : Int) (sticky : Bool) : Coded :=
  if m = 0 && !sticky then (f.signed neg 0, 0)
  else
    let m0 := if m = 0 then 1 else m
    let e0 := if m = 0 then f.qmin - 4 else e
    let top : Int := e0 + Nat.log2 m0
    let q := max (top - f.mbits) f.qmin
    let (r, inexact) := roundInt rm neg m0 (q - e0) sticky
    let mag := (q - f.qmin).toNat * 2 ^ f.mbits + r
    if decide ((f.bias : Int) + 1 < top) || decide (f.maxCode < mag) then (f.overflow rm sat neg, flOF ||| flNX)
    else
      let (u, _) := roundInt rm neg m0 (top - f.mbits - e0) sticky
      let tiny := decide (top < f.emin) && !(top + 1 == f.emin && u == 2 ^ (f.mbits + 1))
      if subn && f.subn && mag != 0 && decide (mag < 2 ^ f.mbits) then (f.signed neg 0, flUF ||| flNX)
      else (f.signed neg mag, (if inexact then flNX else 0) ||| (if inexact && tiny then flUF else 0))

/-- The exact sum of two finite values as sign, magnitude and exponent, with the sign of an exact zero (R110). -/
def addExact (rm : RM) (n1 : Bool) (m1 : Nat) (e1 : Int) (n2 : Bool) (m2 : Nat) (e2 : Int) : Bool × Nat × Int :=
  let lo := min e1 e2
  let v (n : Bool) (m : Nat) (e : Int) : Int :=
    let a : Int := (m * 2 ^ (e - lo).toNat : Nat)
    if n then -a else a
  let t := v n1 m1 e1 + v n2 m2 e2
  if t = 0 then (if m1 = 0 ∧ m2 = 0 ∧ n1 = n2 then n1 else rm == .rdn, 0, lo)
  else (decide (t < 0), t.natAbs, lo)

/-- A NaN among the inputs gives the canonical NaN, and NV where one signals (R102, R112). -/
def Fmt.nanOf (f : Fmt) (xs : List FVal) : Option Coded :=
  if xs.any FVal.isNan then some (f.nan, if xs.any FVal.isSnan then flNV else 0) else none

/-- An invalid operation (R112). -/
def Fmt.invalid (f : Fmt) : Coded := (f.nan, flNV)

/-- A + B, or A − B with `flip` (R129). -/
def Fmt.add (f : Fmt) (rm : RM) (subn flip : Bool) (a b : Nat) : Coded :=
  let x := f.decode subn a
  let y := f.decode subn b
  match f.nanOf [x, y] with
  | some r => r
  | none =>
    match x, y with
    | .inf n, .inf k => if n == xor k flip then (f.infCode n, 0) else f.invalid
    | .inf n, _ => (f.infCode n, 0)
    | _, .inf k => (f.infCode (xor k flip), 0)
    | .fin n1 m1 e1, .fin n2 m2 e2 =>
      let (n, m, e) := addExact rm n1 m1 e1 (xor n2 flip) m2 e2
      f.encode rm subn false n m e false
    | _, _ => f.invalid

/-- A × B (R129). -/
def Fmt.mul (f : Fmt) (rm : RM) (subn : Bool) (a b : Nat) : Coded :=
  let x := f.decode subn a
  let y := f.decode subn b
  match f.nanOf [x, y] with
  | some r => r
  | none =>
    match x, y with
    | .inf n, .inf k => (f.infCode (xor n k), 0)
    | .inf n, .fin k m _ => if m = 0 then f.invalid else (f.infCode (xor n k), 0)
    | .fin n m _, .inf k => if m = 0 then f.invalid else (f.infCode (xor n k), 0)
    | .fin n1 m1 e1, .fin n2 m2 e2 => f.encode rm subn false (xor n1 n2) (m1 * m2) (e1 + e2) false
    | _, _ => f.invalid

/-- A × B + C with one rounding; 0 × ∞ is invalid whatever C holds (R129). -/
def Fmt.fma (f : Fmt) (rm : RM) (subn : Bool) (a b c : Nat) : Coded :=
  let x := f.decode subn a
  let y := f.decode subn b
  let z := f.decode subn c
  let bad := match x, y with
    | .inf _, y => y.isZero
    | x, .inf _ => x.isZero
    | _, _ => false
  match f.nanOf [x, y, z] with
  | some (r, fl) => (r, if bad then fl ||| flNV else fl)
  | none =>
    if bad then f.invalid
    else
      let prod : FVal := match x, y with
        | .inf n, .inf k | .inf n, .fin k _ _ | .fin n _ _, .inf k => .inf (xor n k)
        | .fin n1 m1 e1, .fin n2 m2 e2 => .fin (xor n1 n2) (m1 * m2) (e1 + e2)
        | _, _ => .nan false
      match prod, z with
      | .inf n, .inf k => if n == k then (f.infCode n, 0) else f.invalid
      | .inf n, _ => (f.infCode n, 0)
      | _, .inf k => (f.infCode k, 0)
      | .fin n1 m1 e1, .fin n2 m2 e2 =>
        let (n, m, e) := addExact rm n1 m1 e1 n2 m2 e2
        f.encode rm subn false n m e false
      | _, _ => f.invalid

/-- The value of a finite one as an integer at exponent `lo`. -/
def FVal.scaled (lo : Int) : FVal → Int
  | .fin n m e => let a : Int := (m * 2 ^ (e - lo).toNat : Nat); if n then -a else a
  | _ => 0

/-- Compares two values that are no NaN; −0 equals +0 (R130). -/
def FVal.cmp (x y : FVal) : Ordering :=
  match x, y with
  | .inf n, .inf k => if n == k then .eq else if n then .lt else .gt
  | .inf n, _ => if n then .lt else .gt
  | _, .inf k => if k then .gt else .lt
  | .fin _ _ e1, .fin _ _ e2 => compare (x.scaled (min e1 e2)) (y.scaled (min e1 e2))
  | _, _ => .eq

/-- The sign of a value that is no NaN. -/
def FVal.neg : FVal → Bool | .nan _ => false | .inf n => n | .fin n _ _ => n

/-- Whether x orders below y, −0 below +0 (R129). -/
def FVal.below (x y : FVal) : Bool :=
  match x.cmp y with | .lt => true | .gt => false | .eq => x.neg && !y.neg

/-- An operand as it was read: a flushed subnormal is a zero of its sign (R129). -/
def Fmt.asRead (f : Fmt) (code : Nat) (x : FVal) : Nat :=
  if x.isZero then f.signed x.neg 0 else code

/-- minimumNumber and maximumNumber (R129). -/
def Fmt.minmax (f : Fmt) (wantMax subn : Bool) (a b : Nat) : Coded :=
  let x := f.decode subn a
  let y := f.decode subn b
  let fl := if x.isSnan || y.isSnan then flNV else 0
  let r :=
    if x.isNan && y.isNan then f.nan
    else if x.isNan then f.asRead b y
    else if y.isNan then f.asRead a x
    else if (if wantMax then x.below y else y.below x) then f.asRead b y else f.asRead a x
  (r, fl)

/-- Square root by bits: the largest r ≤ √n below 2^k added to r. -/
def isqrtFrom (n : Nat) : Nat → Nat → Nat
  | 0, r => r
  | k + 1, r => isqrtFrom n k (if (r + 2 ^ k) * (r + 2 ^ k) ≤ n then r + 2 ^ k else r)

/-- ⌊√n⌋. -/
def isqrt (n : Nat) : Nat := isqrtFrom n (Nat.log2 n / 2 + 1) 0

/-- The canonical tree over a list (R119), `op` at each pair; the last of an odd level is carried up. -/
def pairUp {α : Type} (op : α → α → α) : List α → List α
  | a :: b :: xs => op a b :: pairUp op xs
  | xs => xs

/-- The tree's levels, as many as `fuel` says. -/
def treeFold {α : Type} (op : α → α → α) : Nat → List α → List α
  | 0, xs => xs
  | n + 1, xs => treeFold op n (pairUp op xs)

/-- A sum over the canonical tree, its flags with it (R119). -/
def treeSum (op : Coded → Coded → Coded) (xs : List Coded) : Coded := (treeFold op xs.length xs).headD (0, 0)

end Sys2Proof.Machine
end

