-- ==== Sys2Proof/Machine/FloatFn.lean ====
section
/-! DEFINITION. The correctly rounded functions (R132, R315). FDIV, FSQRT, FRCP and FRSQ are exact quotients and roots
with a sticky rest. The transcendental ones are computed as fixed-point numbers of 640 fraction bits, far beyond
the 24 that the one rounding keeps; arguments with an exact result are taken apart first (log 31). -/

namespace Sys2Proof.Machine

open Sys2Proof

/-- A NaN operand gives the canonical NaN, NV where it signals (R132). -/
def fnNan (sig : Bool) : Coded := (fmtF32.nan, if sig then flNV else 0)

/-- The quotient of non-zero values, rounded once. -/
def fQuot (rm : RM) (subn neg : Bool) (m1 : Nat) (e1 : Int) (m2 : Nat) (e2 : Int) : Coded :=
  let k := 32 + Nat.log2 m2
  let n := m1 * 2 ^ k
  fmtF32.encode rm subn false neg (n / m2) (e1 - e2 - k) (n % m2 != 0)

/-- A / B (R132). -/
def fDiv (rm : RM) (subn : Bool) (a b : Nat) : Coded :=
  let x := fmtF32.decode subn a
  let y := fmtF32.decode subn b
  match fmtF32.nanOf [x, y] with
  | some r => r
  | none =>
    let neg := xor x.neg y.neg
    match x, y with
    | .inf _, .inf _ => fmtF32.invalid
    | .inf _, _ => (fmtF32.infCode neg, 0)
    | _, .inf _ => (fmtF32.signed neg 0, 0)
    | .fin _ m1 e1, .fin _ m2 e2 =>
      if m2 = 0 then (if m1 = 0 then fmtF32.invalid else (fmtF32.infCode neg, flDZ))
      else if m1 = 0 then (fmtF32.signed neg 0, 0)
      else fQuot rm subn neg m1 e1 m2 e2
    | _, _ => fmtF32.invalid

/-- 1 / A (R132). -/
def fRcp (rm : RM) (subn : Bool) (a : Nat) : Coded :=
  match fmtF32.decode subn a with
  | .nan sig => fnNan sig
  | .inf n => (fmtF32.signed n 0, 0)
  | .fin n m e => if m = 0 then (fmtF32.infCode n, flDZ) else fQuot rm subn n 1 0 m e

/-- √A (R132). -/
def fSqrt (rm : RM) (subn : Bool) (a : Nat) : Coded :=
  match fmtF32.decode subn a with
  | .nan sig => fnNan sig
  | .inf n => if n then fmtF32.invalid else (fmtF32.infCode false, 0)
  | .fin n m e =>
    if m = 0 then (fmtF32.signed n 0, 0)
    else if n then fmtF32.invalid
    else
      let odd := e % 2 ≠ 0
      let k := m * 2 ^ (if odd then 65 else 64)
      let r := isqrt k
      fmtF32.encode rm subn false false r (((if odd then e - 1 else e) - 64) / 2) (r * r != k)

/-- 1 / √A (R132). -/
def fRsq (rm : RM) (subn : Bool) (a : Nat) : Coded :=
  match fmtF32.decode subn a with
  | .nan sig => fnNan sig
  | .inf n => if n then fmtF32.invalid else (fmtF32.signed false 0, 0)
  | .fin n m e =>
    if m = 0 then (fmtF32.infCode n, flDZ)
    else if n then fmtF32.invalid
    else
      let odd := e % 2 ≠ 0
      let d := if odd then 2 * m else m
      let r := isqrt (2 ^ 128 / d)
      fmtF32.encode rm subn false false r (-64 - (if odd then e - 1 else e) / 2) (r * r * d != 2 ^ 128)

/-- The fraction bits of the fixed-point numbers below. -/
def fixBits : Nat := 640
def fixOne : Nat := 2 ^ fixBits

/-- A product of fixed-point numbers. -/
def fixMul (a b : Nat) : Nat := a * b / fixOne

/-- Σ z^(2k+1)/(2k+1) over `n` terms from the k-th, `p` being z^(2k+1) and `z2` z²; the signs alternate with `alt`. -/
def atanSum (z2 : Nat) (alt : Bool) : Nat → Nat → Nat → Int
  | 0, _, _ => 0
  | n + 1, k, p =>
    let t : Int := (p / (2 * k + 1) : Nat)
    let rest := atanSum z2 alt n (k + 1) (fixMul p z2)
    if alt then t - rest else t + rest

/-- artanh z for z up to 1/3, and arctan z for small z. -/
def fixAtanh (z : Nat) : Nat := (atanSum (fixMul z z) false 220 0 z).toNat
def fixAtan (z : Nat) : Nat := (atanSum (fixMul z z) true 220 0 z).toNat

/-- ln 2 = 2 artanh(1/3). -/
def fixLn2 : Nat := 2 * fixAtanh (fixOne / 3)

/-- π = 16 arctan(1/5) − 4 arctan(1/239). -/
def fixPi : Nat := 16 * fixAtan (fixOne / 5) - 4 * fixAtan (fixOne / 239)

/-- Σ y^k/k! from the k-th term `t`, `n` terms. -/
def expSum (y : Nat) : Nat → Nat → Nat → Nat
  | 0, _, _ => 0
  | n + 1, k, t => t + expSum y n (k + 1) (fixMul t y / (k + 1))

/-- e^y for y in [0, 1). -/
def fixExp (y : Nat) : Nat := expSum y 160 0 fixOne

/-- Σ (−1)^k y^(2k+1)/(2k+1)! from the term `t`, `n` terms. -/
def sinSum (y2 : Nat) : Nat → Nat → Nat → Int
  | 0, _, _ => 0
  | n + 1, k, t => t - sinSum y2 n (k + 1) (fixMul t y2 / ((2 * k + 2) * (2 * k + 3)))

/-- sin y for y in [0, π/2]. -/
def fixSin (y : Nat) : Nat := (sinSum (fixMul y y) 90 0 y).toNat

/-- m · 2^e as a fixed-point number. -/
def toFix (m : Nat) (e : Int) : Nat :=
  let k := e + fixBits
  if 0 ≤ k then m * 2 ^ k.toNat else m / 2 ^ (-k).toNat

/-- Rounds an inexact fixed-point result times 2^k. -/
def fixRound (rm : RM) (subn neg : Bool) (v : Nat) (k : Int) : Coded :=
  fmtF32.encode rm subn false neg v (k - fixBits) true

/-- 2^A (R132). -/
def fExp2 (rm : RM) (subn : Bool) (a : Nat) : Coded :=
  match fmtF32.decode subn a with
  | .nan sig => fnNan sig
  | .inf n => if n then (0, 0) else (fmtF32.infCode false, 0)
  | .fin n m e =>
    if m = 0 then fmtF32.encode rm subn false false 1 0 false
    else if 9 < e + Nat.log2 m then fmtF32.encode rm subn false false 1 (if n then -400 else 400) false
    else
      let fx := toFix m e
      let whole : Int := (fx / fixOne : Nat)
      let frac := fx % fixOne
      if frac = 0 then fmtF32.encode rm subn false false 1 (if n then -whole else whole) false
      else if n then fixRound rm subn false (fixExp (fixMul (fixOne - frac) fixLn2)) (-whole - 1)
      else fixRound rm subn false (fixExp (fixMul frac fixLn2)) whole

/-- log2 A (R132). -/
def fLog2 (rm : RM) (subn : Bool) (a : Nat) : Coded :=
  match fmtF32.decode subn a with
  | .nan sig => fnNan sig
  | .inf n => if n then fmtF32.invalid else (fmtF32.infCode false, 0)
  | .fin n m e =>
    if m = 0 then (fmtF32.infCode true, flDZ)
    else if n then fmtF32.invalid
    else
      let l := Nat.log2 m
      let k := e + l
      if m = 2 ^ l then fmtF32.encode rm subn false (decide (k < 0)) k.natAbs 0 false
      else
        let c := toFix m (-(l : Int))
        let ln := 2 * fixAtanh ((c - fixOne) * fixOne / (c + fixOne))
        let t : Int := k * fixOne + (ln * fixOne / fixLn2 : Nat)
        fixRound rm subn (decide (t < 0)) t.natAbs 0

/-- sin(π·r) for r = v · 2^−fixBits in [0, 1/2]. -/
def sinTurn (v : Nat) : Nat := fixSin (fixMul v fixPi)

/-- sin(π·A) (R132, R315). -/
def fSin (rm : RM) (subn : Bool) (a : Nat) : Coded :=
  match fmtF32.decode subn a with
  | .nan sig => fnNan sig
  | .inf _ => fmtF32.invalid
  | .fin n m e =>
    if m = 0 ∨ 23 ≤ e + Nat.log2 m then (fmtF32.signed n 0, 0)
    else
      let fx := toFix m e % (2 * fixOne)
      let neg := xor n (decide (fixOne ≤ fx))
      let r := fx % fixOne
      if r = 0 then (fmtF32.signed n 0, 0)
      else if r = fixOne / 2 then fmtF32.encode rm subn false neg 1 0 false
      else fixRound rm subn neg (sinTurn (if r < fixOne / 2 then r else fixOne - r)) 0

/-- cos(π·A) (R132, R315). -/
def fCos (rm : RM) (subn : Bool) (a : Nat) : Coded :=
  match fmtF32.decode subn a with
  | .nan sig => fnNan sig
  | .inf _ => fmtF32.invalid
  | .fin _ m e =>
    if m = 0 ∨ 24 ≤ e + Nat.log2 m then (fmtF32.encode rm subn false false 1 0 false)
    else
      let fx := toFix m e % (2 * fixOne)
      let r := if fixOne < fx then 2 * fixOne - fx else fx
      if r = 0 then fmtF32.encode rm subn false false 1 0 false
      else if r = fixOne then fmtF32.encode rm subn false true 1 0 false
      else if r = fixOne / 2 then (0, 0)
      else if r < fixOne / 2 then fixRound rm subn false (sinTurn (fixOne / 2 - r)) 0
      else fixRound rm subn true (sinTurn (r - fixOne / 2)) 0

/-- Squares a fixed-point number `n` times. -/
def fixSquare : Nat → Nat → Nat
  | 0, v => v
  | n + 1, v => fixSquare n (fixMul v v)

/-- e^−y for y below 512, by 1/e^(y/512) and nine squarings. -/
def fixExpNeg (y : Nat) : Nat := fixSquare 9 (fixOne * fixOne / fixExp (y / 512))

/-- tanh A (R132); beyond 64 the result lies within 2^−180 of 1. -/
def fTanh (rm : RM) (subn : Bool) (a : Nat) : Coded :=
  match fmtF32.decode subn a with
  | .nan sig => fnNan sig
  | .inf n => fmtF32.encode rm subn false n 1 0 false
  | .fin n m e =>
    if m = 0 then (fmtF32.signed n 0, 0)
    else if 6 ≤ e + Nat.log2 m then fixRound rm subn n (fixOne - 1) 0
    else
      let t := fixExpNeg (2 * toFix m e)
      fixRound rm subn n ((fixOne - t) * fixOne / (fixOne + t)) 0

end Sys2Proof.Machine
end

