-- ==== Sys2Proof/Syntax.lean ====
section
/-! DEFINITION. The instructions and steps of the part, one constructor per row of spec/opcode_table.json.
Scalar rows carry the fields of R41 to R45; lane rows carry the fields of R47; rows without an encoding
(device stores, debug commands, control-register writes, system calls and events, 95_what_each_step_holds.md)
carry operands of the model's that say which die, job, command or register the step is about. -/

namespace Sys2Proof

/-- The operand fields of a lane instruction, all of R47 but the opcode. -/
structure LaneOps where
  ty    : BitVec 5
  msel  : BitVec 3
  rnd   : BitVec 3
  sat   : BitVec 1
  kA    : BitVec 2
  kB    : BitVec 2
  kC    : BitVec 2
  flags : BitVec 4
  dest  : BitVec 8
  a     : BitVec 8
  b     : BitVec 8
  c     : BitVec 8
  w2    : BitVec 32
  deriving DecidableEq, Repr

/-- A job: its partition (16 for the service job, which belongs to none, R258) and its JOBID (R221). -/
structure JobRef where
  part : Nat
  id   : Nat
  deriving DecidableEq, Repr

/-- A workgroup of a job (R15). -/
structure WgRef where
  job : JobRef
  wg  : Nat
  deriving DecidableEq, Repr

/-- A wave of a workgroup (R16). -/
structure WaveRef where
  wg   : WgRef
  wave : Nat
  deriving DecidableEq, Repr

/-- A fragment of a wave (R24; the index of R234). -/
structure FragRef where
  wave : WaveRef
  frag : Nat
  deriving DecidableEq, Repr

/-- Where a system call comes from: a batch record of a die's service queue (R260), the ECALL of a control
program of a partition with its two argument words, or a partition's mailbox (R263, R265). -/
inductive CallSrc where
  | svc     (die : BitVec 2) (seq : BitVec 32)
  | ecall   (part : BitVec 4) (a0 a1 : Word64)
  | mailbox (part : BitVec 4)
  deriving DecidableEq, Repr

/-- Why a pre-emption is asked for (R241, R240): the partition's controller, the park rule, a graph stop,
or a checkpoint. -/
inductive PreemptKind where
  | controller | eviction | stop | checkpoint
  deriving DecidableEq, Repr

/-- The control registers and table entries that have no row of their own (REGISTER_WRITE). -/
inductive CtlReg where
  | s2root     (part : BitVec 4)
  | featmask   (part : BitVec 4)
  | preemptcfg (part : BitVec 4)
  | savewin    (part : BitVec 4)
  | msix       (part : BitVec 4)
  | keyslots   (part : BitVec 4)
  | sigpolicy  (part : BitVec 4)
  | enroll     (part : BitVec 4) (k : BitVec 3)
  | steering   (entry : BitVec 12)
  | ring       (entry : BitVec 8)
  | binding    (entry : BitVec 8)
  | peerwin    (window : BitVec 8)
  | monReq     (word : BitVec 3)
  | monBell
  | vfReq      (part : BitVec 4) (word : BitVec 3)
  | vfBell     (part : BitVec 4)
  deriving DecidableEq, Repr

/-- A register of a control core's hart (R3, RVA23): integer, floating-point, an 8-byte part of a vector register, or a control register. -/
inductive CoreReg where
  | x   (r : BitVec 5)
  | f   (r : BitVec 5)
  | v   (r : BitVec 5) (part : BitVec 10)
  | csr (n : BitVec 12)
  deriving DecidableEq, Repr

/-- What a control core does (R3, R171, R202): `rd` is the register that a load, an AMO, LR or SC writes, `uns` marks a load that
zero-extends; floating-point accesses, an element of a vector access, and an instruction without an access, of which the step names what it
writes and where the hart goes on (log 74). -/
inductive CoreOp where
  | load  (rd : BitVec 5) (size : BitVec 2) (uns : Bool)
  | store (size : BitVec 2) (v : Word64)
  | amo   (rd : BitVec 5) (op : BitVec 4) (size : BitVec 2) (v : Word64)
  | lr    (rd : BitVec 5) (size : BitVec 2)
  | sc    (rd : BitVec 5) (size : BitVec 2) (v : Word64)
  | fence (io : Bool)
  | loadF  (fd : BitVec 5) (size : BitVec 2)
  | storeF (fs : BitVec 5) (size : BitVec 2)
  | loadV  (vd : BitVec 5) (elem : BitVec 13) (size : BitVec 2)
  | storeV (vs : BitVec 5) (elem : BitVec 13) (size : BitVec 2)
  | own    (writes : List (CoreReg × Word64)) (pc : Word64)
  deriving DecidableEq, Repr

/-- Where a remote access goes: a physical address that the endpoint gives, or a partition's intermediate address that a peer
window gives (R177, R268). -/
inductive RemoteAddr where
  | host (pa : BitVec 44)
  | peer (part : BitVec 4) (ipa : Word64)
  deriving DecidableEq, Repr

/-- What the other ranks bring to a collective (R269): which collective of its group it is, counted from 0, and the bytes of each
rank. -/
structure Contribs where
  kth : Nat
  ranks : List (Nat × List Byte)
  deriving DecidableEq, Repr

/-- The instructions and steps of spec/opcode_table.json, in the table's order. -/
inductive Instr where
  -- scalar arithmetic (R338 to R341)
  | saddR (d a b : BitVec 6)
  | ssub (d a b : BitVec 6)
  | smul (d a b : BitVec 6)
  | smulh (d a b : BitVec 6)
  | sandR (d a b : BitVec 6)
  | sorR (d a b : BitVec 6)
  | sxorR (d a b : BitVec 6)
  | sshlR (d a b : BitVec 6)
  | sshrR (d a b : BitVec 6)
  | ssraR (d a b : BitVec 6)
  | smin (d a b : BitVec 6)
  | smax (d a b : BitVec 6)
  | scmp (cc : BitVec 3) (d a b : BitVec 6)
  | ssel (c d a b : BitVec 6)
  | saddI (d a : BitVec 6) (imm : BitVec 14)
  | sandI (d a : BitVec 6) (imm : BitVec 14)
  | sorI (d a : BitVec 6) (imm : BitVec 14)
  | sxorI (d a : BitVec 6) (imm : BitVec 14)
  | sshlI (d a : BitVec 6) (amt : BitVec 6)
  | sshrI (d a : BitVec 6) (amt : BitVec 6)
  | ssraI (d a : BitVec 6) (amt : BitVec 6)
  | sli (d : BitVec 6) (imm : BitVec 14)
  | slui (d a : BitVec 6) (imm : BitVec 14)
  | sld (d a : BitVec 6) (off : BitVec 14)
  | sst (d a : BitVec 6) (off : BitVec 14)
  | sldk (d : BitVec 6) (k : BitVec 14)
  | sysrd (d : BitVec 6) (n : BitVec 14)
  | syswrExec (a : BitVec 6)
  | syswrFmode (a : BitVec 6)
  | syswrFflags (a : BitVec 6)
  | syswrPev (a : BitVec 6)
  | syswrEvmask (a : BitVec 6)
  | syswrReadonly (a : BitVec 6) (n : BitVec 14)
  -- control flow (R42, R45)
  | bc (cond : BitVec 2) (a : BitVec 6) (off : BitVec 16)
  | bcMask (cond : BitVec 2) (m : BitVec 3) (off : BitVec 16)
  | split (m : BitVec 3) (k : BitVec 6) (off : BitVec 16)
  | jmp (off : BitVec 26)
  | call (off : BitVec 26)
  | waitaddr (cond : BitVec 3) (a b : BitVec 6)
  | cpstart (a b : BitVec 6)
  | cptest (any : BitVec 1) (d a b : BitVec 6)
  | nop
  | endFrag
  | yieldSlot
  | ret (a : BitVec 6)
  | reconv (k : BitVec 6)
  | ifence
  | efence (scope : BitVec 2)
  | entrydone
  | exitdone
  | trap (code : BitVec 14)
  | tret
  | svc (n : BitVec 10)
  | svcret
  | smode (m : BitVec 3)
  | tlbiPage (a : BitVec 6)
  | tlbiJob (a : BitVec 6)
  | tlbiPartition (a : BitVec 6)
  | lissue (n : BitVec 5)
  | ljump (imm : BitVec 14)
  | ljumpReg (a : BitVec 6)
  | rep (imm : BitVec 14)
  -- events, barriers, baton (R43)
  | armBarrier (n : BitVec 4) (a : BitVec 6) (off : BitVec 11)
  | armBitmap (n : BitVec 4) (a : BitVec 6) (off : BitVec 11)
  | armMailbox (n : BitVec 4) (a : BitVec 6) (off : BitVec 11)
  | armPool (n : BitVec 4) (a : BitVec 6) (off : BitVec 11)
  | armAddr (n : BitVec 4) (a : BitVec 6) (off : BitVec 11)
  | armReply (n : BitVec 4) (a : BitVec 6) (off : BitVec 11)
  | armTimer (n : BitVec 4) (a : BitVec 6) (off : BitVec 11)
  | armBaton (n : BitVec 4) (a : BitVec 6) (off : BitVec 11)
  | await (slots : BitVec 16)
  | disarm (n : BitVec 4)
  | barinit (k : BitVec 8)
  | bararrive (a : BitVec 6) (k : BitVec 8)
  | barwait (k : BitVec 8)
  | batonTake
  | batonPass
  -- lane integer (R60)
  | vadd (f : LaneOps)
  | vsub (f : LaneOps)
  | vmul (f : LaneOps)
  | vmulh (f : LaneOps)
  | vmad (f : LaneOps)
  | vdiv (f : LaneOps)
  | vrem (f : LaneOps)
  | vmin (f : LaneOps)
  | vmax (f : LaneOps)
  | vabs (f : LaneOps)
  | vand (f : LaneOps)
  | vor (f : LaneOps)
  | vxor (f : LaneOps)
  | vshl (f : LaneOps)
  | vshr (f : LaneOps)
  | vsra (f : LaneOps)
  | vpopc (f : LaneOps)
  | vclz (f : LaneOps)
  | vctz (f : LaneOps)
  | vbrev (f : LaneOps)
  | vbfe (f : LaneOps)
  | vbfi (f : LaneOps)
  | vcmp (f : LaneOps)
  | vsel (f : LaneOps)
  | vmov (f : LaneOps)
  | vli (f : LaneOps)
  | vlane (f : LaneOps)
  -- lane floating point and conversion
  | fadd (f : LaneOps)
  | fsub (f : LaneOps)
  | fmul (f : LaneOps)
  | ffma (f : LaneOps)
  | fmin (f : LaneOps)
  | fmax (f : LaneOps)
  | fcmp (f : LaneOps)
  | fclass (f : LaneOps)
  | fdiv (f : LaneOps)
  | fsqrt (f : LaneOps)
  | frcp (f : LaneOps)
  | frsq (f : LaneOps)
  | fexp2 (f : LaneOps)
  | flog2 (f : LaneOps)
  | fsin (f : LaneOps)
  | fcos (f : LaneOps)
  | ftanh (f : LaneOps)
  | cvt (f : LaneOps)
  | cvtn (f : LaneOps)
  | qpack (f : LaneOps)
  | qunpack (f : LaneOps)
  -- lane memory and atomics
  | vld (f : LaneOps)
  | vst (f : LaneOps)
  | vldb (f : LaneOps)
  | vstb (f : LaneOps)
  | vlds (f : LaneOps)
  | vsts (f : LaneOps)
  | vatom (f : LaneOps)
  | vpref (f : LaneOps)
  -- cross-lane and masks
  | xballot (f : LaneOps)
  | xbcast (f : LaneOps)
  | xperm (f : LaneOps)
  | xred (f : LaneOps)
  | xscan (f : LaneOps)
  | mand (f : LaneOps)
  | mor (f : LaneOps)
  | mxor (f : LaneOps)
  | mandn (f : LaneOps)
  | mnot (f : LaneOps)
  | mmov (f : LaneOps)
  | mpopc (f : LaneOps)
  -- matrix, pool, ragged
  | mma (f : LaneOps)
  | mvstream (f : LaneOps)
  | bload (f : LaneOps)
  | acczero (f : LaneOps)
  | accread (f : LaneOps)
  | accwrite (f : LaneOps)
  | pinitCreate (f : LaneOps)
  | pinitDestroy (f : LaneOps)
  | pput (f : LaneOps)
  | ptake (f : LaneOps)
  | pstat (f : LaneOps)
  | rload (f : LaneOps)
  | extensionOpcode (op : BitVec 10) (f : LaneOps)
  -- stores to the queue windows (R163, R260) and the service-fault verdict (R258)
  | fqtail (d : BitVec 2) (v : BitVec 32)
  | fqdoneRetry (d : BitVec 2) (seq : BitVec 32)
  | fqdoneKill (d : BitVec 2) (seq : BitVec 32)
  | sqtail (d : BitVec 2) (v : BitVec 32)
  | sqdone (d : BitVec 2) (seq : BitVec 32)
  | sqrestart (d : BitVec 2)
  | serviceFaultVerdict (d : BitVec 2) (v : Word64)
  -- debug commands (R255)
  | freeze (j : JobRef) (wg : BitVec 32)
  | thaw (j : JobRef) (wg : BitVec 32)
  | step (fr : FragRef) (count : BitVec 16)
  | freezept (j : JobRef) (slot : BitVec 3) (addr : Word64)
  | read (w : WaveRef) (host : Word64)
  | write (w : WaveRef) (host : Word64)
  | checkpoint (part : BitVec 4) (graph area : Word64) (hold : Bool)
  | restore (part : BitVec 4) (area : Word64)
  | log (j : JobRef) (area bytes : Word64) (mode : BitVec 2)
  -- control-register writes (R270, R279, R280)
  | reset (part : BitVec 4)
  | clusters (part : BitVec 4) (v : BitVec 32)
  | parklimit (part : BitVec 4) (v : BitVec 32)
  | qos (part : BitVec 4) (v : Word64)
  | clkstep (d : BitVec 2) (v : BitVec 3)
  | gate (d : BitVec 2) (v : Word64)
  | margincommit (d : BitVec 2) (v : Word64)
  | registerWrite (r : CtlReg) (v : BitVec 512)
  -- system calls (R263)
  | null (c : CallSrc)
  | launch (c : CallSrc)
  | stopgraph (c : CallSrc)
  | resumegraph (c : CallSrc)
  | rescreate (c : CallSrc)
  | resdemote (c : CallSrc)
  | resevict (c : CallSrc)
  | respromote (c : CallSrc)
  | resfree (c : CallSrc)
  | map (c : CallSrc)
  | unmap (c : CallSrc)
  | armlaunch (c : CallSrc)
  | protect (c : CallSrc)
  | teardown (c : CallSrc)
  | attest (c : CallSrc)
  | mcload (c : CallSrc)
  | collgroup (c : CallSrc)
  | collfree (c : CallSrc)
  | controlProgramCall (c : CallSrc) (status : BitVec 8) (result : Word64)
  -- Meridian and the dispatchers (R226, R228, R36, R241)
  | launchStart (queue : BitVec 5)
  | dieReport (j : JobRef) (d : BitVec 2)
  | completionSignal (j : JobRef)
  | workgroupRetirement (w : WgRef)
  | dispatch (w : WgRef) (core : BitVec 8)
  | parkLimitExpiry (j : JobRef)
  | preemptionRequest (w : WgRef) (k : PreemptKind)
  | drainLimitExpiry (w : WgRef)
  | copySquash (w : WgRef)
  | saveCompletion (w : WgRef)
  | exitDeadlineExpiry (fr : FragRef)
  | graphStopJob (part : BitVec 4)
  | starvationBoost (fr : FragRef)
  | dataReturn (fr : FragRef)
  -- queues, engines, tokens, pools, TLBI
  | postedStoreTranslation (fr : FragRef)
  | faultQueueWrite (d : BitVec 2)
  | serviceQueuePost (d : BitVec 2)
  | copyFire (core : BitVec 8) (chan : BitVec 3)
  | chunkLand (cmd : Nat) (chunk : Nat)
  | copyCompletion (cmd : Nat)
  | collectiveResult (cmd : Nat) (contribs : Contribs)
  | timerTokenFire (w : WaveRef) (slot : BitVec 4)
  | poolSummary (pool : BitVec 6) (d : BitVec 2)
  | poolCensus (pool : BitVec 6)
  | tlbiCompletion (id : Nat)
  | tlbiDrainExpiry (id : Nat)
  -- freezing, network, host and module events
  | freezePointHit (fr : FragRef)
  | stepEnd (fr : FragRef)
  | frameArrival (frame : List Byte)
  | remoteWriteArrival (tgt : RemoteAddr) (bytes : List Byte)
  | dieLoss (d : BitVec 2)
  | flitCrcFailure (d : BitVec 2)
  | ucieModuleFailure (d : BitVec 2) (m : BitVec 4)
  | moduleReset
  | powerLoss
  | firmwareFlip (digest : BitVec 256) (version : Nat) (signed : Bool)
  | floorRaise (version : Nat) (signed : Bool)
  | thermalTrip
  | scrubUnit (ctx : Nat)
  | controlCoreAccess (hart : BitVec 5) (pa : BitVec 44) (op : CoreOp)
  | peerAtomicArrival (tgt : RemoteAddr) (ty : BitVec 5) (op : BitVec 4) (b c : Word64)
  | portFailure (plane : BitVec 5) (module : BitVec 10)
  | peerGroupChange (part : BitVec 4) (group : BitVec 8) (rank : BitVec 10) (created : Bool)
  | marginProposal (d : BitVec 2) (v : Word64)
  deriving DecidableEq, Repr

end Sys2Proof
end

