-- ==== Sys2Proof/Machine/Encoding.lean ====
section
/-! DEFINITION. The lane format's fields and the checks made of them when LISSUE enqueues an instruction
(R47 to R61): per opcode the permitted types, operand kinds, modifiers and flags, and the SUB value of the first
failing check. -/

namespace Sys2Proof

/-- The SUB values of FLT_ILLEGAL that an encoding by itself can have (R72). -/
inductive BadCode where
  | unassigned   -- 0x00
  | reservedBit  -- 0x01
  | typeCode     -- 0x02
  | allotment    -- 0x03
  | oddPair      -- 0x04
  | kind         -- 0x05
  | feature      -- 0x06
  deriving DecidableEq, Repr

/-- The SUB number of a refused encoding (R72). -/
def BadCode.sub : BadCode → BitVec 8
  | .unassigned => 0x00
  | .reservedBit => 0x01
  | .typeCode => 0x02
  | .allotment => 0x03
  | .oddPair => 0x04
  | .kind => 0x05
  | .feature => 0x06

/-- What the checks need to know of the wave: allotments (R17, R19), the panel window (R138), FEATURES (R71). -/
structure LaneEnv where
  vregs : Nat
  sregs : Nat
  tiles : Nat
  panels : Nat
  features : BitVec 64
  deriving DecidableEq, Repr

/-- Every register, tile, panel and feature: what an encoding by itself is checked against. -/
def LaneEnv.full : LaneEnv :=
  { vregs := 256, sregs := 64, tiles := 8, panels := 128, features := BitVec.allOnes 64 }

/-- Fields of a 96-bit lane word (R47). -/
def laneFields (w : BitVec 96) : LaneOps :=
  { ty := w.extractLsb' 81 5, msel := w.extractLsb' 78 3, rnd := w.extractLsb' 75 3, sat := w.extractLsb' 74 1
    kA := w.extractLsb' 72 2, kB := w.extractLsb' 70 2, kC := w.extractLsb' 68 2, flags := w.extractLsb' 64 4
    dest := w.extractLsb' 56 8, a := w.extractLsb' 48 8, b := w.extractLsb' 40 8, c := w.extractLsb' 32 8
    w2 := w.extractLsb' 0 32 }

/-- The opcode of a lane word (R47). -/
def laneOpcode (w : BitVec 96) : BitVec 10 := w.extractLsb' 86 10

/-- The lane word of an opcode and its fields (R47). -/
def laneWord (op : BitVec 10) (f : LaneOps) : BitVec 96 :=
  op ++ f.ty ++ f.msel ++ f.rnd ++ f.sat ++ f.kA ++ f.kB ++ f.kC ++ f.flags
    ++ f.dest ++ f.a ++ f.b ++ f.c ++ f.w2

/-- The lane opcode map (R60): the instruction an opcode below 0x300 names. PINIT is told apart by its flags (R209). -/
def laneInstr (op : BitVec 10) (f : LaneOps) : Option Instr :=
  match op.toNat with
  | 0x000 => some (.vadd f)
  | 0x001 => some (.vsub f)
  | 0x002 => some (.vmul f)
  | 0x003 => some (.vmulh f)
  | 0x004 => some (.vmad f)
  | 0x005 => some (.vdiv f)
  | 0x006 => some (.vrem f)
  | 0x007 => some (.vmin f)
  | 0x008 => some (.vmax f)
  | 0x009 => some (.vabs f)
  | 0x010 => some (.vand f)
  | 0x011 => some (.vor f)
  | 0x012 => some (.vxor f)
  | 0x013 => some (.vshl f)
  | 0x014 => some (.vshr f)
  | 0x015 => some (.vsra f)
  | 0x018 => some (.vpopc f)
  | 0x019 => some (.vclz f)
  | 0x01A => some (.vctz f)
  | 0x01B => some (.vbrev f)
  | 0x01C => some (.vbfe f)
  | 0x01D => some (.vbfi f)
  | 0x020 => some (.vcmp f)
  | 0x021 => some (.vsel f)
  | 0x022 => some (.vmov f)
  | 0x023 => some (.vli f)
  | 0x024 => some (.vlane f)
  | 0x100 => some (.fadd f)
  | 0x101 => some (.fsub f)
  | 0x102 => some (.fmul f)
  | 0x103 => some (.ffma f)
  | 0x104 => some (.fmin f)
  | 0x105 => some (.fmax f)
  | 0x106 => some (.fcmp f)
  | 0x107 => some (.fclass f)
  | 0x108 => some (.fdiv f)
  | 0x109 => some (.fsqrt f)
  | 0x10A => some (.frcp f)
  | 0x10B => some (.frsq f)
  | 0x10C => some (.fexp2 f)
  | 0x10D => some (.flog2 f)
  | 0x10E => some (.fsin f)
  | 0x10F => some (.fcos f)
  | 0x110 => some (.ftanh f)
  | 0x120 => some (.cvt f)
  | 0x121 => some (.cvtn f)
  | 0x122 => some (.qpack f)
  | 0x123 => some (.qunpack f)
  | 0x200 => some (.vld f)
  | 0x201 => some (.vst f)
  | 0x202 => some (.vldb f)
  | 0x203 => some (.vstb f)
  | 0x204 => some (.vlds f)
  | 0x205 => some (.vsts f)
  | 0x206 => some (.vatom f)
  | 0x207 => some (.vpref f)
  | 0x280 => some (.xballot f)
  | 0x281 => some (.xbcast f)
  | 0x282 => some (.xperm f)
  | 0x283 => some (.xred f)
  | 0x284 => some (.xscan f)
  | 0x290 => some (.mand f)
  | 0x291 => some (.mor f)
  | 0x292 => some (.mxor f)
  | 0x293 => some (.mandn f)
  | 0x294 => some (.mnot f)
  | 0x295 => some (.mmov f)
  | 0x296 => some (.mpopc f)
  | 0x2C0 => some (.mma f)
  | 0x2C1 => some (.mvstream f)
  | 0x2C2 => some (.bload f)
  | 0x2C3 => some (.acczero f)
  | 0x2C4 => some (.accread f)
  | 0x2C5 => some (.accwrite f)
  | 0x2D1 => some (.pput f)
  | 0x2D2 => some (.ptake f)
  | 0x2D3 => some (.pstat f)
  | 0x2E0 => some (.rload f)
  | 0x2D0 => if f.flags = 1 then some (.pinitDestroy f) else some (.pinitCreate f)
  | n => if 0x300 ≤ n ∧ n < 0x3C0 then some (.extensionOpcode op f) else none

/-- The opcode and the fields of a lane instruction (R60). -/
def laneCode : Instr → Option (BitVec 10 × LaneOps)
  | .vadd f => some (0x000, f)
  | .vsub f => some (0x001, f)
  | .vmul f => some (0x002, f)
  | .vmulh f => some (0x003, f)
  | .vmad f => some (0x004, f)
  | .vdiv f => some (0x005, f)
  | .vrem f => some (0x006, f)
  | .vmin f => some (0x007, f)
  | .vmax f => some (0x008, f)
  | .vabs f => some (0x009, f)
  | .vand f => some (0x010, f)
  | .vor f => some (0x011, f)
  | .vxor f => some (0x012, f)
  | .vshl f => some (0x013, f)
  | .vshr f => some (0x014, f)
  | .vsra f => some (0x015, f)
  | .vpopc f => some (0x018, f)
  | .vclz f => some (0x019, f)
  | .vctz f => some (0x01A, f)
  | .vbrev f => some (0x01B, f)
  | .vbfe f => some (0x01C, f)
  | .vbfi f => some (0x01D, f)
  | .vcmp f => some (0x020, f)
  | .vsel f => some (0x021, f)
  | .vmov f => some (0x022, f)
  | .vli f => some (0x023, f)
  | .vlane f => some (0x024, f)
  | .fadd f => some (0x100, f)
  | .fsub f => some (0x101, f)
  | .fmul f => some (0x102, f)
  | .ffma f => some (0x103, f)
  | .fmin f => some (0x104, f)
  | .fmax f => some (0x105, f)
  | .fcmp f => some (0x106, f)
  | .fclass f => some (0x107, f)
  | .fdiv f => some (0x108, f)
  | .fsqrt f => some (0x109, f)
  | .frcp f => some (0x10A, f)
  | .frsq f => some (0x10B, f)
  | .fexp2 f => some (0x10C, f)
  | .flog2 f => some (0x10D, f)
  | .fsin f => some (0x10E, f)
  | .fcos f => some (0x10F, f)
  | .ftanh f => some (0x110, f)
  | .cvt f => some (0x120, f)
  | .cvtn f => some (0x121, f)
  | .qpack f => some (0x122, f)
  | .qunpack f => some (0x123, f)
  | .vld f => some (0x200, f)
  | .vst f => some (0x201, f)
  | .vldb f => some (0x202, f)
  | .vstb f => some (0x203, f)
  | .vlds f => some (0x204, f)
  | .vsts f => some (0x205, f)
  | .vatom f => some (0x206, f)
  | .vpref f => some (0x207, f)
  | .xballot f => some (0x280, f)
  | .xbcast f => some (0x281, f)
  | .xperm f => some (0x282, f)
  | .xred f => some (0x283, f)
  | .xscan f => some (0x284, f)
  | .mand f => some (0x290, f)
  | .mor f => some (0x291, f)
  | .mxor f => some (0x292, f)
  | .mandn f => some (0x293, f)
  | .mnot f => some (0x294, f)
  | .mmov f => some (0x295, f)
  | .mpopc f => some (0x296, f)
  | .mma f => some (0x2C0, f)
  | .mvstream f => some (0x2C1, f)
  | .bload f => some (0x2C2, f)
  | .acczero f => some (0x2C3, f)
  | .accread f => some (0x2C4, f)
  | .accwrite f => some (0x2C5, f)
  | .pinitCreate f => some (0x2D0, f)
  | .pinitDestroy f => some (0x2D0, f)
  | .pput f => some (0x2D1, f)
  | .ptake f => some (0x2D2, f)
  | .pstat f => some (0x2D3, f)
  | .rload f => some (0x2E0, f)
  | .extensionOpcode op f => some (op, f)
  | _ => none

/-- Element width in bits of a type code (R59, R101, R103). -/
def tyBits (t : BitVec 5) : Nat :=
  match t.toNat with
  | 0x00 => 32 | 0x01 => 64 | 0x02 => 8 | 0x03 => 16 | 0x04 => 32 | 0x05 => 64
  | 0x06 => 8 | 0x07 => 16 | 0x08 => 32 | 0x09 => 64 | 0x0A => 16 | 0x0B => 16 | 0x0C => 32
  | 0x0D => 8 | 0x0E => 8 | 0x0F => 4 | 0x10 => 4 | 0x11 => 32 | 0x12 => 32
  | _ => 0

/-- The 64-bit types b64, s64, z64. -/
def tyIs64 (t : BitVec 5) : Bool := t == 0x01 || t == 0x05 || t == 0x09
/-- The packed pairs bf16x2 and f16x2. -/
def tyIsPair (t : BitVec 5) : Bool := t == 0x11 || t == 0x12
/-- The signed integer types. -/
def tyIsSigned (t : BitVec 5) : Bool := t == 0x02 || t == 0x03 || t == 0x04 || t == 0x05
/-- The floating-point formats and pairs, codes 0x0A to 0x0F, 0x11, 0x12. -/
def tyIsFloat (t : BitVec 5) : Bool := (0x0A ≤ t.toNat && t.toNat ≤ 0x0F) || tyIsPair t
/-- The integer types s8 to z64. -/
def tyIsInt (t : BitVec 5) : Bool := 0x02 ≤ t.toNat && t.toNat ≤ 0x09
/-- Bytes of an element in memory (R364). -/
def tyBytes (t : BitVec 5) : Nat := (tyBits t + 7) / 8

/-- What a source operand field may name (R48, R49, R122). -/
inductive Src where
  | unused   -- kind 00, field 0
  | any      -- kinds 00, 01, 10, 11 (special value)
  | imm012   -- kinds 00, 01, 10
  | reg01    -- kinds 00, 01
  | reg      -- kind 00
  | snap     -- kind 01
  | snapImm  -- kinds 01, 10
  | imm      -- kind 10
  | mask     -- kind 00, mask code 0x00 to 0x08
  | tile     -- kind 11, accumulator form
  deriving DecidableEq, Repr

/-- What the dest field names (R50). -/
inductive Dst where
  | reg | mask | tile | unused
  deriving DecidableEq, Repr

/-- How W2 is read (R54, R55). -/
inductive W2Form where
  | modifier            -- the modifier word, unless a source has kind 10
  | noMode              -- as modifier, but no cross-lane mode (XBCAST, XPERM)
  | conv                -- the conversion word: source type in [4:0]
  | zero                -- all zero
  | word (mask : Nat)   -- an operation word; `mask` has its reserved bits
  deriving DecidableEq, Repr

/-- The operand shape of an opcode (R60, R122 and the reference entries). -/
structure Shape where
  types : List Nat
  dst : Dst := .reg
  a : Src := .unused
  b : Src := .unused
  c : Src := .unused
  w2 : W2Form := .modifier
  neg : Bool := false
  sat : Bool := false
  rnd : Bool := false
  flags : List Nat := [0]
  feature : Option Nat := none
  kernel : Bool := false
  deriving DecidableEq, Repr

def tyInt4 : List Nat := [0x04, 0x08, 0x05, 0x09]
def tyB2 : List Nat := [0x00, 0x01]
def tyPairF : List Nat := [0x0C, 0x11, 0x12]
def tyMem : List Nat := [0, 1, 2, 3, 4, 5, 6, 7, 8, 9, 0x0A, 0x0B, 0x0C, 0x0D, 0x0E, 0x11, 0x12]
def tyCvt : List Nat := tyMem ++ [0x0F]

/-- Negate and absolute flags are permitted under s types only (R58). -/
def negS (f : LaneOps) : Bool := f.ty == 0x04 || f.ty == 0x05

/-- Types of VATOM by operation (R198). -/
def tyAtom (op : Nat) : List Nat :=
  if op = 0 then tyInt4 ++ [0x0C] else if op < 3 then tyInt4 else tyInt4 ++ tyB2

/-- Types of XRED by operation (R60, R135). -/
def tyRed (op : Nat) : List Nat := if op < 3 then tyInt4 ++ [0x0C] else [0x04, 0x08, 0x0C]

/-- The shape of each lane opcode. -/
def laneShape (op : BitVec 10) (f : LaneOps) : Shape :=
  match op.toNat with
  | 0x000 | 0x001 | 0x002 =>
    { types := tyInt4, a := .any, b := .any, neg := negS f, sat := true }
  | 0x003 | 0x005 | 0x006 => { types := tyInt4, a := .any, b := .any }
  | 0x004 => { types := tyInt4, a := .any, b := .any, c := .any, neg := negS f, sat := true }
  | 0x007 | 0x008 => { types := tyInt4, a := .any, b := .any, neg := negS f }
  | 0x009 => { types := [0x04, 0x05], a := .any }
  | 0x010 | 0x011 | 0x012 | 0x013 | 0x014 => { types := tyB2, a := .any, b := .any }
  | 0x015 => { types := [0x04, 0x05], a := .any, b := .any }
  | 0x018 | 0x019 | 0x01A | 0x01B => { types := tyB2, a := .any }
  | 0x01C => { types := tyB2 ++ [0x04, 0x05], a := .any, b := .any }
  | 0x01D => { types := tyB2, a := .any, b := .any, c := .any }
  | 0x020 =>
    { types := tyInt4 ++ tyB2, dst := .mask, a := .any, b := .any, neg := negS f
      flags := if f.ty.toNat ≤ 1 then [0, 1] else [0, 1, 2, 3, 4, 5] }
  | 0x021 => { types := tyB2, a := .any, b := .any, c := .mask }
  | 0x022 => { types := tyB2, a := .any }
  | 0x023 => { types := [0x00], a := .imm }
  | 0x024 => { types := [0x08], w2 := .zero }
  | 0x100 | 0x101 | 0x102 | 0x104 | 0x105 =>
    { types := tyPairF, a := .imm012, b := .imm012, neg := true, rnd := true }
  | 0x103 => { types := tyPairF, a := .imm012, b := .imm012, c := .imm012, neg := true, rnd := true }
  | 0x106 =>
    { types := [0x0C], dst := .mask, a := .imm012, b := .imm012, neg := true
      flags := [0, 1, 2, 3, 4, 5, 6, 7] }
  | 0x107 => { types := [0x0C], a := .imm012, neg := true }
  | 0x108 => { types := [0x0C], a := .imm012, b := .imm012, neg := true, rnd := true }
  | 0x109 | 0x10A | 0x10B | 0x10C | 0x10D | 0x10E | 0x10F | 0x110 =>
    { types := [0x0C], a := .imm012, neg := true, rnd := true }
  | 0x120 =>
    { types := tyCvt, a := .reg01, b := if tyIsPair f.ty then .reg01 else .unused
      w2 := .conv, sat := true, rnd := true
      flags := if tyIsPair (f.w2.extractLsb' 0 5) then [0, 1] else [0] }
  | 0x121 =>
    { types := [0x0D, 0x0E, 0x0F, 0x0B, 0x0A], a := .reg01
      b := if f.ty == 0x0B || f.ty == 0x0A then .unused else .reg01
      c := .reg, w2 := .conv, sat := true, rnd := true }
  | 0x122 => { types := [0x10], a := .reg01, b := .reg01, c := .reg01, w2 := .conv, sat := true, feature := some 1 }
  | 0x123 => { types := [0x04], a := .reg01, c := .reg01, w2 := .conv, feature := some 1 }
  | 0x200 =>
    { types := tyMem, a := .reg01, c := if f.w2.getLsbD 19 then .snap else .unused
      w2 := .word (if f.w2.getLsbD 19 then 0xFFF7FFFF else 0x0007FFFF) }
  | 0x201 =>
    { types := tyMem, dst := .unused, a := .reg01, b := .reg01
      c := if f.w2.getLsbD 19 then .snap else .unused
      w2 := .word (if f.w2.getLsbD 19 then 0xFFF7FFFF else 0x0007FFFF) }
  | 0x202 => { types := tyMem, a := .snap, w2 := .word 0xFFF80000 }
  | 0x203 => { types := tyMem, dst := .unused, a := .snap, b := .reg01, w2 := .word 0xFFF80000 }
  | 0x204 => { types := tyMem, a := .reg01, w2 := .word 0xFFF80000 }
  | 0x205 => { types := tyMem, dst := .unused, a := .reg01, b := .reg01, w2 := .word 0xFFF80000 }
  | 0x206 =>
    { types := tyAtom f.flags.toNat, dst := if f.w2.getLsbD 19 then .unused else .reg
      a := .reg01, b := .reg01, c := if f.flags == 7 then .reg01 else .unused
      w2 := .word 0x0007FFFF, rnd := f.ty == 0x0C, flags := [0, 1, 2, 3, 4, 5, 6, 7] }
  | 0x207 =>
    { types := [0x00], dst := .unused, a := .reg01, c := if f.w2.getLsbD 19 then .snap else .unused
      w2 := .word (if f.w2.getLsbD 19 then 0xFFF7FFFF else 0x0007FFFF) }
  | 0x280 => { types := [0x00], dst := .mask, a := .reg01 }
  | 0x281 => { types := tyB2, a := .reg, b := .snapImm, w2 := .noMode }
  | 0x282 => { types := tyB2, a := .reg, b := .reg, w2 := .noMode }
  | 0x283 =>
    { types := tyRed f.flags.toNat, a := .reg01, flags := [0, 1, 2, 3, 4]
      rnd := f.ty == 0x0C && f.flags == 0 }
  | 0x284 =>
    { types := tyInt4 ++ [0x0C], a := .reg01, flags := [0, 1, 2, 8, 9, 10]
      rnd := f.ty == 0x0C && f.flags.extractLsb' 0 3 == 0 }
  | 0x290 | 0x291 | 0x292 | 0x293 => { types := [0x00], dst := .mask, a := .mask, b := .mask, w2 := .zero }
  | 0x294 | 0x295 => { types := [0x00], dst := .mask, a := .mask, w2 := .zero }
  | 0x296 => { types := [0x00], a := .mask, w2 := .zero }
  | 0x2C0 => { types := [0x0C], dst := .tile, a := .reg, b := .snap, w2 := .word 0x0001FFFF }
  | 0x2C1 =>
    { types := [0x0C], dst := .tile, a := .reg, b := .snap, c := .snap, w2 := .word 0x0000000F
      feature := some 2 }
  | 0x2C2 => { types := [0x00], dst := .unused, a := .snap, b := .snap, w2 := .word 0x00001FFF }
  | 0x2C3 => { types := [0x0C], dst := .tile, w2 := .zero }
  | 0x2C4 => { types := [0x0C], c := .tile, w2 := .word 0xFFFFC080 }
  | 0x2C5 => { types := [0x0C], dst := .tile, a := .reg, w2 := .word 0xFFFFC080 }
  | 0x2D0 =>
    { types := [0x01], a := if f.flags = 1 then .unused else .reg, c := .snap, w2 := .zero
      flags := [0, 1], feature := some 3, kernel := true }
  | 0x2D1 => { types := [0x01], a := .reg01, b := .reg01, c := .snap, w2 := .zero, feature := some 3 }
  | 0x2D2 => { types := [0x01], a := .reg, b := .reg, c := .snap, w2 := .zero, feature := some 3 }
  | 0x2D3 => { types := [0x01], c := .snap, w2 := .word 0xFFFFF000, feature := some 3 }
  | 0x2E0 => { types := tyMem, a := .reg, b := .reg, w2 := .word 0x0000001F, feature := some 4 }
  | _ => { types := [] }

/-- A source field whose value is reserved (R48): SUB 0x01. -/
def srcReserved (u : Src) (k : BitVec 2) (x : BitVec 8) : Bool :=
  match u with
  | .unused => k != 0 || x != 0
  | .tile => (k == 1 && x.toNat > 63) || (k == 2 && x != 0) || (k == 3 && x.toNat > 7)
  | _ =>
    (k == 1 && x.toNat > 63) || (k == 2 && x != 0)
      || (k == 3 && (x.toNat ≥ 128 || (x.toNat ≥ 64 && x.toNat - 64 > 2) || (x.toNat < 64 && x.toNat > 7)))

/-- A source kind the position permits (R48, R49): otherwise SUB 0x05. -/
def srcKindOk (u : Src) (k : BitVec 2) (x : BitVec 8) : Bool :=
  match u with
  | .unused => true
  | .any => k != 3 || x.toNat ≥ 64
  | .imm012 => k != 3
  | .reg01 => k == 0 || k == 1
  | .reg => k == 0
  | .snap => k == 1
  | .snapImm => k == 1 || k == 2
  | .imm => k == 2
  | .mask => k == 0 && x.toNat ≤ 8
  | .tile => k == 3

/-- Whether a used source has kind 10, so that W2 is the immediate (R54). -/
def usesImm (sh : Shape) (f : LaneOps) : Bool :=
  (sh.a != .unused && f.kA == 2) || (sh.b != .unused && f.kB == 2) || (sh.c != .unused && f.kC == 2)

/-- The cross-lane mode, amount and identity of W2 (R55). -/
def w2Mode (f : LaneOps) : BitVec 3 := f.w2.extractLsb' 29 3
def w2Amount (f : LaneOps) : Nat := (f.w2.extractLsb' 23 6).toNat
def w2Ident (f : LaneOps) : BitVec 3 := f.w2.extractLsb' 20 3

/-- The mode field by itself is well formed (R56). -/
def modeReserved (f : LaneOps) : Bool :=
  w2Mode f == 7 || ((w2Mode f == 0 || w2Mode f == 6) && w2Amount f != 0)

/-- A negate or absolute flag that the opcode, type or operand does not permit (R58). -/
def negReserved (sh : Shape) (f : LaneOps) : Bool :=
  let bits := f.w2.extractLsb' 14 6
  (!sh.neg && bits != 0)
    || (sh.b == .unused && f.w2.extractLsb' 16 2 != 0)
    || (sh.c == .unused && f.w2.extractLsb' 14 2 != 0)

/-- Reserved bits of W2 (R54, R55): SUB 0x01. -/
def w2Reserved (sh : Shape) (f : LaneOps) : Bool :=
  match sh.w2 with
  | .modifier | .noMode =>
    !usesImm sh f && (f.w2.extractLsb' 0 14 != 0 || modeReserved f || negReserved sh f)
  | .conv => f.w2.extractLsb' 5 15 != 0 || modeReserved f
  | .zero => f.w2 != 0
  | .word m => f.w2 &&& BitVec.ofNat 32 m != 0

/-- A cross-lane mode with an A that cannot take one (R56, R372): SUB 0x05. -/
def modeKindBad (sh : Shape) (f : LaneOps) : Bool :=
  match sh.w2 with
  | .modifier | .conv => !usesImm sh f && w2Mode f != 0 && f.kA != 0
  | .noMode => !usesImm sh f && w2Mode f != 0
  | _ => false

/-- Reserved values that only one opcode has (R195, R216, R283, R363, R364): SUB 0x01. -/
def opReserved (op : BitVec 10) (f : LaneOps) : Bool :=
  match op.toNat with
  | 0x2C4 | 0x2C5 => decide ((f.w2.extractLsb' 0 7).toNat + (f.w2.extractLsb' 8 6).toNat + 1 > 128)
  | 0x2D3 =>
    decide ((f.w2.extractLsb' 0 4).toNat > 9) || (f.w2.extractLsb' 0 4 != 9 && f.w2.extractLsb' 4 8 != 0)
  | _ => false

/-- R61 step 3: a reserved field or reserved field value. -/
def reservedBad (op : BitVec 10) (sh : Shape) (f : LaneOps) : Bool :=
  decide (f.rnd.toNat > 4) || (!sh.rnd && f.rnd != 0) || (!sh.sat && f.sat != 0)
    || !sh.flags.contains f.flags.toNat
    || srcReserved sh.a f.kA f.a || srcReserved sh.b f.kB f.b || srcReserved sh.c f.kC f.c
    || (sh.dst == .unused && f.dest != 0) || (sh.dst == .tile && decide (f.dest.toNat > 7))
    || w2Reserved sh f || opReserved op f

/-- R61 step 4: the type field, and the source type of a conversion (R304, R306, R330). -/
def typeBad (op : BitVec 10) (sh : Shape) (f : LaneOps) : Bool :=
  let src := (f.w2.extractLsb' 0 5).toNat
  !sh.types.contains f.ty.toNat
    || (match op.toNat with
        | 0x120 => !tyCvt.contains src || src == f.ty.toNat
        | 0x121 => src != 0x0C
        | 0x122 => src != 0x04
        | 0x123 => src != 0x10
        | _ => false)

/-- R61 step 5, the kinds. -/
def kindBad (op : BitVec 10) (sh : Shape) (f : LaneOps) : Bool :=
  !srcKindOk sh.a f.kA f.a || !srcKindOk sh.b f.kB f.b || !srcKindOk sh.c f.kC f.c
    || (sh.dst == .mask && decide (f.dest.toNat > 8)) || modeKindBad sh f
    || (op == 0x121 && f.c == f.dest)

/-- A lane register the instruction names: its first number, how many registers, and whether it must be even. -/
structure RegSpan where
  base : Nat
  count : Nat
  even : Bool
  deriving DecidableEq, Repr

/-- The number of columns that ACCREAD and ACCWRITE move (R283). -/
def accCount (f : LaneOps) : Nat := (f.w2.extractLsb' 8 6).toNat + 1

/-- The type under which operand A, and B of a conversion, is read. -/
def srcType (op : BitVec 10) (f : LaneOps) : BitVec 5 :=
  if op == 0x120 || op == 0x121 || op == 0x122 || op == 0x123 then f.w2.extractLsb' 0 5 else f.ty

/-- A register span of a width-dependent operand (R49). -/
def spanOf (n : BitVec 8) (t : BitVec 5) : RegSpan :=
  if tyIs64 t then ⟨n.toNat, 2, true⟩ else ⟨n.toNat, 1, false⟩

/-- The span of dest (R49, R135, R330, R283). -/
def destSpan (op : BitVec 10) (sh : Shape) (f : LaneOps) : List RegSpan :=
  if sh.dst != .reg then []
  else if op == 0x2C4 then [⟨f.dest.toNat, accCount f, false⟩]
  else if op == 0x123 || (op == 0x283 && decide (f.flags.toNat ≥ 3)) then [⟨f.dest.toNat, 2, true⟩]
  else [spanOf f.dest f.ty]

/-- The spans of the sources that name lane registers (R49, R142, R136). -/
def srcSpans (op : BitVec 10) (sh : Shape) (f : LaneOps) : List RegSpan :=
  let named (u : Src) (k : BitVec 2) : Bool := k == 0 && u != .unused && u != .mask && u != .tile
  let t := srcType op f
  (if named sh.a f.kA then
    (if op == 0x2C0 || op == 0x2C1 then [⟨f.a.toNat, 64, false⟩]
     else if op == 0x2C5 then [⟨f.a.toNat, accCount f, false⟩]
     else if op == 0x2E0 then [⟨f.a.toNat, 2, true⟩]
     else [spanOf f.a t]) else [])
  ++ (if named sh.b f.kB then
    (if op == 0x2E0 || op == 0x121 then [⟨f.b.toNat, 1, false⟩] else [spanOf f.b t]) else [])
  ++ (if named sh.c f.kC then
    (if op == 0x121 || op == 0x122 || op == 0x123 then [⟨f.c.toNat, 1, false⟩] else [spanOf f.c t]) else [])

/-- Every lane register the instruction names. -/
def regSpans (op : BitVec 10) (sh : Shape) (f : LaneOps) : List RegSpan :=
  destSpan op sh f ++ srcSpans op sh f

/-- R61 step 5, the allotments (R19, R138). -/
def allotBad (env : LaneEnv) (op : BitVec 10) (sh : Shape) (f : LaneOps) : Bool :=
  (regSpans op sh f).any (fun r => decide (env.vregs < r.base + r.count))
    || (sh.a != .unused && f.kA == 1 && decide (env.sregs ≤ f.a.toNat))
    || (sh.b != .unused && f.kB == 1 && decide (env.sregs ≤ f.b.toNat))
    || (sh.c != .unused && f.kC == 1 && decide (env.sregs ≤ f.c.toNat))
    || (sh.dst == .tile && decide (env.tiles ≤ f.dest.toNat))
    || (sh.c == .tile && decide (env.tiles ≤ f.c.toNat))
    || (op == 0x2C0 && decide (env.panels ≤ (f.w2.extractLsb' 25 7).toNat))
    || (op == 0x2C2 && decide (env.panels ≤ (f.w2.extractLsb' 13 7).toNat))

/-- R61 step 5, odd pair registers (R49). -/
def oddBad (op : BitVec 10) (sh : Shape) (f : LaneOps) : Bool :=
  (regSpans op sh f).any (fun r => r.even && decide (r.base % 2 = 1))

/-- The feature a type code belongs to (R61, R71). -/
def tyFeature (t : BitVec 5) : Option Nat :=
  if t == 0x0D || t == 0x0E then some 0 else if t == 0x0F || t == 0x10 then some 1 else none

/-- R61 step 2: a masked feature. -/
def featureBad (env : LaneEnv) (op : BitVec 10) (sh : Shape) (f : LaneOps) : Bool :=
  let off (x : Option Nat) : Bool := match x with | some b => !env.features.getLsbD b | none => false
  off sh.feature || off (tyFeature f.ty)
    || (decide (0x120 ≤ op.toNat ∧ op.toNat ≤ 0x123) && off (tyFeature (f.w2.extractLsb' 0 5)))

/-- A source of an extension opcode beyond every allotment it could be measured against: a register, snapshot or tile
that the wave has not, and no mask code either (R19, R48; log 81). -/
def extBeyond (env : LaneEnv) (k : BitVec 2) (x : BitVec 8) : Bool :=
  (k == 0 && decide (env.vregs ≤ x.toNat) && decide (8 < x.toNat)) || (k == 1 && decide (env.sregs ≤ x.toNat))
    || (k == 3 && decide (x.toNat < 64) && decide (env.tiles ≤ x.toNat))

/-- R61, steps 2 to 5, of an extension opcode that loaded microcode defines: what the spec says of every opcode. Its W2, its
permitted kinds, types and rounding are the microcode's (R52 to R54, R59, R71; log 81). -/
def checkExt (env : LaneEnv) (f : LaneOps) : Option BadCode :=
  if !env.features.getLsbD 5 || (match tyFeature f.ty with | some b => !env.features.getLsbD b | none => false) then some .feature
  else if decide (4 < f.rnd.toNat) || f.sat != 0 || f.flags != 0 || srcReserved .any f.kA f.a || srcReserved .any f.kB f.b
      || srcReserved .any f.kC f.c then some .reservedBit
  else if 0x13 ≤ f.ty.toNat then some .typeCode
  else if extBeyond env f.kA f.a || extBeyond env f.kB f.b || extBeyond env f.kC f.c
      || (decide (env.vregs ≤ f.dest.toNat) && decide (8 < f.dest.toNat)) then some .allotment
  else none

/-- The checks of R61, steps 2 to 5, in order. -/
def checkLane (env : LaneEnv) (op : BitVec 10) (f : LaneOps) : Option BadCode :=
  let sh := laneShape op f
  if 0x300 ≤ op.toNat then checkExt env f
  else if featureBad env op sh f then some .feature
  else if reservedBad op sh f then some .reservedBit
  else if typeBad op sh f then some .typeCode
  else if kindBad op sh f then some .kind
  else if allotBad env op sh f then some .allotment
  else if oddBad op sh f then some .oddPair
  else none

/-- Whether an opcode is kernel-only (R60, R61 step 6). -/
def laneKernel (op : BitVec 10) (f : LaneOps) : Bool := (laneShape op f).kernel

/-- The step a code of REP stands for (R63). -/
def repStep (c : BitVec 2) : Nat := match c.toNat with | 0 => 0 | 1 => 1 | 2 => 2 | _ => 4

/-- The count and the steps of REP's imm field (R63). -/
def repCount (imm : BitVec 14) : Nat := (imm.extractLsb' 8 6).toNat + 1
def repD (imm : BitVec 14) : Nat := repStep (imm.extractLsb' 6 2)
def repA (imm : BitVec 14) : Nat := repStep (imm.extractLsb' 4 2)
def repB (imm : BitVec 14) : Nat := repStep (imm.extractLsb' 2 2)
def repC (imm : BitVec 14) : Nat := repStep (imm.extractLsb' 0 2)

/-- Repeat `i` of a prefixed instruction (R64). -/
def repFields (imm : BitVec 14) (i : Nat) (f : LaneOps) : LaneOps :=
  { f with dest := f.dest + BitVec.ofNat 8 (i * repD imm), a := f.a + BitVec.ofNat 8 (i * repA imm)
           b := f.b + BitVec.ofNat 8 (i * repB imm), c := f.c + BitVec.ofNat 8 (i * repC imm) }

/-- R64 check 2: a step on a field that may not be stepped. DESIGN CHOICE (log 81): a source field of an extension opcode, whose use the loaded microcode
defines, counts as one of those. -/
def repStepBad (imm : BitVec 14) (sh : Shape) (f : LaneOps) : Bool :=
  let srcBad (u : Src) (k : BitVec 2) : Bool :=
    !((k == 0 && u != .unused && u != .mask) || (k == 3 && u == .tile))
  (repD imm != 0 && (sh.dst == .mask || sh.dst == .unused))
    || (repA imm != 0 && srcBad sh.a f.kA) || (repB imm != 0 && srcBad sh.b f.kB)
    || (repC imm != 0 && srcBad sh.c f.kC)

/-- CVTN's C names the destination in a later repeat, as it may not in the first; the check comes where repeat 0 has it, before those of R64's third
(R64, R115, log 116). -/
def repSameBad (imm : BitVec 14) (op : BitVec 10) (f : LaneOps) : Bool :=
  op == 0x121 && (List.range (repCount imm)).any (fun i => (repFields imm i f).c == (repFields imm i f).dest)

/-- R64 check 3: the registers and tiles of the last repeat, and the parity of the second (R49). -/
def repAllotBad (env : LaneEnv) (imm : BitVec 14) (sh : Shape) (op : BitVec 10) (f : LaneOps) : Bool :=
  let n := repCount imm - 1
  (destSpan op sh f).any (fun r => decide (env.vregs < r.base + n * repD imm + r.count))
    || (sh.dst == .tile && decide (env.tiles ≤ f.dest.toNat + n * repD imm))
    || (sh.c == .tile && decide (env.tiles ≤ f.c.toNat + n * repC imm))
    || (f.kA == 0 && sh.a != .unused && sh.a != .mask && decide (env.vregs < f.a.toNat + n * repA imm
          + (if op == 0x2C0 || op == 0x2C1 then 64 else if op == 0x2C5 then accCount f
             else if tyIs64 (srcType op f) || op == 0x2E0 then 2 else 1)))
    || (f.kB == 0 && sh.b != .unused && sh.b != .mask && decide (env.vregs < f.b.toNat + n * repB imm
          + (if tyIs64 (srcType op f) && op != 0x2E0 then 2 else 1)))
    || (f.kC == 0 && sh.c != .unused && sh.c != .mask && sh.c != .tile
          && decide (env.vregs < f.c.toNat + n * repC imm + (if tyIs64 (srcType op f) then 2 else 1)))

/-- R64 check 3 on parity: repeat 1 of an even pair under an odd step. -/
def repOddBad (imm : BitVec 14) (sh : Shape) (op : BitVec 10) (f : LaneOps) : Bool :=
  decide (repCount imm > 1) && oddBad op sh (repFields imm 1 f)

end Sys2Proof
end

