-- ==== Sys2Proof/WellFormed.lean ====
section
/-! DEFINITION. Well-formed instructions: the operand values that an encoding of the instruction can hold and that
pass the checks R46 and R61 make of an encoding by itself. Steps without an encoding are well formed as they stand. -/

namespace Sys2Proof

/-- A lane instruction passes the checks of R61 with every register, panel and feature there is. -/
def laneWf (op : BitVec 10) (f : LaneOps) : Bool := (checkLane LaneEnv.full op f).isNone

/-- Scalar operand values that are reserved or belong to another row of the table (R42, R43, R44, R45). -/
def scalarWf : Instr → Bool
  | .scmp cc _ _ _ => decide (cc.toNat ≤ 5)
  | .bcMask cond _ _ => decide (cond.toNat ≤ 2)
  | .waitaddr cond _ _ => decide (cond.toNat ≤ 5)
  | .syswrReadonly _ n =>
    n != 0x005 && n != 0x010 && n != 0x011 && n != 0x018 && n != 0x019
  | .ljumpReg a => a != 0
  | _ => true

/-- The well-formedness of an instruction. -/
def Instr.wf (i : Instr) : Bool :=
  match laneCode i with
  | some (op, f) => (laneInstr op f == some i) && laneWf op f
  | none => scalarWf i

end Sys2Proof
end

