-- ==== Sys2Proof/Decode.lean ====
section
/-! DEFINITION. The decoder, total on any bytes: a scalar word (R41 to R46) and a lane word (R47 to R61) give an
instruction or the SUB value of the check that refuses it. After it the encoder, from the same tables. -/

namespace Sys2Proof

/-- An instruction as stored: a word of the scalar stream or of the lane stream (R39). -/
inductive Code where
  | scalar (w : BitVec 32)
  | lane (w : BitVec 96)
  deriving DecidableEq, Repr

/-- A decoding that a must-be-0 field of the word guards (R46, step 2). -/
def needZero {n : Nat} (x : BitVec n) (i : Instr) : Except BadCode Instr :=
  if x = 0 then .ok i else .error .reservedBit

/-- Fields of the scalar formats (R41). -/
def fieldD (w : BitVec 32) : BitVec 6 := w.extractLsb' 20 6
def fieldA (w : BitVec 32) : BitVec 6 := w.extractLsb' 14 6
def fieldB (w : BitVec 32) : BitVec 6 := w.extractLsb' 8 6
def fieldFn (w : BitVec 32) : BitVec 8 := w.extractLsb' 0 8
def fieldImm (w : BitVec 32) : BitVec 14 := w.extractLsb' 0 14

/-- The ALU group (R44). -/
def decodeAlu (w : BitVec 32) : Except BadCode Instr :=
  let d := fieldD w; let a := fieldA w; let b := fieldB w
  match (fieldFn w).toNat with
  | 0x00 => .ok (.saddR d a b)
  | 0x01 => .ok (.ssub d a b)
  | 0x02 => .ok (.smul d a b)
  | 0x03 => .ok (.smulh d a b)
  | 0x04 => .ok (.sandR d a b)
  | 0x05 => .ok (.sorR d a b)
  | 0x06 => .ok (.sxorR d a b)
  | 0x07 => .ok (.sshlR d a b)
  | 0x08 => .ok (.sshrR d a b)
  | 0x09 => .ok (.ssraR d a b)
  | 0x0A => .ok (.smin d a b)
  | 0x0B => .ok (.smax d a b)
  | n =>
    if 0x10 ≤ n ∧ n ≤ 0x15 then .ok (.scmp (w.extractLsb' 0 3) d a b)
    else if 0x80 ≤ n ∧ n ≤ 0xBF then .ok (.ssel (w.extractLsb' 0 6) d a b)
    else .error .unassigned

/-- Shift immediates (R43, op 0x05). -/
def decodeShift (w : BitVec 32) : Except BadCode Instr :=
  let d := fieldD w; let a := fieldA w; let amt := w.extractLsb' 0 6
  match (w.extractLsb' 12 2).toNat with
  | 0 => needZero (w.extractLsb' 6 6) (.sshlI d a amt)
  | 1 => needZero (w.extractLsb' 6 6) (.sshrI d a amt)
  | 2 => needZero (w.extractLsb' 6 6) (.ssraI d a amt)
  | _ => .error .reservedBit

/-- SYSWR by its register number (R67); numbers that no mode may write stay together. -/
def decodeSyswr (a : BitVec 6) (n : BitVec 14) : Instr :=
  match n.toNat with
  | 0x005 => .syswrExec a
  | 0x010 => .syswrFmode a
  | 0x011 => .syswrFflags a
  | 0x018 => .syswrPev a
  | 0x019 => .syswrEvmask a
  | _ => .syswrReadonly a n

/-- BC (R42). -/
def decodeBc (w : BitVec 32) : Except BadCode Instr :=
  let cond := (w.extractLsb' 22 4).toNat
  let off := w.extractLsb' 0 16
  if cond < 4 then .ok (.bc (w.extractLsb' 22 2) (w.extractLsb' 16 6) off)
  else if cond < 7 then needZero (w.extractLsb' 19 3) (.bcMask (w.extractLsb' 22 2) (w.extractLsb' 16 3) off)
  else .error .reservedBit

/-- The control group (R45). -/
def decodeControl (w : BitVec 32) : Except BadCode Instr :=
  let a := fieldA w; let imm := fieldImm w; let rest := w.extractLsb' 0 20
  match (fieldD w).toNat with
  | 0x00 => needZero rest .nop
  | 0x01 => needZero rest .endFrag
  | 0x02 => needZero rest .yieldSlot
  | 0x03 => needZero imm (.ret a)
  | 0x04 => needZero (w.extractLsb' 6 14) (.reconv (w.extractLsb' 0 6))
  | 0x05 => needZero rest .ifence
  | 0x06 => needZero (w.extractLsb' 2 18) (.efence (w.extractLsb' 0 2))
  | 0x07 => needZero rest .entrydone
  | 0x08 => needZero rest .exitdone
  | 0x09 => needZero a (.trap imm)
  | 0x0A => needZero rest .tret
  | 0x0B => needZero (w.extractLsb' 10 10) (.svc (w.extractLsb' 0 10))
  | 0x0C => needZero rest .svcret
  | 0x0D => needZero (w.extractLsb' 3 17) (.smode (w.extractLsb' 0 3))
  | 0x0E =>
    match (w.extractLsb' 0 2).toNat with
    | 0 => needZero (w.extractLsb' 2 12) (.tlbiPage a)
    | 1 => needZero (w.extractLsb' 2 12) (.tlbiJob a)
    | 2 => needZero (w.extractLsb' 2 12) (.tlbiPartition a)
    | _ => .error .reservedBit
  | _ => .error .unassigned

/-- The lane-issue group (R45). -/
def decodeIssue (w : BitVec 32) : Except BadCode Instr :=
  let a := fieldA w; let imm := fieldImm w
  match (fieldD w).toNat with
  | 0x00 => needZero (w.extractLsb' 5 15) (.lissue (w.extractLsb' 0 5))
  | 0x01 => if a = 0 then .ok (.ljump imm) else needZero imm (.ljumpReg a)
  | 0x02 => needZero a (.rep imm)
  | _ => .error .unassigned

/-- ARM (R43): bits [21:20] must be 0, the kind is [13:11]. -/
def decodeArm (w : BitVec 32) : Except BadCode Instr :=
  let n := w.extractLsb' 22 4; let a := fieldA w; let off := w.extractLsb' 0 11
  needZero (w.extractLsb' 20 2)
    (match (w.extractLsb' 11 3).toNat with
     | 0 => .armBarrier n a off
     | 1 => .armBitmap n a off
     | 2 => .armMailbox n a off
     | 3 => .armPool n a off
     | 4 => .armAddr n a off
     | 5 => .armReply n a off
     | 6 => .armTimer n a off
     | _ => .armBaton n a off)

/-- The barrier group (R43). -/
def decodeBarrier (w : BitVec 32) : Except BadCode Instr :=
  let a := fieldA w; let k := w.extractLsb' 0 8; let mid := w.extractLsb' 8 6
  match (fieldD w).toNat with
  | 0 => needZero (a ++ mid) (.barinit k)
  | 1 => needZero mid (.bararrive a k)
  | 2 => needZero (a ++ mid) (.barwait k)
  | _ => .error .unassigned

/-- The baton group (R43). -/
def decodeBaton (w : BitVec 32) : Except BadCode Instr :=
  match (fieldD w).toNat with
  | 0 => needZero (w.extractLsb' 0 20) .batonTake
  | 1 => needZero (w.extractLsb' 0 20) .batonPass
  | _ => .error .unassigned

/-- A word of the scalar stream (R43), checked as R46 orders: what is unassigned, then must-be-0 fields. -/
def decodeScalar (w : BitVec 32) : Except BadCode Instr :=
  let d := fieldD w; let a := fieldA w; let b := fieldB w; let imm := fieldImm w
  match (w.extractLsb' 26 6).toNat with
  | 0x00 => decodeAlu w
  | 0x01 => .ok (.saddI d a imm)
  | 0x02 => .ok (.sandI d a imm)
  | 0x03 => .ok (.sorI d a imm)
  | 0x04 => .ok (.sxorI d a imm)
  | 0x05 => decodeShift w
  | 0x06 => needZero a (.sli d imm)
  | 0x07 => .ok (.slui d a imm)
  | 0x08 => .ok (.sld d a imm)
  | 0x09 => .ok (.sst d a imm)
  | 0x0A => needZero a (.sldk d imm)
  | 0x0B => needZero a (.sysrd d imm)
  | 0x0C => needZero d (decodeSyswr a imm)
  | 0x10 => decodeBc w
  | 0x11 => needZero (w.extractLsb' 25 1) (.split (w.extractLsb' 22 3) (w.extractLsb' 16 6) (w.extractLsb' 0 16))
  | 0x12 => .ok (.jmp (w.extractLsb' 0 26))
  | 0x13 => .ok (.call (w.extractLsb' 0 26))
  | 0x14 =>
    if 6 ≤ (w.extractLsb' 0 3).toNat then .error .reservedBit
    else needZero (d ++ w.extractLsb' 3 5) (.waitaddr (w.extractLsb' 0 3) a b)
  | 0x15 => needZero (d ++ fieldFn w) (.cpstart a b)
  | 0x16 => needZero (w.extractLsb' 1 7) (.cptest (w.extractLsb' 0 1) d a b)
  | 0x18 => decodeControl w
  | 0x19 => decodeIssue w
  | 0x1A => decodeArm w
  | 0x1B => needZero (w.extractLsb' 22 4 ++ w.extractLsb' 14 6) (.await (w.extractLsb' 20 2 ++ w.extractLsb' 0 14))
  | 0x1C => needZero (d ++ a ++ w.extractLsb' 4 10) (.disarm (w.extractLsb' 0 4))
  | 0x1D => decodeBarrier w
  | 0x1E => decodeBaton w
  | _ => .error .unassigned

/-- A word of the lane stream, checked with every register, panel and feature there is (R61, steps 1 to 5). -/
def decodeLane (w : BitVec 96) : Except BadCode Instr :=
  match laneInstr (laneOpcode w) (laneFields w) with
  | none => .error .unassigned
  | some i =>
    match checkLane LaneEnv.full (laneOpcode w) (laneFields w) with
    | some e => .error e
    | none => .ok i

/-- The instruction a stored word holds. -/
def decode : Code → Except BadCode Instr
  | .scalar w => decodeScalar w
  | .lane w => decodeLane w

/-- The little-endian value of a list of bytes (R39). -/
def bytesToNat : List Byte → Nat
  | [] => 0
  | b :: bs => b.toNat + 256 * bytesToNat bs

/-- The scalar word at the head of a scalar section's bytes; none where fewer than 4 are left. -/
def scalarOfBytes (bs : List Byte) : Option (BitVec 32 × List Byte) :=
  if bs.length < 4 then none else some (BitVec.ofNat 32 (bytesToNat (bs.take 4)), bs.drop 4)

/-- The lane word at the head of a lane section's bytes. -/
def laneOfBytes (bs : List Byte) : Option (BitVec 96 × List Byte) :=
  if bs.length < 12 then none else some (BitVec.ofNat 96 (bytesToNat (bs.take 12)), bs.drop 12)

/-- Decodes the head of a scalar section. -/
def decodeScalarBytes (bs : List Byte) : Except BadCode (Instr × List Byte) :=
  match scalarOfBytes bs with
  | none => .error .unassigned
  | some (w, rest) => (decodeScalar w).map (fun i => (i, rest))

/-- Decodes the head of a lane section. -/
def decodeLaneBytes (bs : List Byte) : Except BadCode (Instr × List Byte) :=
  match laneOfBytes bs with
  | none => .error .unassigned
  | some (w, rest) => (decodeLane w).map (fun i => (i, rest))

/-- The decoder on a word numbered as spec/opcode_table.json numbers its bits: rows of up to 32 bits are scalar words,
wider ones lane words; bits above `nbits` are 0. Bytes stand as R39 stores them, the first at the lowest address. -/
def decodeTableWord (nbits w : Nat) : Option Instr :=
  if nbits ≤ 32 then (decodeScalar (BitVec.ofNat 32 (w % 2 ^ nbits))).toOption
  else (decodeLane (BitVec.ofNat 96 (w % 2 ^ nbits))).toOption

/-- Formats of R41. -/
def encSR (op : BitVec 6) (d a b : BitVec 6) (fn : BitVec 8) : BitVec 32 := op ++ d ++ a ++ b ++ fn
def encSI (op : BitVec 6) (d a : BitVec 6) (imm : BitVec 14) : BitVec 32 := op ++ d ++ a ++ imm
def encSB (op : BitVec 6) (cond : BitVec 4) (a : BitVec 6) (off : BitVec 16) : BitVec 32 := op ++ cond ++ a ++ off
def encSJ (op : BitVec 6) (off : BitVec 26) : BitVec 32 := op ++ off
def encArm (n : BitVec 4) (a : BitVec 6) (kind : BitVec 3) (off : BitVec 11) : BitVec 32 :=
  0x1A#6 ++ n ++ 0#2 ++ a ++ kind ++ off

/-- The scalar word of an instruction (R43 to R45); none for lane instructions and steps without an encoding. -/
def encodeScalar : Instr → Option (BitVec 32)
  | .saddR d a b => some (encSR 0x00 d a b 0x00)
  | .ssub d a b => some (encSR 0x00 d a b 0x01)
  | .smul d a b => some (encSR 0x00 d a b 0x02)
  | .smulh d a b => some (encSR 0x00 d a b 0x03)
  | .sandR d a b => some (encSR 0x00 d a b 0x04)
  | .sorR d a b => some (encSR 0x00 d a b 0x05)
  | .sxorR d a b => some (encSR 0x00 d a b 0x06)
  | .sshlR d a b => some (encSR 0x00 d a b 0x07)
  | .sshrR d a b => some (encSR 0x00 d a b 0x08)
  | .ssraR d a b => some (encSR 0x00 d a b 0x09)
  | .smin d a b => some (encSR 0x00 d a b 0x0A)
  | .smax d a b => some (encSR 0x00 d a b 0x0B)
  | .scmp cc d a b => some (encSR 0x00 d a b (2#5 ++ cc))
  | .ssel c d a b => some (encSR 0x00 d a b (2#2 ++ c))
  | .saddI d a imm => some (encSI 0x01 d a imm)
  | .sandI d a imm => some (encSI 0x02 d a imm)
  | .sorI d a imm => some (encSI 0x03 d a imm)
  | .sxorI d a imm => some (encSI 0x04 d a imm)
  | .sshlI d a amt => some (encSI 0x05 d a (0#8 ++ amt))
  | .sshrI d a amt => some (encSI 0x05 d a (1#2 ++ 0#6 ++ amt))
  | .ssraI d a amt => some (encSI 0x05 d a (2#2 ++ 0#6 ++ amt))
  | .sli d imm => some (encSI 0x06 d 0 imm)
  | .slui d a imm => some (encSI 0x07 d a imm)
  | .sld d a off => some (encSI 0x08 d a off)
  | .sst d a off => some (encSI 0x09 d a off)
  | .sldk d k => some (encSI 0x0A d 0 k)
  | .sysrd d n => some (encSI 0x0B d 0 n)
  | .syswrExec a => some (encSI 0x0C 0 a 0x005)
  | .syswrFmode a => some (encSI 0x0C 0 a 0x010)
  | .syswrFflags a => some (encSI 0x0C 0 a 0x011)
  | .syswrPev a => some (encSI 0x0C 0 a 0x018)
  | .syswrEvmask a => some (encSI 0x0C 0 a 0x019)
  | .syswrReadonly a n => some (encSI 0x0C 0 a n)
  | .bc cond a off => some (encSB 0x10 (0#2 ++ cond) a off)
  | .bcMask cond m off => some (encSB 0x10 (1#2 ++ cond) (0#3 ++ m) off)
  | .split m k off => some (encSB 0x11 (0#1 ++ m) k off)
  | .jmp off => some (encSJ 0x12 off)
  | .call off => some (encSJ 0x13 off)
  | .waitaddr cond a b => some (encSR 0x14 0 a b (0#5 ++ cond))
  | .cpstart a b => some (encSR 0x15 0 a b 0)
  | .cptest any d a b => some (encSR 0x16 d a b (0#7 ++ any))
  | .nop => some (encSI 0x18 0x00 0 0)
  | .endFrag => some (encSI 0x18 0x01 0 0)
  | .yieldSlot => some (encSI 0x18 0x02 0 0)
  | .ret a => some (encSI 0x18 0x03 a 0)
  | .reconv k => some (encSI 0x18 0x04 0 (0#8 ++ k))
  | .ifence => some (encSI 0x18 0x05 0 0)
  | .efence scope => some (encSI 0x18 0x06 0 (0#12 ++ scope))
  | .entrydone => some (encSI 0x18 0x07 0 0)
  | .exitdone => some (encSI 0x18 0x08 0 0)
  | .trap code => some (encSI 0x18 0x09 0 code)
  | .tret => some (encSI 0x18 0x0A 0 0)
  | .svc n => some (encSI 0x18 0x0B 0 (0#4 ++ n))
  | .svcret => some (encSI 0x18 0x0C 0 0)
  | .smode m => some (encSI 0x18 0x0D 0 (0#11 ++ m))
  | .tlbiPage a => some (encSI 0x18 0x0E a 0)
  | .tlbiJob a => some (encSI 0x18 0x0E a 1)
  | .tlbiPartition a => some (encSI 0x18 0x0E a 2)
  | .lissue n => some (encSI 0x19 0x00 0 (0#9 ++ n))
  | .ljump imm => some (encSI 0x19 0x01 0 imm)
  | .ljumpReg a => some (encSI 0x19 0x01 a 0)
  | .rep imm => some (encSI 0x19 0x02 0 imm)
  | .armBarrier n a off => some (encArm n a 0 off)
  | .armBitmap n a off => some (encArm n a 1 off)
  | .armMailbox n a off => some (encArm n a 2 off)
  | .armPool n a off => some (encArm n a 3 off)
  | .armAddr n a off => some (encArm n a 4 off)
  | .armReply n a off => some (encArm n a 5 off)
  | .armTimer n a off => some (encArm n a 6 off)
  | .armBaton n a off => some (encArm n a 7 off)
  | .await slots => some (0x1B#6 ++ 0#4 ++ slots.extractLsb' 14 2 ++ 0#6 ++ slots.extractLsb' 0 14)
  | .disarm n => some (encSI 0x1C 0 0 (0#10 ++ n))
  | .barinit k => some (encSI 0x1D 0 0 (0#6 ++ k))
  | .bararrive a k => some (encSI 0x1D 1 a (0#6 ++ k))
  | .barwait k => some (encSI 0x1D 2 0 (0#6 ++ k))
  | .batonTake => some (encSI 0x1E 0 0 0)
  | .batonPass => some (encSI 0x1E 1 0 0)
  | _ => none

/-- The stored word of an instruction; none for steps that have no encoding. -/
def encode (i : Instr) : Option Code :=
  match laneCode i with
  | some (op, f) => some (.lane (laneWord op f))
  | none => (encodeScalar i).map .scalar

/-- The `n` little-endian bytes of a number (R39). -/
def natBytes : Nat → Nat → List Byte
  | 0, _ => []
  | n + 1, v => BitVec.ofNat 8 v :: natBytes n (v / 256)

/-- A stored word's bytes (R39). -/
def Code.bytes : Code → List Byte
  | .scalar w => natBytes 4 w.toNat
  | .lane w => natBytes 12 w.toNat

end Sys2Proof
end

