-- ==== Sys2Proof/Config.lean ====
section
/-! DEFINITION. What an implementation fixes, and the free values: constants with no body, of which nothing
can be proved but that they are values of their type. The counter they are applied to is `State.fresh`, which the
step advances (log 5). -/

namespace Sys2Proof.Config

/-- A choice among alternatives the spec leaves open: the step's counter, then which choice of that step. -/
opaque freeNat : Nat → Nat → Nat

/-- A byte the spec gives no value: what a line reads as under another key than it was written with (R159). -/
opaque freeByte : Nat → Nat → Byte

/-- A 64-bit value the spec gives no value: LTIME's advance (R67), an unlisted aperture word. -/
opaque freeWord : Nat → Nat → Word64

/-- The choices that an implementation makes in a dot product, by their number: which partial sums it adds next and how it cuts them (R117), for an
instruction and an element's place, an addend, and products that are integers at one power of two (log 39). -/
opaque freeDot : List Nat → Word32 → List Int → Int → Nat → Nat

/-- The signature and measurement words that boot and attestation compute in the security block (R275, R278). -/
opaque freeDigest : Nat → Nat → BitVec 256

/-- The bytes of a container that a partition's control program hands to the loader before it launches a kernel at an address
(R93). -/
opaque freeContainer : Nat → Nat → Word64 → List Byte

/-- Whether a container's bytes, its signature section and an enrolled key's digest belong together (R99). -/
opaque signatureVerifies : List Byte → List Byte → BitVec 256 → Bool

/-- The offset of a data symbol in an image's data section, for a container, an image and the symbol as a record names it (R90). -/
opaque symbolOffset : Nat → Nat → Word64 → Word64

/-- A launch record and trap table that Bilgil's own code or a partition's controller writes to the privileged queue
(R221, R258). -/
opaque freeRecord : Nat → BitVec 2048
opaque freeTraps : Nat → List Word64

/-- What a job graph in memory names, whose layout the spec does not give: jobs, edges and memory ranges (R253, R256). -/
opaque freeGraph : Nat → Word64 → List Nat × List (Nat × Nat) × List (Nat × Nat)

/-- The leaf bits K, X and W that a MAP call's permission bits ask for; the call's argument gives them no meaning (R263). -/
opaque mapBits : BitVec 3 → BitVec 3

/-- What a context descriptor in memory names, whose layout the spec does not give: clusters and 64 KiB pages (R272). -/
opaque freeContext : Nat → Word64 → BitVec 32 × List Nat

/-- Word `i` of Meridian's patch RAM, and of its control store, under firmware with a digest (R3). -/
opaque patchWord : BitVec 256 → Nat → Word64
opaque controlWord : BitVec 256 → Nat → Word64

/-- The SHA3-256 digest that the security block computes (R278). -/
opaque sha3 : List Byte → BitVec 256

/-- The bytes of an attestation report over a digest: digest, signature and key identifier (R278). -/
opaque signedReport : BitVec 256 → List Byte

/-- The measurement of a protected context, of its clusters and pages (R272, R278). -/
opaque measurement : BitVec 32 → List Nat → BitVec 256

/-- What a loaded extension opcode does, as its microcode defines it (R62, R277): values for lane registers and masks, each by
register and lane, the sticky flags, words to store, or a fault with its SUB instead. -/
structure ExtEffect where
  regs : List (Nat × Nat × Word32)
  masks : List (Nat × Word64)
  flags : BitVec 7
  stores : List (Word64 × Word64)
  fault : Option (BitVec 8 × BitVec 8)
  deriving DecidableEq, Repr, Inhabited

/-- The effect of an instruction word under the microcode of a digest (R62, log 96). -/
opaque extension : BitVec 256 → LaneWord → Nat → ExtEffect

/-- The module's own number among its peers (R268, R269). -/
opaque thisModule : BitVec 10

end Sys2Proof.Config
end

