-- ==== Sys2Proof/Machine/Sparse.lean ====
section
/-! DEFINITION. Storage held as a list of (key, value) pairs in one canonical form: keys strictly rising, and no
entry equal to zero, what an unlisted key reads as. Memory, the scratchpad, panels, lane registers and tiles use it. -/

namespace Sys2Proof.Machine

/-- Keys strictly rising, no zero listed. `Sparse 8` is a list of `Host.Cell`. -/
abbrev Sparse (w : Nat) := List (Nat × BitVec w)

/-- The value at a key; zero where nothing is listed. -/
def Sparse.get {w : Nat} : Sparse w → Nat → BitVec w
  | [], _ => 0
  | (k, v) :: m, i => if i = k then v else Sparse.get m i

/-- Takes a key out. -/
def Sparse.drop {w : Nat} : Sparse w → Nat → Sparse w
  | [], _ => []
  | (k, u) :: m, i => if i = k then Sparse.drop m i else (k, u) :: Sparse.drop m i

/-- Puts a non-zero value at a key. -/
def Sparse.insert {w : Nat} : Sparse w → Nat → BitVec w → Sparse w
  | [], i, v => [(i, v)]
  | (k, u) :: m, i, v =>
    if i < k then (i, v) :: (k, u) :: m else if i = k then (i, v) :: m else (k, u) :: Sparse.insert m i v

/-- Puts a value at a key; zero removes the entry. -/
def Sparse.set {w : Nat} (m : Sparse w) (i : Nat) (v : BitVec w) : Sparse w :=
  if v = 0 then Sparse.drop m i else Sparse.insert m i v

/-- Every listed key is at least `lo`, keys rise strictly and no listed value is zero. -/
def Sparse.wfFrom {w : Nat} : Nat → Sparse w → Bool
  | _, [] => true
  | lo, (k, v) :: m => decide (lo ≤ k) && decide (v ≠ 0) && Sparse.wfFrom (k + 1) m

/-- The canonical form. -/
def Sparse.wf {w : Nat} (m : Sparse w) : Bool := Sparse.wfFrom 0 m

/-- Memory: bytes by address, a list of `Host.Cell` in canonical form. -/
abbrev Memory := Sparse 8

/-- The canonical form of memory. -/
def Memory.wf (m : Memory) : Bool := Sparse.wf m

/-- The cells of `[base, base + len)`, their keys counted from `base`. -/
def Sparse.slice {w : Nat} (m : Sparse w) (base len : Nat) : Sparse w :=
  (m.filter (fun c => decide (base ≤ c.1) && decide (c.1 < base + len))).map (fun c => (c.1 - base, c.2))

/-- The cells outside `[base, base + len)`. -/
def Sparse.erase {w : Nat} (m : Sparse w) (base len : Nat) : Sparse w :=
  m.filter (fun c => decide (c.1 < base) || decide (base + len ≤ c.1))

/-- Sets each listed cell, keys counted from `base`. -/
def Sparse.setAll {w : Nat} (m : Sparse w) (base : Nat) : Sparse w → Sparse w
  | [] => m
  | (k, v) :: cs => Sparse.setAll (Sparse.set m (base + k) v) base cs

/-- Replaces the `len` cells from `base` by a block whose keys count from 0. -/
def Sparse.paste {w : Nat} (m : Sparse w) (base len : Nat) (block : Sparse w) : Sparse w :=
  Sparse.setAll (Sparse.erase m base len) base (block.filter (fun c => decide (c.1 < len)))

/-- The little-endian value of the `n` bytes from `i` (R39). -/
def Sparse.bytesNat (m : Sparse 8) (i : Nat) : Nat → Nat
  | 0 => 0
  | n + 1 => (Sparse.get m i).toNat + 256 * Sparse.bytesNat m (i + 1) n

/-- Stores the low `n` bytes of a number, little-endian (R39). -/
def Sparse.setBytes (m : Sparse 8) (i : Nat) : Nat → Nat → Sparse 8
  | 0, _ => m
  | n + 1, v => Sparse.setBytes (Sparse.set m i (BitVec.ofNat 8 v)) (i + 1) n (v / 256)

/-- Stores a list of bytes. -/
def Sparse.setList (m : Sparse 8) (i : Nat) : List Byte → Sparse 8
  | [] => m
  | b :: bs => Sparse.setList (Sparse.set m i b) (i + 1) bs

/-- The `n` bytes from `i` as a list. -/
def Sparse.list (m : Sparse 8) (i : Nat) : Nat → List Byte
  | 0 => []
  | n + 1 => Sparse.get m i :: Sparse.list m (i + 1) n

end Sys2Proof.Machine
end

