-- ==== Sys2Proof/Machine/State.lean ====
section
/-! DEFINITION. The state of a KNX-Y9-M512 module, as plain data: the module, its partitions and dies, the jobs with
their workgroups, waves and fragments, engine commands, pools, queues, tables and firmware. INVENTORY.md, State,
names the rule of spec/ for every field. -/

namespace Sys2Proof.Machine

/-- The model's own stops; no step of a reachable state needs one. -/
inductive Fault where
  /-- Raised by a fragment's instruction when `State.cur` names no fragment (log 1). Safe: a stop. -/
  | noFragment
  deriving DecidableEq, Repr

/-- What the model gives no meaning. -/
inductive Refusal where
  /-- An instruction not yet modelled, by its mnemonic; raised by the dispatch only. Safe: a stop. -/
  | notModelled (mnemonic : String)
  deriving DecidableEq, Repr

/-- One entry of a lane queue: the instruction's 12 bytes, its address, its operands and FMODE as captured at
enqueue, and its repeat prefix (R21, R65, R243). `left` is 0 for an instruction without a repeat. -/
structure QEntry where
  word : BitVec 96 := 0
  addr : Word64 := 0
  a : Word64 := 0
  b : Word64 := 0
  c : Word64 := 0
  fmode : BitVec 3 := 0
  rep : BitVec 14 := 0
  left : Nat := 0
  deriving DecidableEq, Repr

/-- The kinds of a join-stack entry (R24, R25, R243). -/
inductive JoinKind where
  | parent | detached | deferred | second
  deriving DecidableEq, Repr

/-- A join-stack entry (R24); `hasLpc` is false for a second half that saved no LPC (R26); `partner` is 4 once the
partner has ended, and `flags` are then its FFLAGS, which the merge takes (R69), `behind` the posted stores that the merged
fragment follows in program order, `cmds` the engine commands and the writes on their way that it follows, `fenced` its last EFENCE and `sysFenced` its last at system scope (R28, R177). -/
structure JoinEntry where
  token : BitVec 6
  kind : JoinKind
  partner : Nat
  lanes : Word64
  spc : Word64
  lpc : Word64
  hasLpc : Bool
  flags : BitVec 7 := 0
  behind : List Nat := []
  cmds : List Nat := []
  fenced : Nat := 0
  sysFenced : Nat := 0
  deriving DecidableEq, Repr

/-- Where a fragment goes on after a verdict (R232): the counters, the lane work to enqueue again, the count a
repeated LISSUE enqueues, and whether a REP is pending there. -/
structure RetPoint where
  spc : Word64 := 0
  lpc : Word64 := 0
  queue : List QEntry := []
  lissue : Option Nat := none
  rep : Option (BitVec 14) := none
  passPoint : Bool := false
  deriving DecidableEq, Repr

/-- A trap record (R234) with its two return points (R232) and the call id an SVC keeps (R259). -/
structure TrapCtx where
  addr : Word64 := 0
  lpc : Word64 := 0
  faddr : Word64 := 0
  lanes : Word64 := 0
  cause : BitVec 18 := 0
  code : BitVec 14 := 0
  nested : Bool := false
  retry : RetPoint := {}
  skip : RetPoint := {}
  callSeq : Option (BitVec 32) := none
  deriving DecidableEq, Repr

/-- What a PARKED slot waits for (R33). -/
inductive Park where
  | await (slots : BitVec 16) (order : Nat)
  | waitaddr
  | barwait (k : BitVec 8)
  | baton
  | reconv (k : BitVec 6)
  | svc (callSeq : BitVec 32)
  | page (tok : Nat) (ctx : TrapCtx)
  | store
  | trap
  deriving DecidableEq, Repr

/-- What a WAITING slot waits for (R33, R308, R354). -/
inductive Wait where
  | miss | efence | tlbi (id : Nat)
  deriving DecidableEq, Repr

/-- The slot states of R33 (a freed slot is a fragment no longer listed). -/
inductive Slot where
  | ready | active | waiting (w : Wait) | parked (p : Park)
  deriving DecidableEq, Repr

/-- A translated place: a physical address and the key slot of an encrypted page. -/
structure Phys where
  pa : Nat
  key : Option Nat
  deriving DecidableEq, Repr

/-- A place an access reaches: a byte of the workgroup's scratchpad, or a physical address. -/
inductive Loc where
  | scratch (off : Nat)
  | phys (p : Phys)
  deriving DecidableEq, Repr

/-- One element of a store: whether its address is a scratchpad offset, the address, its size and its bytes. -/
structure Piece where
  scratch : Bool
  addr : Word64
  size : Nat
  val : Word64
  deriving DecidableEq, Repr

/-- A posted store (R153): a number of its own; its elements; the PC that a fault reports; whether a lane instruction posted it,
and its active lanes; after its translation has faulted, the token of the fault it waits on and the fault itself;
whether it was killed (R164). `placed` holds the elements left, with their places, once the first of them has been performed: the
elements of one store fall in the total order one by one (R168). `afresh` makes it translate by a fresh walk, after a retry or its
fragment's end (R163, R164). -/
structure Posted where
  id : Nat
  elems : List Piece
  pc : Word64
  lane : Bool
  lanes : Word64
  fault : Option (Nat × BitVec 8 × Word64)
  killed : Bool
  placed : List (Loc × Piece) := []
  afresh : Bool := false
  deriving DecidableEq, Repr

/-- The routine a fragment runs (R245, R250). -/
inductive Routine where
  | none
  | exit (started : Nat) (save : Nat) (done : Bool)
  | entry
  deriving DecidableEq, Repr

/-- What a saved fragment resumes with, as its frame holds it (R243, R244). -/
structure Resume where
  spc : Word64
  lpc : Word64
  exec : Word64
  fmode : BitVec 3
  fflags : BitVec 7
  rptc : Word64
  region : Nat
  queue : List QEntry
  lissue : Option Nat
  trap : Option TrapCtx
  /-- Of a point in a region in verification mode, whether its dump was taken (R251). -/
  verified : Option Bool
  /-- The call id of an SVC at the point, which its re-execution carries (R242, R259). -/
  callSeq : Option (BitVec 32) := none
  deriving DecidableEq, Repr

/-- A lane instruction some of whose lanes have been performed ahead of the others (R168, R212): the places of its active lanes, what
each of those lanes read, of a pool instruction each lane's status, key and value, of a PSTAT the count that each die's shard gave (R216), the step
of the first, and, where the job keeps a log, its mode and the entries kept for the results (R257). -/
structure Flight where
  places : List Loc
  got : List (Nat × Nat)
  took : List (Nat × Word64 × Word64 × Word64) := []
  since : Nat := 0
  log : Option (BitVec 2 × Nat) := none
  deriving DecidableEq, Repr

/-- A page-table entry that a walk has read ahead of the access it is for (R159, R166): the 8-byte unit of the address that it translates, which of
the walk's reads it is, and the entry. Read (i, 0) is the job-stage entry of level i, read (i, k) the partition-stage entry of level k that leads to
it, and read (5, k) one of the last partition-stage walk. -/
structure WalkRead where
  unit : Nat
  i : Nat
  k : Nat
  val : BitVec 64
  deriving DecidableEq, Repr

/-- A source byte of a copy: in the scratchpad or not, and its address. -/
abbrev SrcByte := Bool × Nat

/-- A write to host or peer memory that has not arrived (R177): its workgroup and wave, the fragments in whose program order it stands (R28), the
posted store or engine command it is of; the bytes of one access carry one `step`; an `or` sets the bits of `val` and no others (R183). -/
structure Held where
  wg : WgRef
  wave : Nat := 0
  owners : List Nat := []
  src : Option Nat := none
  or : Bool := false
  step : Nat
  place : Phys
  size : Nat
  val : Nat
  deriving DecidableEq, Repr

/-- An 8-byte word of host or of peer memory: which of the two, and its number. -/
abbrev RemoteWord := Bool × Nat

/-- Matrix work that has left its fragment and not yet entered its core's engine (R140): the panel it names, and the panel's new bytes of a
BLOAD, or the captured operands of an MMA. -/
structure MatWork where
  wave : Nat
  frag : Nat
  panel : Nat
  load : Option (Sparse 8)
  word : LaneWord := 0
  block : BitVec 512 := 0
  tile : Nat := 0
  boff : Nat := 0
  /-- Of each active lane: its number, its row's bits, scales and OE bytes. -/
  rows : List (Nat × Nat × List Nat × List Nat) := []
  /-- Of each column: its scales and OE bytes. -/
  cols : List (List Nat × List Nat) := []
  deriving DecidableEq, Repr

/-- A fragment (R24): its slot, its counters, its scalar file, its special registers, its lane queue, its join
stack, its traps and its posted stores; `behind` numbers the stores its parent had posted before the SPLIT that
detached it (R28). `first` marks the fragment its wave began with (R230). `passPoint` lets it issue at the freeze point where it stands (R254). -/
structure Frag where
  ref : FragRef
  spc : Word64
  lpc : Word64
  sregs : Sparse 64
  spois : Word64
  exec : Word64
  fmode : BitVec 3
  fflags : BitVec 7
  rptc : Word64
  first : Bool
  rep : Option (BitVec 14)
  lissue : Option Nat
  queue : List QEntry
  join : List JoinEntry
  evslot : Word64
  evinfo : Word64
  trapcause : BitVec 18
  trapaddr : Word64
  traplpc : Word64
  slot : Slot
  parkedAt : Nat
  issuedAt : Nat
  boost : Bool
  order : Nat
  posted : List Posted
  behind : List Nat
  waiting : Option TrapCtx
  inTrap : Option TrapCtx
  callSeq : Option (BitVec 32)
  routine : Routine
  resume : Option Resume
  frame : Option Nat
  steps : Option Nat
  passPoint : Bool
  /-- Whether a denial found the fragment parked: parking again at its point is no wake (R37). -/
  repark : Bool
  /-- The instruction at the head of the lane queue, where some of its lanes are performed (R168). -/
  flight : Option Flight := none
  /-- Bytes that the instruction at the head of the lane queue has read ahead of its issue (R141, R168). -/
  seen : List (SrcByte × Byte) := []
  /-- Bytes read ahead of CPSTARTs, each with the step of its read and whether it stood in host or peer memory (R172, R177), the step of
  the last EFENCE, and of the last at system scope. -/
  snaps : List (Nat × Bool × SrcByte × Byte) := []
  fenced : Nat := 0
  sysFenced : Nat := 0
  /-- Words of host and peer memory read ahead of the loads that take them, each with the step of its read (R177). -/
  peeks : List (Nat × RemoteWord × Word64) := []
  /-- Page-table entries read ahead of the next access (R166). -/
  walked : List WalkRead := []
  /-- The next access walks afresh: it retries after a verdict (R163). -/
  afresh : Bool := false
  deriving DecidableEq, Repr

/-- An event slot (R191): `arg` and `arg2` hold the operand, `val` the reference value V or the phase last seen,
`start` the cycle a timer counts from. -/
structure EvSlot where
  armed : Bool
  kind : BitVec 3
  arg : Word64
  arg2 : Word64
  handler : Word64
  val : Word64
  start : Nat
  info : Word64
  deriving DecidableEq, Repr

/-- A wave's membership of a constellation (R32, R188, R244). -/
structure Member where
  con : BitVec 8
  arrived : Bool
  target : BitVec 32
  deriving DecidableEq, Repr

/-- A wave (R16, R20): registers shared by its fragments, its event slots and memberships. -/
structure Wave where
  ref : WaveRef
  role : Nat
  vregs : Sparse 32
  vpois : Sparse 1
  tiles : Sparse 32
  tpois : Sparse 1
  masks : Sparse 64
  mpois : Sparse 64
  evslots : List EvSlot
  pev : BitVec 16
  evmask : BitVec 16
  members : List Member
  seqctr : BitVec 32
  /-- Versions of fetched blocks, oldest first, under twice the block's address, and one more for a lane block (R176). -/
  fetched : List (Nat × Sparse 8)
  ended : Bool
  deriving DecidableEq, Repr

/-- The states of a workgroup (R241); `since` is the cycle of the pre-emption request. -/
inductive WgState where
  | running | draining (since : Nat) | saving (since : Nat) | fallback (since : Nat) | saved | resuming
  | waiting (since : Nat)
  deriving DecidableEq, Repr

/-- A stash window of a workgroup (R154): scratchpad offset, size and global base. -/
structure Stash where
  soff : Nat
  size : Nat
  gbase : Word64
  deriving DecidableEq, Repr

/-- A workgroup (R15, R18): the core it is on and the storage carved for it. It has die 4 while it is on no core. `replay`
names the commands that a resume replays (R248), `dumped` says that it resumes from a full dump (R246), `engine` is its matrix work that has
not entered the engine yet (R140), `halfway` the ended fragments whose VATOM has been performed in some lanes and goes on in the
others (R199), and `phases` each barrier's PHASE when the workgroup left its core (R194). -/
structure Wg where
  ref : WgRef
  die : Nat
  core : Nat
  state : WgState
  order : Nat
  scratch : Sparse 8
  panels : Sparse 8
  lost : List Nat
  stash : List Stash
  baton : List Nat
  fired : Sparse 32
  accepted : Sparse 32
  done : Nat
  orphans : List (FragRef × Posted)
  frozen : Bool
  held : Option PreemptKind
  kind : PreemptKind
  frames : List Nat
  dumpSlot : Option Nat
  dumped : Bool
  replay : List Nat
  /-- The checkpoint area that holds the frames, once a held checkpoint has released them (R239, R256). -/
  away : Option Word64
  engine : List MatWork := []
  halfway : List Frag := []
  phases : List (BitVec 8 × BitVec 32) := []
  deriving DecidableEq, Repr

/-- An engine command (R179 to R185, R248, R269); `owners` are the fragments whose program order it stands in (R28,
R186). -/
structure Cmd where
  id : Nat
  wg : WgRef
  wave : Nat
  frag : Nat
  owners : List Nat
  core : Nat
  chan : Nat
  word : Word64
  tmpl : BitVec 512
  pc : Word64
  fired : Bool
  landed : List Nat
  /-- The chunk whose payload has landed and whose bitmap bit waits for a verdict (R183, R185). -/
  bitDue : Option Nat
  squashed : Bool
  error : Option (BitVec 8 × BitVec 8)
  srcPtr : BitVec 32
  dstPtr : BitVec 32
  fault : Option Nat
  tailDone : Bool
  headDone : Bool
  result : Option (Sparse 8)
  /-- Of a collective command, how many came before it on its group and were not discarded (R269). -/
  nth : Nat
  /-- Source bytes read ahead of their chunk's landing (R172), and which of them stood in host or peer memory (R177). -/
  seen : List (SrcByte × Byte) := []
  far : List SrcByte := []
  /-- Offsets of bytes written ahead of their chunk's landing (R173). -/
  wrote : List Nat := []
  /-- Its access that faulted walks afresh: it retries after a verdict (R163); `stuck` is its chunk, where a chunk's payload faulted. -/
  afresh : Bool := false
  stuck : Option Nat := none
  /-- Page-table entries read ahead of its next access (R166). -/
  walked : List WalkRead := []
  deriving DecidableEq, Repr

/-- A constellation's barrier (R30, R188). -/
structure Barrier where
  k : BitVec 8
  members : List (BitVec 32)
  phase : BitVec 32
  arrived : Nat
  expect : Nat
  pending : Int
  broken : Bool
  deriving DecidableEq, Repr

/-- The course of a launch (R226) and of a stop (R253). -/
inductive JobState where
  | running | aborting | signalling | halting | halted
  deriving DecidableEq, Repr

/-- The replay log of a job (R257). -/
structure LogState where
  mode : BitVec 2
  area : Word64
  bytes : Word64
  next : Nat
  full : Bool
  deriving DecidableEq, Repr

/-- A job (R15, R222): its launch record and kernel descriptor as read, the job's copies of records, templates and
constants, its trap table, barriers, sub-ranges and waiting line; FEATURES as its launch found it (R62), the container and
image its kernel comes from (R100), and the dies where an eviction has made room for the workgroup next in line (R36). -/
structure Job where
  ref : JobRef
  order : Nat
  state : JobState
  record : BitVec 2048
  kdesc : BitVec 2048
  recs : List (BitVec 256)
  tmpls : List (BitVec 512)
  consts : List Word64
  traps : List Word64
  barriers : List Barrier
  stash : List (BitVec 256)
  ranges : List (Nat × Nat × Nat)
  line : List Nat
  reported : List Nat
  retired : Nat
  gone : Bool
  status : BitVec 8
  denied : List Nat
  noEvict : Bool
  /-- The cycle of the last wake of one of its waves, from which the park timer runs (R36). -/
  lastWake : Nat
  /-- The sub-range of each die at the launch (R227). -/
  homes : List (Nat × Nat × Nat)
  lastDispatch : List (Nat × Nat)
  dumps : List Nat
  freezes : List (BitVec 3 × Word64)
  log : LogState
  completion : List (BitVec 32 × BitVec 32 × Sparse 8)
  features : Word64
  image : Option (Nat × Nat)
  room : List Nat := []
  deriving DecidableEq, Repr

/-- The caller of a call whose result comes later, LAUNCH or STOPGRAPH: where the call comes from, its lane among the active ones, and the
call id of an SVC (R221, R253, R262). -/
structure Caller where
  src : CallSrc
  lane : Nat
  callId : Option (JobRef × BitVec 32 × BitVec 32)
  deriving DecidableEq, Repr

/-- A record waiting in a launch queue (R221), with its trap table and Bilgil's copies of the kernel's records and
templates (R264); `armed` marks one that a pre-armed binding fired (R229), and `kernel` is what the loader chose at LAUNCH: the
container, the image in it and the kernel descriptor's address (R100). A record of a binding stands in memory at `addr`, and
`spent` says that the binding has fired with it (R229, R267). -/
structure Queued where
  part : Nat
  addr : Word64
  record : BitVec 2048
  traps : List Word64
  armed : Bool
  copies : Option (List (BitVec 256) × List (BitVec 512))
  caller : Option Caller
  kernel : Option (Nat × Nat × Word64) := none
  spent : Bool := false
  deriving DecidableEq, Repr

/-- A container that the loader holds for a partition (R93, R99, R100): its bytes, the load address of each section by its index in
the section table, the images whose sections stand there, and whether a request to unload it waits. -/
structure Container where
  id : Nat
  part : Nat
  bytes : List Byte
  places : List (Nat × Word64)
  loaded : List Nat
  unload : Bool
  deriving DecidableEq, Repr

/-- A collective group of a partition (R269): which ranks have created it, and how many commands it has taken. -/
structure Group where
  num : Nat
  n : Nat
  rank : Nat
  gtag : BitVec 32
  member : List (BitVec 32)
  created : List Nat
  gone : List Nat
  count : Nat
  deriving DecidableEq, Repr

/-- A mailbox (R255, R265). -/
structure Mailbox where
  req : BitVec 512
  resp : BitVec 512
  bell : BitVec 64
  done : BitVec 64
  deriving DecidableEq, Repr

/-- A partition's control block (R270) with its queue, groups and save frames. -/
structure Part where
  id : Nat
  clusters : BitVec 32
  s2root : Word64
  qos : BitVec 8
  featmask : Word64
  parklimit : BitVec 32
  preemptcfg : Word64
  savewin : Word64
  msix : BitVec 11
  keyslots : Word64
  sigpolicy : BitVec 4
  resetting : Bool
  scrubPending : Bool
  enroll : List (BitVec 256)
  lastJob : Option Nat
  queue : List Queued
  groups : List Group
  frames : List Nat
  mailbox : Mailbox
  deriving DecidableEq, Repr

/-- Who waits on a fault-queue entry (R163), each with a token that its fault alone has. -/
inductive Waiter where
  | frag (r : FragRef) (tok : Nat)
  | store (r : FragRef) (tok : Nat)
  | cmd (id : Nat) (tok : Nat)
  deriving DecidableEq, Repr

/-- A fault-queue entry (R162), whether it is open, and its waiters. -/
structure FqEntry where
  vaddr : Word64
  ipa : Word64
  pc : Word64
  job : JobRef
  waveid : BitVec 32
  waiters : BitVec 32
  seq : BitVec 32
  issuer : BitVec 2
  gone : Bool
  write : Bool
  fetch : Bool
  kmode : Bool
  cause : BitVec 8
  opened : Bool
  who : List Waiter
  deriving DecidableEq, Repr

/-- The fault queue of a die (R162, R163): `late` holds the faults that wait at a walker. -/
structure FaultQ where
  head : BitVec 32
  tail : BitVec 32
  entries : List FqEntry
  late : List FqEntry
  deriving DecidableEq, Repr

/-- An unanswered record of a service queue: its record bytes, the arguments of its lanes, the caller (R260), and whether the
call has been performed (R262). -/
structure SqRec where
  seq : BitVec 32
  batch : Bool
  caller : FragRef
  callSeq : BitVec 32
  number : BitVec 10
  lanes : Word64
  head : BitVec 512
  args : Sparse 8
  performed : Bool := false
  replayed : Bool := false
  deriving DecidableEq, Repr

/-- The service queue of a die (R260): slots' bytes, records posted and open, records waiting to be posted. -/
structure SvcQ where
  head : BitVec 32
  tail : BitVec 32
  bytes : Sparse 8
  opened : List SqRec
  late : List SqRec
  deriving DecidableEq, Repr

/-- A compute die. `svcFault` holds the service-fault slot's record, then those that wait for the slot (log 10). -/
structure Die where
  id : Nat
  lost : Bool
  failed : BitVec 16
  retries : Nat
  fq : FaultQ
  sq : SvcQ
  svcFault : List (FragRef × BitVec 512)
  clkstep : BitVec 3
  gate : Word64
  marginProp : Word64
  marginCommit : Word64
  ltime : Word64
  deriving DecidableEq, Repr

/-- A pool element with the cycle its put was performed at and its number in put order (R205, R213). -/
structure Elem where
  key : Word64
  val : Word64
  put : Nat
  num : Nat
  deriving DecidableEq, Repr

/-- A shard (R205): its elements, its counts, and the latest summary it holds of each other shard. -/
structure Shard where
  die : Nat
  elems : List Elem
  steals : Nat
  summaries : List (Nat × Nat × List Word64)
  deriving DecidableEq, Repr

/-- A pool (R205 to R219). `dies0` is the set of dies it was created on: a shard's spill share is a share among these (R220).
`lastCensus` is the cycle of the pool's last census round of its own (R217). -/
structure Pool where
  num : Nat
  gen : BitVec 16
  live : Bool
  job : JobRef
  psumm : Nat
  pbound : Nat
  pstarve : Nat
  pdepth : Nat
  dies : BitVec 4
  dies0 : BitVec 4
  spillBase : Word64
  spillSize : Nat
  shards : List Shard
  puts : Nat
  fulls : Nat
  ageds : Nat
  censuses : Nat
  lastCensus : Option Nat
  takes : Sparse 64
  deriving DecidableEq, Repr

/-- A cached translation (R160, R165): the page, its intermediate and physical page, and the leaves of both stages. -/
structure TlbEntry where
  job : JobRef
  page : Nat
  ipage : Nat
  ppage : Nat
  leaf1 : BitVec 64
  leaf2 : BitVec 64
  deriving DecidableEq, Repr

/-- A TLBI that has issued and not completed (R165, R354). -/
structure TlbiWait where
  id : Nat
  kind : BitVec 2
  operand : Word64
  caller : FragRef
  since : Nat
  deriving DecidableEq, Repr

/-- A peer window's descriptor (R268). -/
structure PeerWin where
  num : Nat
  enabled : Bool
  module : BitVec 10
  part : BitVec 4
  base : Word64
  deriving DecidableEq, Repr

/-- A residency handle (R157): the tensor's partition and, where a job's wave made it, that job's stage-1 root. -/
structure Residency where
  num : Nat
  part : Nat
  root : Option Nat
  base : Word64
  size : Word64
  lpddr : Bool
  prio : BitVec 3
  place : BitVec 2
  deriving DecidableEq, Repr

/-- A protected context with its measurement, and its scrub (R272 to R274, R278). -/
structure Context where
  num : Nat
  part : Nat
  clusters : BitVec 32
  keys : Word64
  measure : BitVec 256
  pages : List Nat
  tearing : Bool
  state : BitVec 2
  total : Nat
  done : Nat
  deriving DecidableEq, Repr

/-- A firmware slot (R275). -/
structure FwSlot where
  digest : BitVec 256
  version : Nat
  signed : Bool
  deriving DecidableEq, Repr

/-- A marker record (R275). -/
structure Marker where
  slot : Bool
  seq : BitVec 64
  valid : Bool
  deriving DecidableEq, Repr

/-- Firmware, markers, the slot that booted (none in recovery) and the anti-rollback floor (R275, R276). -/
structure Firmware where
  slot0 : FwSlot
  slot1 : FwSlot
  mark0 : Marker
  mark1 : Marker
  booted : Option Bool
  floor : Nat
  powered : Bool
  deriving DecidableEq, Repr

/-- What the module tells the outside: the management aperture's reports, MSI-X messages and frames for Bilgil. -/
inductive Report where
  | dropped (addr : Word64)
  | preemptDenied (j : JobRef)
  | moduleFailed (die : Nat) (m : BitVec 4)
  | dieLost (die : Nat)
  | msix (part : Nat) (vec : BitVec 11)
  | stackFrame (bytes : List Byte)
  | serviceFault (die : Nat)
  | recovery
  | graphCycle (part : Nat)
  | attest (digest : BitVec 256)
  deriving DecidableEq, Repr

/-- A graph of jobs that Meridian is stopping, for a call or for the monitor's checkpoint (R253, R256). -/
structure Stop where
  part : Nat
  jobs : List Nat
  edges : List (Nat × Nat)
  halted : List Nat
  denied : List Nat
  area : Option (Word64 × Bool)
  ranges : List (Nat × Nat)
  caller : Option Caller
  deriving DecidableEq, Repr

/-- What a checkpoint's area holds (R256): the graph's jobs, their saved workgroups with all that belongs to them, the
bytes of their frames and dump slots, and the graph's memory ranges; `id` is the number that stands at the area's start (log 17). -/
structure Checkpoint where
  id : Nat
  area : Word64
  part : Nat
  jobs : List Job
  wgs : List Wg
  waves : List Wave
  frags : List Frag
  cmds : List Cmd
  frames : List (Nat × List Byte)
  dumps : List (WgRef × List Byte)
  ranges : List (Nat × List Byte)
  deriving DecidableEq, Repr

/-- Who moves next (log 1): a fragment, an event or input of the table, the passing of cycles, a READY slot's
move to ACTIVE, a miss, a fill of a translation or of a fetch block, an evaluation of a wave's tokens, or an access that comes ahead of the
instruction or command it belongs to, or after it. -/
inductive Turn where
  | frag (r : FragRef)
  | event (i : Instr)
  | time (n : Nat)
  | activate (r : FragRef)
  | miss (r : FragRef)
  | tlbFill (j : JobRef) (va : Word64)
  | fetchFill (w : WaveRef) (lane : Bool) (va : Word64)
  | tokens (w : WaveRef)
  | lane (r : FragRef) (l : Nat)
  | storePiece (r : FragRef) (k : Nat)
  | snapshot (r : FragRef) (sp : Bool) (addr : Nat)
  | engineRead (cmd o : Nat)
  | engineWrite (cmd o : Nat)
  | arrive (k : Nat)
  | readAhead (r : FragRef) (sp : Bool) (addr : Nat)
  | peek (r : FragRef) (va : Word64)
  | hartPeek (hart : Nat) (pa : Nat)
  | walkRead (r : FragRef) (va : Word64)
  | engineWalk (cmd : Nat) (va : Word64)
  | matrixLate (r : FragRef)
  | enterEngine (g : WgRef) (k : Nat)
  deriving DecidableEq, Repr

/-- The module. `armedRecs` are Bilgil's completed records of armed bindings (R264), `hartRegs` and `hartFregs` the harts' integer
and floating-point registers, keyed 32 × hart + register, `hartVregs` the bytes of their vector registers, 8,192 to a register,
`hartCsrs` their control registers, keyed 4,096 × hart + number, `hartPcs` their counters (R3), `hartPeeks` words of host and peer memory
that a hart has read ahead (R177), `controlStore` and `patchRam` Meridian's (R3), `containers` what the
loader holds (R93), `reservations` each hart's reserved line (R202), `remote` the writes to host and peer memory under way (R177). -/
structure State where
  cycle : Nat
  fresh : Nat
  agenda : List Turn
  cur : Option FragRef
  issue : QEntry
  mem : Sparse 8
  lineKey : Sparse 512
  hostMem : Sparse 8
  peerMem : Sparse 8
  remote : List Held
  dies : List Die
  parts : List Part
  jobs : List Job
  wgs : List Wg
  waves : List Wave
  frags : List Frag
  cmds : List Cmd
  pools : List Pool
  privQueue : List Queued
  serial : Nat
  tlb : List TlbEntry
  tlbis : List TlbiWait
  keySlots : Sparse 512
  contexts : List Context
  residency : List Residency
  stops : List Stop
  checkpoints : List Checkpoint
  armedRecs : List (Nat × Queued)
  hartRegs : Sparse 64
  hartFregs : Sparse 64
  hartVregs : Sparse 8
  hartCsrs : Sparse 64
  hartPcs : Sparse 64
  hartPeeks : List (Nat × RemoteWord × Word64)
  controlStore : Sparse 64
  patchRam : Sparse 64
  containers : List Container
  peerWins : List PeerWin
  planes : List (Nat × Nat)
  steering : Sparse 128
  rings : Sparse 256
  bindings : Sparse 512
  reservations : List (Nat × Nat)
  archMinor : BitVec 8
  microcode : Option (BitVec 256)
  firmware : Firmware
  monitor : Mailbox
  trip : Bool
  reports : List Report
  results : List (CallSrc × BitVec 8 × Word64)
  deriving DecidableEq, Repr

/-- A mailbox after reset (log 2). -/
def Mailbox.reset : Mailbox := { req := 0, resp := 0, bell := 0, done := 0 }

/-- A partition's control block after reset (R270, R35, R238, R239). -/
def Part.reset (p : Nat) : Part :=
  { id := p, clusters := 0, s2root := 0, qos := 1, featmask := BitVec.allOnes 64
    parklimit := 0x00100000#32, preemptcfg := 0x000040002000E020#64, savewin := 0, msix := 0
    keyslots := 0, sigpolicy := 0, resetting := false, scrubPending := false
    enroll := List.replicate 8 0, lastJob := none, queue := [], groups := [], frames := []
    mailbox := Mailbox.reset }

/-- A die after reset: empty queues; the clock step is a design choice (log 2). -/
def Die.reset (d : Nat) : Die :=
  { id := d, lost := false, failed := 0, retries := 0
    fq := { head := 0, tail := 0, entries := [], late := [] }
    sq := { head := 0, tail := 0, bytes := [], opened := [], late := [] }
    svcFault := [], clkstep := 7, gate := 0, marginProp := 0, marginCommit := 0, ltime := 0 }

/-- Firmware after reset: slot 0 booted, both slots alike (log 4). -/
def Firmware.reset : Firmware :=
  { slot0 := { digest := 0, version := 0, signed := true }
    slot1 := { digest := 0, version := 0, signed := true }
    mark0 := { slot := false, seq := 0, valid := true }
    mark1 := { slot := false, seq := 0, valid := false }
    booted := some false, floor := 0, powered := true }

/-- The module right after reset: no job, no pool, empty queues and tables, memory with nothing listed. -/
def State.reset : State :=
  { cycle := 0, fresh := 0, agenda := [], cur := none, issue := {}
    mem := [], lineKey := [], hostMem := [], peerMem := [], remote := []
    dies := [Die.reset 0, Die.reset 1, Die.reset 2, Die.reset 3]
    parts := (List.range 16).map Part.reset
    jobs := [], wgs := [], waves := [], frags := [], cmds := [], pools := [], privQueue := [], serial := 0
    tlb := [], tlbis := [], keySlots := [], contexts := [], residency := [], stops := [], checkpoints := [], armedRecs := []
    hartRegs := [], hartFregs := [], hartVregs := [], hartCsrs := [], hartPcs := [], hartPeeks := []
    controlStore := [], patchRam := [], containers := []
    peerWins := [], planes := [], steering := [], rings := [], bindings := [], reservations := []
    archMinor := 1, microcode := none, firmware := Firmware.reset, monitor := Mailbox.reset
    trip := false, reports := [], results := [] }

end Sys2Proof.Machine
end

