-- ==== Sys2Proof/Machine/Access.lean ====
section
/-! DEFINITION. Finding and replacing the parts of the state, the fields of a job's launch record and kernel
descriptor, and reading and writing registers with their poison (R20, R23, R66, R95, R222, R249). -/

namespace Sys2Proof.Machine

open Sys2Proof

/-- The fragment of a reference; a freed slot's fragment is not listed. -/
def State.frag? (s : State) (r : FragRef) : Option Frag := s.frags.find? (fun x => x.ref == r)
/-- The wave of a reference. -/
def State.wave? (s : State) (r : WaveRef) : Option Wave := s.waves.find? (fun x => x.ref == r)
/-- The workgroup of a reference, on a core or saved. -/
def State.wg? (s : State) (r : WgRef) : Option Wg := s.wgs.find? (fun x => x.ref == r)
/-- The running job of a reference. -/
def State.job? (s : State) (r : JobRef) : Option Job := s.jobs.find? (fun x => x.ref == r)
/-- A compute die. -/
def State.die? (s : State) (d : Nat) : Option Die := s.dies.find? (fun x => x.id == d)
/-- A partition's control block. -/
def State.part? (s : State) (p : Nat) : Option Part := s.parts.find? (fun x => x.id == p)
/-- An engine command. -/
def State.cmd? (s : State) (i : Nat) : Option Cmd := s.cmds.find? (fun x => x.id == i)
/-- A pool. -/
def State.pool? (s : State) (n : Nat) : Option Pool := s.pools.find? (fun x => x.num == n)

/-- Replaces the fragment of the same reference. -/
def State.setFrag (s : State) (x : Frag) : State :=
  { s with frags := s.frags.map (fun y => if y.ref = x.ref then x else y) }
/-- Replaces the wave of the same reference. -/
def State.setWave (s : State) (x : Wave) : State :=
  { s with waves := s.waves.map (fun y => if y.ref = x.ref then x else y) }
/-- Replaces the workgroup of the same reference. -/
def State.setWg (s : State) (x : Wg) : State :=
  { s with wgs := s.wgs.map (fun y => if y.ref = x.ref then x else y) }
/-- Replaces the job of the same reference. -/
def State.setJob (s : State) (x : Job) : State :=
  { s with jobs := s.jobs.map (fun y => if y.ref = x.ref then x else y) }
/-- Replaces the die of the same number. -/
def State.setDie (s : State) (x : Die) : State :=
  { s with dies := s.dies.map (fun y => if y.id = x.id then x else y) }
/-- Replaces the partition of the same number. -/
def State.setPart (s : State) (x : Part) : State :=
  { s with parts := s.parts.map (fun y => if y.id = x.id then x else y) }
/-- Replaces the command of the same number. -/
def State.setCmd (s : State) (x : Cmd) : State :=
  { s with cmds := s.cmds.map (fun y => if y.id = x.id then x else y) }
/-- Replaces the pool of the same number. -/
def State.setPool (s : State) (x : Pool) : State :=
  { s with pools := s.pools.map (fun y => if y.num = x.num then x else y) }

/-- Changes a fragment, if it is there. -/
def State.modFrag (s : State) (r : FragRef) (h : Frag → Frag) : State :=
  { s with frags := s.frags.map (fun y => if y.ref = r then h y else y) }
/-- Changes a wave. -/
def State.modWave (s : State) (r : WaveRef) (h : Wave → Wave) : State :=
  { s with waves := s.waves.map (fun y => if y.ref = r then h y else y) }
/-- Changes a workgroup. -/
def State.modWg (s : State) (r : WgRef) (h : Wg → Wg) : State :=
  { s with wgs := s.wgs.map (fun y => if y.ref = r then h y else y) }
/-- Changes a job. -/
def State.modJob (s : State) (r : JobRef) (h : Job → Job) : State :=
  { s with jobs := s.jobs.map (fun y => if y.ref = r then h y else y) }
/-- Changes a die. -/
def State.modDie (s : State) (d : Nat) (h : Die → Die) : State :=
  { s with dies := s.dies.map (fun y => if y.id = d then h y else y) }
/-- Changes a partition. -/
def State.modPart (s : State) (p : Nat) (h : Part → Part) : State :=
  { s with parts := s.parts.map (fun y => if y.id = p then h y else y) }
/-- Changes a command. -/
def State.modCmd (s : State) (i : Nat) (h : Cmd → Cmd) : State :=
  { s with cmds := s.cmds.map (fun y => if y.id = i then h y else y) }
/-- Changes a pool. -/
def State.modPool (s : State) (n : Nat) (h : Pool → Pool) : State :=
  { s with pools := s.pools.map (fun y => if y.num = n then h y else y) }

/-- A fragment with the wave, workgroup and job it belongs to. -/
structure Cur where
  f : Frag
  w : Wave
  g : Wg
  j : Job
  deriving DecidableEq, Repr

/-- A fragment's surroundings. -/
def State.look (s : State) (r : FragRef) : Option Cur :=
  match s.frag? r, s.wave? r.wave, s.wg? r.wave.wg, s.job? r.wave.wg.job with
  | some f, some w, some g, some j => some { f := f, w := w, g := g, j := j }
  | _, _, _, _ => none

/-- The fragment whose instruction runs. -/
def State.current (s : State) : Option Cur :=
  match s.cur with
  | some r => s.look r
  | none => none

/-- A free choice below `n`, number `i` of this step. -/
def State.choose (s : State) (i n : Nat) : Nat := Config.freeNat s.fresh i % n

/-- A new number, and the state that has counted it. -/
def State.nextSerial (s : State) : Nat × State := (s.serial, { s with serial := s.serial + 1 })

/-- Kernel-descriptor fields (R95). -/
def Job.width (j : Job) : Nat := (j.kdesc.extractLsb' 256 8).toNat
def Job.nroles (j : Job) : Nat := (j.kdesc.extractLsb' 264 8).toNat
def Job.serviceKernel (j : Job) : Bool := j.kdesc.getLsbD 272
def Job.scratchSize (j : Job) : Nat := (j.kdesc.extractLsb' 288 32).toNat
def Job.scalarBase (j : Job) : Word64 := j.kdesc.extractLsb' 320 64
def Job.laneBase (j : Job) : Word64 := j.kdesc.extractLsb' 384 64
def Job.scalarSize (j : Job) : Nat := (j.kdesc.extractLsb' 448 32).toNat
def Job.laneSize (j : Job) : Nat := (j.kdesc.extractLsb' 480 32).toNat
def Job.constBase (j : Job) : Word64 := j.kdesc.extractLsb' 512 64
def Job.nconst (j : Job) : Nat := (j.kdesc.extractLsb' 576 32).toNat
def Job.nregion (j : Job) : Nat := (j.kdesc.extractLsb' 800 32).toNat
def Job.regionsBase (j : Job) : Word64 := j.kdesc.extractLsb' 832 64
/-- A role record (R95). -/
def Job.role (j : Job) (k : Nat) : BitVec 192 := j.kdesc.extractLsb' (1088 + 192 * k) 192
def roleSpc (r : BitVec 192) : BitVec 32 := r.extractLsb' 0 32
def roleLpc (r : BitVec 192) : BitVec 32 := r.extractLsb' 32 32
def roleWaves (r : BitVec 192) : Nat := (r.extractLsb' 64 8).toNat
def roleTiles (r : BitVec 192) : Nat := (r.extractLsb' 72 8).toNat
def roleVregs (r : BitVec 192) : Nat := (r.extractLsb' 80 16).toNat
def roleSregs (r : BitVec 192) : Nat := (r.extractLsb' 96 8).toNat
def rolePrio (r : BitVec 192) : Nat := (r.extractLsb' 104 8).toNat
def roleBaton (r : BitVec 192) : Bool := r.getLsbD 112

/-- Launch-record fields (R222). -/
def Job.kernelVa (j : Job) : Word64 := j.record.extractLsb' 0 64
def Job.args (j : Job) : Word64 := j.record.extractLsb' 64 64
def Job.nwg (j : Job) : Nat := (j.record.extractLsb' 128 27).toNat
def Job.s1root (j : Job) : Nat := (j.record.extractLsb' 320 64).toNat
def Job.signalVa (j : Job) : Word64 := j.record.extractLsb' 384 64
def Job.dumpBase (j : Job) : Word64 := j.record.extractLsb' 448 64
def Job.dumpSize (j : Job) : Nat := (j.record.extractLsb' 512 64).toNat
def Job.workest (j : Job) : Nat := (j.record.extractLsb' 576 64).toNat
def Job.fmode0 (j : Job) : BitVec 3 := j.record.extractLsb' 640 3
def Job.panels (j : Job) : Nat := (j.record.extractLsb' 648 8).toNat
def Job.idemp (j : Job) : Bool := j.record.getLsbD 656
def Job.placeMode (j : Job) : Nat := (j.record.extractLsb' 657 2).toNat
def Job.stagger (j : Job) : Nat := (j.record.extractLsb' 672 32).toNat
def Job.notify (j : Job) : Bool := j.record.getLsbD 811
def Job.notifyVec (j : Job) : BitVec 11 := j.record.extractLsb' 800 11

/-- Only the service job's waves run in kernel mode (R258). -/
def Job.kernel (j : Job) : Bool := j.ref.part == 16

/-- The wave's role record. -/
def Cur.role (c : Cur) : BitVec 192 := c.j.role c.w.role

/-- The core of a workgroup, numbered across the device (R7). -/
def Wg.coreId (g : Wg) : Nat := 64 * g.die + g.core

/-- WAVEID (R16). -/
def waveid (r : WaveRef) : BitVec 32 := BitVec.ofNat 27 r.wg.wg ++ BitVec.ofNat 5 r.wave

/-- The wave a WAVEID of a job names. -/
def waveOfId (j : JobRef) (w : BitVec 32) : WaveRef :=
  { wg := { job := j, wg := (w.extractLsb' 5 27).toNat }, wave := (w.extractLsb' 0 5).toNat }

/-- FEATURES as a partition's next launch finds it (R71, R270). -/
def State.features (s : State) (part : Nat) : BitVec 64 :=
  let base : BitVec 64 := if s.microcode.isSome then 0xFF else 0xDF
  match s.part? part with
  | some p => base &&& p.featmask
  | none => base

/-- What the lane checks need of a wave (R61). -/
def Cur.laneEnv (c : Cur) : LaneEnv :=
  { vregs := roleVregs c.role, sregs := roleSregs c.role, tiles := roleTiles c.role
    panels := c.j.panels, features := c.j.features }

/-- Every lane of a width (R20, R23). -/
def widthMask (width : Nat) : Word64 := BitVec.ofNat 64 (2 ^ width - 1)

/-- A scalar register; s0 reads 0 (R66). -/
def Frag.s (f : Frag) (r : BitVec 6) : Word64 := if r = 0 then 0 else f.sregs.get r.toNat

/-- Writes a scalar register and clears its poison; s0 ignores writes (R66, R249). -/
def Frag.setS (f : Frag) (r : BitVec 6) (v : Word64) : Frag :=
  if r = 0 then f
  else { f with sregs := f.sregs.set r.toNat v, spois := f.spois &&& ~~~(1#64 <<< r.toNat) }

/-- A poisoned scalar register (R249). -/
def Frag.sPoisoned (f : Frag) (r : BitVec 6) : Bool := r != 0 && f.spois.getLsbD r.toNat

/-- The key of a lane of a lane register. -/
def vkey (r l : Nat) : Nat := 64 * r + l

/-- A 32-bit lane of a lane register. -/
def Wave.v (w : Wave) (r l : Nat) : Word32 := w.vregs.get (vkey r l)

/-- The even-odd pair from a lane register (R49). -/
def Wave.v64 (w : Wave) (r l : Nat) : Word64 := w.v (r + 1) l ++ w.v r l

/-- Writes a lane and clears its poison. -/
def Wave.setV (w : Wave) (r l : Nat) (v : Word32) : Wave :=
  { w with vregs := w.vregs.set (vkey r l) v, vpois := w.vpois.set (vkey r l) 0 }

/-- Writes a lane of an even-odd pair. -/
def Wave.setV64 (w : Wave) (r l : Nat) (v : Word64) : Wave :=
  (w.setV r l (v.extractLsb' 0 32)).setV (r + 1) l (v.extractLsb' 32 32)

/-- A poisoned lane of a lane register. -/
def Wave.vPoisoned (w : Wave) (r l : Nat) : Bool := w.vpois.get (vkey r l) != 0

/-- The mask register `k` of a wave of a width; m0 reads every lane (R23). -/
def Wave.m (w : Wave) (width k : Nat) : Word64 := if k = 0 then widthMask width else w.masks.get k

/-- Writes the lanes `lanes` of a mask register, clearing their poison; m0 ignores writes (R23, R249). -/
def Wave.setM (w : Wave) (k : Nat) (lanes v : Word64) : Wave :=
  if k = 0 then w
  else { w with masks := w.masks.set k ((w.masks.get k &&& ~~~lanes) ||| (v &&& lanes))
                mpois := w.mpois.set k (w.mpois.get k &&& ~~~lanes) }

/-- Poisoned lanes of a mask register among `lanes`. -/
def Wave.mPoisoned (w : Wave) (k : Nat) (lanes : Word64) : Bool := k != 0 && (w.mpois.get k &&& lanes) != 0

/-- The key of a tile element: row `l`, column `c` of tile `t`. -/
def tkey (t l c : Nat) : Nat := 8192 * t + 128 * l + c

/-- An element of an accumulator tile. -/
def Wave.t (w : Wave) (t l c : Nat) : Word32 := w.tiles.get (tkey t l c)

/-- Writes an element of a tile. -/
def Wave.setT (w : Wave) (t l c : Nat) (v : Word32) : Wave := { w with tiles := w.tiles.set (tkey t l c) v }

/-- A poisoned tile row. -/
def Wave.tPoisoned (w : Wave) (t l : Nat) : Bool := w.tpois.get (64 * t + l) != 0

/-- Clears a tile row's poison. -/
def Wave.cleanT (w : Wave) (t l : Nat) : Wave := { w with tpois := w.tpois.set (64 * t + l) 0 }

/-- The lanes of a mask, ascending. -/
def lanesOf (width : Nat) (m : Word64) : List Nat := (List.range width).filter (fun l => m.getLsbD l)

/-- How many lanes a mask has. -/
def laneCount (m : Word64) : Nat := ((List.range 64).filter (fun l => m.getLsbD l)).length

/-- The active lanes of a lane instruction: EXEC, or EXEC and the selected mask (R51). -/
def Cur.active (c : Cur) (msel : BitVec 3) : Word64 :=
  if msel = 0 then c.f.exec else c.f.exec &&& c.w.m c.j.width msel.toNat

/-- The fragment's save slot: SAVEBASE, the program part of its frame (R239, R243); 0 with no frame (log 7). -/
def State.saveBase (s : State) (c : Cur) : Word64 :=
  match c.f.frame, s.part? c.j.ref.part with
  | some n, some p => BitVec.ofNat 64 ((p.savewin.extractLsb' 30 27).toNat * 0x40000000 + n * 0x4800 + 0x800)
  | _, _ => 0

/-- Sign extension of an immediate to 64 bits (R41). -/
def sext {n : Nat} (x : BitVec n) : Word64 := x.signExtend 64

end Sys2Proof.Machine
end

