-- ==== Sys2Proof/Machine/Memory.lean ====
section
/-! DEFINITION. Memory: the physical address map (R10), two-stage translation (R158 to R160), stash windows (R155),
encrypted lines (R159), and reading and writing bytes at a translated place. -/

namespace Sys2Proof.Machine

open Sys2Proof

/-- What stands at a physical address (R10, R163, R178, R260, R267, R268; the host window is a design choice, log 8). -/
inductive Region where
  | device
  | channels (off : Nat)
  | queues (die off : Nat)
  | tables (off : Nat)
  | peer (win off : Nat)
  | host
  | aperture
  | unbacked
  deriving DecidableEq, Repr

/-- The region of a physical address (R10). -/
def regionOf (pa : Nat) : Region :=
  if pa < 0x08000000000 then .device
  else if pa < 0x10000000000 then .unbacked
  else if pa < 0x20000000000 then .device
  else if pa < 0x24000000000 then .peer ((pa - 0x20000000000) / 0x40000000) (pa % 0x40000000)
  else if pa < 0x2E000000000 then .host
  else if pa < 0x2E000010000 then .channels (pa - 0x2E000000000)
  else if pa < 0x2F000000000 then .aperture
  else if pa < 0x2F004000000 then .queues ((pa - 0x2F000000000) / 0x1000000) (pa % 0x1000000)
  else if pa < 0x2F800000000 then .aperture
  else if pa < 0x2F800024000 then .tables (pa - 0x2F800000000)
  else if pa < 0x30000000000 then .aperture
  else .unbacked

/-- A page fault's cause (R161) and, for causes 0x04 to 0x06, the intermediate address. -/
structure PageFault where
  cause : BitVec 8
  ipa : Nat
  deriving DecidableEq, Repr

/-- What an access does to the page it uses (R159). -/
inductive Use where
  | read | write | fetch
  deriving DecidableEq, Repr

/-- The party of an access: its job, stage-1 root and mode, whether its own instruction is scalar (R178), the save
slot it may use (R239), its workgroup, whether it walks afresh (R163), the words of host and peer memory it has read ahead (R177), what
the lane instruction at the head of its queue has read ahead (R141, R168), and the page-table entries it has read ahead (R166). -/
structure Who where
  job : JobRef
  s1root : Nat
  kernel : Bool
  scalar : Bool := false
  own : Option (Nat × Nat) := none
  wg : Option WgRef := none
  afresh : Bool := false
  peeks : List (RemoteWord × Word64) := []
  seen : List (SrcByte × Byte) := []
  walked : List WalkRead := []
  deriving DecidableEq, Repr

/-- A byte of an instruction's operand at a scratchpad or global address: as it was read ahead, or as it stands (R141, R168). -/
def Who.seenByte (w : Who) (sp : Bool) (a : Nat) (now : Byte) : Byte :=
  match w.seen.find? (fun x => x.1 == (sp, a)) with | some x => x.2 | none => now

/-- What one table entry says (R159). -/
inductive Ent where
  | absent
  | malformed
  | table (addr : Nat)
  | leaf (addr : Nat) (bits : BitVec 64)
  deriving DecidableEq, Repr

/-- The lowest index bit of a level (R158). -/
def levelShift (l : Nat) : Nat :=
  match l with | 0 => 48 | 1 => 39 | 2 => 30 | 3 => 21 | _ => 16

/-- The number of entries of a table at a level (R158). -/
def levelEntries (stage2 : Bool) (l : Nat) : Nat :=
  if l = 4 ∨ (stage2 = true ∧ l = 1) then 32 else 512

/-- The alignment of the table below a level: 256 bytes at L4, otherwise 4 KiB (R158). -/
def nextTableAlign (l : Nat) : Nat := if l = 3 then 256 else 4096

/-- Reads a table entry (R159). -/
def entOf (stage2 : Bool) (l : Nat) (e : BitVec 64) : Ent :=
  let addr := (e.extractLsb' 8 36).toNat * 256
  let leaf := !e.getLsbD 1
  if !e.getLsbD 0 then .absent
  else if e.extractLsb' 44 13 != 0 || e.extractLsb' 5 3 != 0 then .malformed
  else if !(stage2 && leaf) && e.extractLsb' 57 7 != 0 then .malformed
  else if stage2 && e.getLsbD 4 then .malformed
  else if leaf then
    (if l < 2 ∨ addr % 2 ^ levelShift l ≠ 0 then .malformed else .leaf addr e)
  else (if l = 4 ∨ addr % nextTableAlign l ≠ 0 then .malformed else .table addr)

/-- The key slot of a page, from its stage-2 leaf (R159). -/
def leafKey (leaf : BitVec 64) : Option Nat := if leaf.getLsbD 57 then some (leaf.extractLsb' 58 6).toNat else none

/-- The tag of a line written under a key slot: the slot's key pair, or 0 for a page without ENC. -/
def State.keyTag (s : State) (k : Option Nat) : BitVec 512 :=
  match k with | none => 0 | some n => s.keySlots.get n

/-- A key slot that holds no key (R161). -/
def State.emptyKey (s : State) (k : Option Nat) : Bool :=
  match k with | some n => s.keySlots.get n == 0 | none => false

/-- A byte of device memory read under a key: what was stored if the line was written under the same key (R159). -/
def State.deviceByte (s : State) (p : Phys) (i : Nat) : Byte :=
  if s.lineKey.get ((p.pa + i) / 128) = s.keyTag p.key then s.mem.get (p.pa + i)
  else Config.freeByte s.fresh (p.pa + i)

/-- The little-endian value of the `n` bytes of device memory from byte `i` of a place. -/
def State.deviceNat (s : State) (p : Phys) (i : Nat) : Nat → Nat
  | 0 => 0
  | n + 1 => (s.deviceByte p i).toNat + 256 * s.deviceNat p (i + 1) n

/-- The table entry at a place, one access of 8 bytes, read under the key of its page (R159, R161, R167). Tables stand in device
memory; at any other address the walk faults with cause 0x07, of an aperture, peer or host address too (log 84). -/
def State.tableEntry (s : State) (p : Phys) : Except PageFault (BitVec 64) :=
  match regionOf p.pa with
  | .device => if s.emptyKey p.key then .error { cause := 0x09, ipa := 0 } else .ok (BitVec.ofNat 64 (s.deviceNat p 0 8))
  | _ => .error { cause := 0x07, ipa := 0 }

/-- A partition-stage walk over the levels left, from a table's physical address (R158): `rd` reads the entry of a level at a place, and a fault of the
walk stops it as `stop` says. -/
def walk2By {ε : Type} (stop : PageFault → ε) (rd : Nat → Phys → Except ε (BitVec 64)) (ipa : Nat) :
    List Nat → Nat → Except ε (Nat × BitVec 64)
  | [], _ => .error (stop { cause := 0x06, ipa := ipa })
  | l :: ls, tab =>
    match rd l { pa := tab + 8 * (ipa / 2 ^ levelShift l % levelEntries true l), key := none } with
    | .error e => .error e
    | .ok e =>
      match entOf true l e with
      | .absent => .error (stop { cause := 0x04, ipa := ipa })
      | .malformed => .error (stop { cause := 0x06, ipa := ipa })
      | .table a => walk2By stop rd ipa ls a
      | .leaf a b => .ok (a + ipa % 2 ^ levelShift l, b)

/-- A leaf that allows everything: stage 2 of the service job is the identity (R258). -/
def identityLeaf : BitVec 64 := 0b1101

/-- Stage 2 of a partition, with `rd` reading the entries (R158); partition 16 stands for the service job's identity map (R258). -/
def State.stage2By (s : State) {ε : Type} (stop : PageFault → ε) (rd : Nat → Phys → Except ε (BitVec 64)) (part ipa : Nat) :
    Except ε (Nat × BitVec 64) :=
  if part = 16 then .ok (ipa, identityLeaf)
  else
    match s.part? part with
    | none => .error (stop { cause := 0x04, ipa := ipa })
    | some p => walk2By stop rd ipa [1, 2, 3, 4] ((p.s2root.extractLsb' 8 36).toNat * 256)

/-- A job-stage walk over the levels left, each table reached through stage 2 (R158): `rd i k` makes read (i, k) of the walk. -/
def State.walk1By (s : State) {ε : Type} (stop : PageFault → ε) (rd : Nat → Nat → Phys → Except ε (BitVec 64)) (part va : Nat) :
    List Nat → Nat → Except ε (Nat × BitVec 64)
  | [], _ => .error (stop { cause := 0x03, ipa := 0 })
  | l :: ls, tab =>
    match s.stage2By stop (rd l) part (tab + 8 * (va / 2 ^ levelShift l % levelEntries false l)) with
    | .error e => .error e
    | .ok (pa, b) =>
      match rd l 0 { pa := pa, key := leafKey b } with
      | .error e => .error e
      | .ok e =>
        match entOf false l e with
        | .absent => .error (stop { cause := 0x01, ipa := 0 })
        | .malformed => .error (stop { cause := 0x03, ipa := 0 })
        | .table a => s.walk1By stop rd part va ls a
        | .leaf a b => .ok (a + va % 2 ^ levelShift l, b)

/-- The walks that read every entry as it stands. -/
def State.walk2 (s : State) (ipa : Nat) (ls : List Nat) (tab : Nat) : Except PageFault (Nat × BitVec 64) :=
  walk2By (fun e => e) (fun _ p => s.tableEntry p) ipa ls tab
def State.stage2 (s : State) (part ipa : Nat) : Except PageFault (Nat × BitVec 64) :=
  s.stage2By (fun e => e) (fun _ p => s.tableEntry p) part ipa
def State.walk1 (s : State) (part va : Nat) (ls : List Nat) (tab : Nat) : Except PageFault (Nat × BitVec 64) :=
  s.walk1By (fun e => e) (fun _ _ p => s.tableEntry p) part va ls tab

/-- Whether a leaf allows a use (R159). -/
def leafAllows (b : BitVec 64) (u : Use) : Bool :=
  match u with | .read => true | .write => b.getLsbD 2 | .fetch => b.getLsbD 3

/-- The save window of a partition: base and bytes (R239). -/
def Part.saveWindow (p : Part) : Nat × Nat :=
  ((p.savewin.extractLsb' 30 27).toNat * 0x40000000, (p.savewin.extractLsb' 0 16).toNat * 0x4800)

/-- Whether an address lies in the partition's save window. -/
def State.inSaveWindow (s : State) (part va : Nat) : Bool :=
  match s.part? part with
  | none => false
  | some p => decide (p.saveWindow.1 ≤ va ∧ va < p.saveWindow.1 + p.saveWindow.2)

/-- Whether a module is reached on some switch plane: `planes` holds the (module, plane) ports that have failed (R268). -/
def State.reaches (s : State) (m : BitVec 10) : Bool :=
  (List.range 24).any (fun p => !s.planes.contains (m.toNat, p) && !s.planes.contains (Config.thisModule.toNat, p))

/-- Whether a peer window leads nowhere: disabled, an unreachable module, or a partition in reset; whether one of another module is in
reset is free (R268, R271, log 40). -/
def State.windowDead (s : State) (d : PeerWin) : Bool :=
  !d.enabled || !s.reaches d.module
    || (if d.module == Config.thisModule then s.parts.any (fun p => p.id == d.part.toNat && p.resetting)
        else s.choose (2 ^ 60 + 16 * d.module.toNat + d.part.toNat) 2 == 1)

/-- The place on this module that a peer window onto it leads to: the window's partition translates (R268, R271). Where that ends at an aperture, host
memory or a peer window, the spec says nothing of the access, and it faults as at an unbacked address (log 109). -/
def State.homePlace (s : State) (d : PeerWin) (off : Nat) (u : Use) : Except PageFault Phys :=
  let ipa := (d.base.toNat + off) % 2 ^ 64
  match s.stage2 d.part.toNat ipa with
  | .error e => .error e
  | .ok (pa, b) =>
    if !leafAllows b u then .error { cause := 0x05, ipa := ipa }
    else if s.emptyKey (leafKey b) then .error { cause := 0x09, ipa := 0 }
    else match regionOf pa with | .device => .ok { pa := pa, key := leafKey b } | _ => .error { cause := 0x07, ipa := 0 }

/-- Checks made of a translated physical address: backed, reachable, and a key slot that holds a key (R161, R268). The
queue windows and tables are for kernel mode only (R163, R267; log 9); a peer window onto this module is its own memory. -/
def State.checkPhys (s : State) (w : Who) (pa : Nat) (leaf : BitVec 64) (u : Use := .read) : Except PageFault Phys :=
  let done : Except PageFault Phys :=
    if s.emptyKey (leafKey leaf) then .error { cause := 0x09, ipa := 0 } else .ok { pa := pa, key := leafKey leaf }
  match regionOf pa with
  | .unbacked => .error { cause := 0x07, ipa := 0 }
  | .queues _ _ | .tables _ => if w.kernel then done else .error { cause := 0x07, ipa := 0 }
  | .peer win off =>
    match s.peerWins.find? (fun x => x.num == win) with
    | none => .error { cause := 0x0A, ipa := 0 }
    | some d =>
      if s.windowDead d then .error { cause := 0x0A, ipa := 0 }
      else if d.module == Config.thisModule then s.homePlace d off u
      else done
  | _ => done

/-- The free choice that stands for one access at an address: a naturally aligned unit of 8 bytes, or the page of a fetched block, translates as
one (R167, R176). -/
def accessKey (va : Nat) (u : Use) : Nat :=
  2 ^ 70 + (match u with | .read => 3 * (va / 8) | .write => 3 * (va / 8) + 1 | .fetch => 3 * (va / 65536) + 2)

/-- A cached translation of the page (R160); which of several, and whether one is used, is free; none for an access that walks afresh
(R163). -/
def State.cached (s : State) (w : Who) (va : Nat) (u : Use) : Option TlbEntry :=
  let hits := if w.afresh then [] else s.tlb.filter (fun e => e.job == w.job && e.page == va / 65536)
  match hits with
  | [] => none
  | e :: _ => if s.choose (2 * accessKey va u) 2 = 1 then some (hits.getD (s.choose (2 * accessKey va u + 1) hits.length) e) else none

/-- Whether a job's leaf refuses a use in the party's mode (R159). -/
def refuses1 (w : Who) (b1 : BitVec 64) (u : Use) : Bool := !leafAllows b1 u || (b1.getLsbD 4 && !w.kernel)

/-- What a party has read ahead for read (i, k) of the walk of an address. -/
def Who.entryAhead (w : Who) (va i k : Nat) : Option (BitVec 64) :=
  (w.walked.find? (fun x => x.unit == va / 8 && x.i == i && x.k == k)).map (fun x => x.val)

/-- Read (i, k) of a party's walk: as it has read it ahead, or as the entry stands (R166). -/
def State.entryFor (s : State) (w : Who) (va i k : Nat) (p : Phys) : Except PageFault (BitVec 64) :=
  match w.entryAhead va i k with | some v => .ok v | none => s.tableEntry p

/-- The two stages of a party's walk of an address (R158). -/
def State.jobWalk (s : State) (w : Who) (va : Nat) : Except PageFault (Nat × BitVec 64) :=
  s.walk1By (fun e => e) (s.entryFor w va) w.job.part va [0, 1, 2, 3, 4] (w.s1root % 2 ^ 44)
def State.partWalk (s : State) (w : Who) (va ipa : Nat) : Except PageFault (Nat × BitVec 64) :=
  s.stage2By (fun e => e) (s.entryFor w va 5) w.job.part ipa

/-- The walk of both stages and the permissions they give (R158, R159). -/
def State.walk (s : State) (w : Who) (va : Nat) (u : Use) : Except PageFault (Nat × BitVec 64 × BitVec 64) :=
  match s.jobWalk w va with
  | .error e => .error e
  | .ok (ipa, b1) =>
    if refuses1 w b1 u then .error { cause := 0x02, ipa := 0 }
    else
      match s.partWalk w va ipa with
      | .error e => .error e
      | .ok (pa, b2) =>
        if !leafAllows b2 u then .error { cause := 0x05, ipa := ipa } else .ok (pa, b1, b2)

/-- The next read of a party's walk of an address, after those it has made ahead: which it is, and its place; none where the walk ends. -/
def State.nextRead (s : State) (w : Who) (va : Nat) : Option (Nat × Nat × Phys) :=
  let rd (i k : Nat) (p : Phys) : Except (Option (Nat × Nat × Phys)) (BitVec 64) :=
    match w.entryAhead va i k with | some v => .ok v | none => .error (some (i, k, p))
  match s.walk1By (fun _ => none) rd w.job.part va [0, 1, 2, 3, 4] (w.s1root % 2 ^ 44) with
  | .error x => x
  | .ok (ipa, _) => (match s.stage2By (fun _ => none) (rd 5) w.job.part ipa with | .error x => x | .ok _ => none)

/-- The party's walk of an address goes one read further (R166); not in the save window, which has no job-stage walk, and not at an address that
faults. -/
def State.readOn (s : State) (w : Who) (va : Word64) : List WalkRead :=
  if va.extractLsb' 57 7 ≠ 0 ∨ s.inSaveWindow w.job.part va.toNat then w.walked
  else
    match s.nextRead w va.toNat with
    | none => w.walked
    | some (i, k, p) =>
      (match s.tableEntry p with
        | .ok v => w.walked ++ [{ unit := va.toNat / 8, i := i, k := k, val := v }]
        | .error _ => w.walked)

/-- The physical address that an address leads to, whatever its pages permit. -/
def State.leadsTo (s : State) (w : Who) (va : Word64) (u : Use) : Option Nat :=
  match s.cached w va.toNat u with
  | some e => some (e.ppage * 65536 + va.toNat % 65536)
  | none =>
    match s.jobWalk w va.toNat with
    | .error _ => none
    | .ok (ipa, _) => (match s.partWalk w va.toNat ipa with | .error _ => none | .ok (pa, _) => some pa)

/-- A cached translation as it serves an access: its leaves permit or refuse the use as they did when it was read (R160), and the
place it leads to is checked as any other (R161). -/
def State.serve (s : State) (w : Who) (e : TlbEntry) (va : Nat) (u : Use) : Except PageFault Phys :=
  if refuses1 w e.leaf1 u then .error { cause := 0x02, ipa := 0 }
  else if !leafAllows e.leaf2 u then .error { cause := 0x05, ipa := e.ipage * 65536 + va % 65536 }
  else s.checkPhys w (e.ppage * 65536 + va % 65536) e.leaf2 u

/-- Translates a global address (R149, R158 to R161, R239). -/
def State.translate (s : State) (w : Who) (va : Word64) (u : Use) : Except PageFault Phys :=
  let a := va.toNat
  if va.extractLsb' 57 7 != 0 then .error { cause := 0x08, ipa := 0 }
  else if s.inSaveWindow w.job.part a then
    match w.own with
    | none => .error { cause := 0x02, ipa := 0 }
    | some (lo, n) =>
      if lo ≤ a ∧ a < lo + n then
        match s.stage2 w.job.part (a % 2 ^ 44) with
        | .error e => .error e
        | .ok (pa, b2) =>
          if !leafAllows b2 u then .error { cause := 0x05, ipa := a % 2 ^ 44 } else s.checkPhys w pa b2 u
      else .error { cause := 0x02, ipa := 0 }
  else
    match s.cached w a u with
    | some e => s.serve w e a u
    | none =>
      match s.walk w a u with
      | .error e => .error e
      | .ok (pa, _, b2) => s.checkPhys w pa b2 u

/-- The place of a global address. -/
def State.locGlobal (s : State) (w : Who) (va : Word64) (u : Use) : Except PageFault Loc :=
  match s.translate w va u with
  | .error e => .error e
  | .ok p => .ok (.phys p)

/-- The global address that a scratchpad offset inside a stash window stands for (R155). -/
def Wg.stashAddr (g : Wg) (off : Nat) : Option Word64 :=
  match g.stash.find? (fun x => decide (x.soff ≤ off ∧ off < x.soff + x.size)) with
  | none => none
  | some x => some (x.gbase + BitVec.ofNat 64 (off - x.soff))

/-- The place of a scratchpad offset (R155). -/
def State.locScratch (s : State) (w : Who) (g : Wg) (off : Nat) (u : Use) : Except PageFault Loc :=
  match g.stashAddr off with
  | none => .ok (.scratch off)
  | some va => s.locGlobal w va u

/-- The cell of another module's memory that a window's offset names: by module, partition and intermediate address, so that
windows onto one element reach the same cell (R201, R268). -/
def State.peerCell (s : State) (win off : Nat) : Option Nat :=
  (s.peerWins.find? (fun x => x.num == win)).map (fun d =>
    (d.module.toNat * 16 + d.part.toNat) * 2 ^ 64 + (d.base.toNat + off) % 2 ^ 64)

/-- Byte `i` of a number. -/
def byteOf (v i : Nat) : Byte := BitVec.ofNat 8 (v / 256 ^ i)

/-- A fault-queue entry's 64 bytes as one number (R162). -/
def FqEntry.bits (e : FqEntry) : BitVec 512 :=
  e.vaddr ++ e.ipa ++ e.pc ++ (BitVec.ofNat 32 e.job.id) ++ e.waveid ++ e.waiters ++ e.seq ++ (0#168)
    ++ (BitVec.ofNat 4 e.job.part) ++ e.issuer ++ BitVec.ofBool e.gone ++ BitVec.ofBool e.write
    ++ BitVec.ofBool e.fetch ++ BitVec.ofBool e.kmode ++ (0#6) ++ e.cause

/-- The bits of a slot's record that are not reserved, of a batch record or a trap record: reserved bits read 0 (R5, R234, R260). -/
def slotMask (batch : Bool) : BitVec 512 :=
  ~~~(if batch then (BitVec.ofNat 512 (2 ^ 128 - 1) <<< 160) ||| (BitVec.ofNat 512 (2 ^ 110 - 1) <<< 18)
      else (BitVec.ofNat 512 (2 ^ 120 - 1) <<< 8) ||| 4)

/-- A byte of the service queue's slots. -/
def SvcQ.slotByte (q : SvcQ) (off : Nat) : Byte :=
  let i := off % 4096
  let b := q.bytes.get off
  if i < 64 then b &&& byteOf (slotMask ((q.bytes.get (off - i)).getLsbD 2)).toNat i else b

/-- A byte of the queue window of a die (R163, R260); what the window's map does not give is free (log 9). -/
def State.queueByte (s : State) (d off : Nat) : Byte :=
  let free := Config.freeByte s.fresh off
  match s.die? d with
  | none => free
  | some x =>
    let word (v : BitVec 32) : Byte := byteOf v.toNat (off % 8)
    if off < 0x40000 then
      match x.fq.entries.find? (fun e => e.seq.toNat % 4096 == off / 64) with
      | none => free
      | some e => byteOf e.bits.toNat (off % 64)
    else if off / 8 = 0x8000 then word x.fq.head
    else if off / 8 = 0x8001 then word x.fq.tail
    else if off / 8 = 0x20000 then word x.sq.head
    else if off / 8 = 0x20001 then word x.sq.tail
    else if 0x800000 ≤ off then x.sq.slotByte (off - 0x800000)
    else free

/-- The bits of a steering entry, a ring descriptor and a binding that are not reserved: reserved bits read 0 (R5, R266, R267). -/
def steeringMask : BitVec 128 := ~~~(0x7FFFF#128 <<< 5)
def ringMask : BitVec 256 := ~~~((0xFFFFFFFFFFF#256 <<< 212) ||| (0x7F#256 <<< 193))
def bindingMask : BitVec 512 := ~~~((0xFFFFFFF#512 <<< 260) ||| (BitVec.ofNat 512 (2 ^ 191 - 1) <<< 1))

/-- A byte of the hub's tables (R267). -/
def State.tableByte (s : State) (off : Nat) : Byte :=
  if off < 0x10000 then byteOf (s.steering.get (off / 16) &&& steeringMask).toNat (off % 16)
  else if off < 0x12000 then byteOf (s.rings.get ((off - 0x10000) / 32) &&& ringMask).toNat (off % 32)
  else if 0x20000 ≤ off then byteOf (s.bindings.get ((off - 0x20000) / 64) &&& bindingMask).toNat (off % 64)
  else Config.freeByte s.fresh off

/-- A byte of the block-transfer aperture: CHSTAT for scalar loads, 0 elsewhere (R178). -/
def State.channelByte (s : State) (w : Who) (off : Nat) : Byte :=
  if !w.scalar || off < 0x100 || 0x140 ≤ off then 0
  else
    match w.wg.bind s.wg? with
    | none => 0
    | some g =>
      let c := (off - 0x100) / 8
      byteOf ((g.fired.get c) ++ (g.accepted.get c)).toNat (off % 8)

/-- The 8-byte word of host or peer memory that a place names; none of other memory. -/
def State.remoteWord (s : State) (p : Phys) : Option RemoteWord :=
  match regionOf p.pa with
  | .host => some (false, p.pa / 8)
  | .peer win off => (s.peerCell win off).map (fun a => (true, a / 8))
  | _ => none

/-- Whether a place is host or peer memory. -/
def State.isRemote (s : State) (l : Loc) : Bool := match l with | .phys p => (s.remoteWord p).isSome | .scratch _ => false

/-- A byte of host or peer memory: of the word as the party has read it ahead, or as it stands (R177). -/
def Who.remoteByte (w : Who) (word : RemoteWord) (a : Nat) (now : Byte) : Byte :=
  match w.peeks.find? (fun x => x.1 == word) with | some x => byteOf x.2.toNat (a % 8) | none => now

/-- One byte at a physical place, as a party reads it; at an address of the apertures that no layout of the spec names it is free
(log 99). -/
def State.physByte (s : State) (w : Who) (p : Phys) (i : Nat) : Byte :=
  match regionOf (p.pa + i) with
  | .device => s.deviceByte p i
  | .channels off => s.channelByte w off
  | .queues d off => s.queueByte d off
  | .tables off => s.tableByte off
  | .peer win off =>
    match s.peerCell win off with
    | some a => w.remoteByte (true, a / 8) a (s.peerMem.get a)
    | none => Config.freeByte s.fresh (p.pa + i)
  | .host => w.remoteByte (false, (p.pa + i) / 8) (p.pa + i) (s.hostMem.get (p.pa + i))
  | .aperture | .unbacked => Config.freeByte s.fresh (p.pa + i)

/-- One byte of a place. -/
def State.locByte (s : State) (w : Who) (g : Wg) (l : Loc) (i : Nat) : Byte :=
  match l with
  | .scratch o => g.scratch.get (o + i)
  | .phys p => s.physByte w p i

/-- The little-endian value of the `n` bytes from byte `i` of a place (R39, R167). -/
def State.readFrom (s : State) (w : Who) (g : Wg) (l : Loc) (i : Nat) : Nat → Nat
  | 0 => 0
  | n + 1 => (s.locByte w g l i).toNat + 256 * s.readFrom w g l (i + 1) n

/-- The `n` bytes of a place as a number. -/
def State.readLoc (s : State) (w : Who) (g : Wg) (l : Loc) (n : Nat) : Nat := s.readFrom w g l 0 n

/-- Makes a line hold data of another key: what its bytes now decrypt to is free (R159). -/
def State.rekeyLine (s : State) (line : Nat) (tag : BitVec 512) : State :=
  if s.lineKey.get line = tag then s
  else
    { s with lineKey := s.lineKey.set line tag
             mem := s.mem.setList (128 * line) ((List.range 128).map (fun i => Config.freeByte s.fresh (128 * line + i))) }

/-- Stores `n` bytes of a number in device memory under a key; a reservation of the line is lost (R202). -/
def State.storeDevice (s : State) (p : Phys) (n v : Nat) : State :=
  let s1 := s.rekeyLine (p.pa / 128) (s.keyTag p.key)
  { s1 with mem := s1.mem.setBytes p.pa n v
            reservations := s1.reservations.filter (fun x => x.2 != p.pa / 128) }

/-- An atomic that stores nothing is an atomic to its line all the same: a reservation of the line is lost (R202). -/
def State.touchLine (s : State) (p : Phys) : State :=
  { s with reservations := s.reservations.filter (fun x => x.2 != p.pa / 128) }
def State.touchLoc (s : State) (l : Loc) : State := match l with | .phys p => s.touchLine p | .scratch _ => s

/-- Stores `n` bytes, naturally aligned, at a place that is plain storage; stores elsewhere leave the state as it
is here (the queue windows and the aperture have their own operations). -/
def State.storePlain (s : State) (g : WgRef) (l : Loc) (n v : Nat) : State :=
  match l with
  | .scratch o => s.modWg g (fun x => { x with scratch := x.scratch.setBytes o n v })
  | .phys p =>
    match regionOf p.pa with
    | .device => s.storeDevice p n v
    | .peer win off => match s.peerCell win off with | some a => { s with peerMem := s.peerMem.setBytes a n v } | none => s
    | .host => { s with hostMem := s.hostMem.setBytes p.pa n v }
    | _ => s

/-! ## Writes to host and peer memory (R177) -/

/-- Who writes to host and peer memory: the workgroup, the wave, the fragments in whose program order the write stands, and the posted store or
engine command it is of. -/
structure Writer where
  wg : WgRef
  wave : Nat := 0
  owners : List Nat := []
  src : Option Nat := none
  deriving DecidableEq, Repr

/-- A remote write arrives. -/
def State.land (s : State) (h : Held) : State :=
  let old := (List.range h.size).foldr (fun i acc =>
    (s.physByte { job := h.wg.job, s1root := 0, kernel := true } h.place i).toNat + 256 * acc) 0
  s.storePlain h.wg (.phys h.place) h.size (if h.or then Nat.lor old h.val else h.val)

/-- The remote writes that a test names arrive, in program order. -/
def State.landIf (s : State) (test : Held → Bool) : State :=
  (s.remote.filter test).foldl State.land { s with remote := s.remote.filter (fun h => !test h) }

/-- The remote writes of a workgroup arrive. -/
def State.landGroup (s : State) (g : WgRef) : State := s.landIf (fun h => h.wg == g)

/-- The writer that an engine command is. -/
def Cmd.writer (c : Cmd) : Writer := { wg := c.wg, wave := c.wave, owners := c.owners, src := some c.id }

/-- Whether a remote write stands in a fragment's program order. -/
def Held.isOf (h : Held) (r : FragRef) : Bool := h.wg == r.wave.wg && h.wave == r.wave.wave && h.owners.contains r.frag

/-- The remote writes that precede a fragment's present instruction arrive (R28, R177). -/
def State.landOwn (s : State) (r : FragRef) : State := s.landIf (fun h => h.isOf r)

/-- The remote writes of an engine command arrive (R177). -/
def State.landCmd (s : State) (i : Nat) : State := s.landIf (fun h => h.src == some i)

/-- The remote writes to the word of a place arrive, ahead of an atomic on it. -/
def State.landAt (s : State) (l : Loc) : State :=
  match l with
  | .scratch _ => s
  | .phys p => match s.remoteWord p with | none => s | some w => s.landIf (fun h => s.remoteWord h.place == some w)

/-- Whether a store of a fragment or an engine arrives later: in host and peer memory that is free, and it never arrives before an earlier one
to its word (R177, log 30). -/
def State.arrivesLate (s : State) (l : Loc) : Bool :=
  match l with
  | .scratch _ => false
  | .phys p =>
    match s.remoteWord p with
    | none => false
    | some w => s.choose (p.pa / 8) 2 == 1 || s.remote.any (fun h => h.step != s.fresh && s.remoteWord h.place == some w)

/-- A store that arrives later; with `or` it sets bits. -/
def State.sendLate (s : State) (x : Writer) (l : Loc) (n v : Nat) (or : Bool := false) : State :=
  match l with
  | .scratch _ => s
  | .phys p => { s with remote := s.remote ++
      [{ wg := x.wg, wave := x.wave, owners := x.owners, src := x.src, or := or, step := s.fresh, place := p, size := n, val := v }] }

/-- The access of the `k`-th write under way arrives, where none before it is to the same word. -/
def State.arrive (s : State) (k : Nat) : State :=
  match s.remote[k]? with
  | none => s
  | some h =>
    let same (x : Held) : Bool := s.remoteWord x.place == s.remoteWord h.place
    if (s.remote.take k).any (fun x => same x && x.step != h.step) then s
    else s.landIf (fun x => same x && x.step == h.step)

/-- The name under which a hart's writes to host and peer memory go; it is no workgroup's. -/
def hartRef (h : Nat) : WgRef := { job := { part := 17, id := h }, wg := 0 }

/-- The writes of workgroups that are gone arrive. -/
def State.settleRemote (s : State) : State := s.landIf (fun h => h.wg.job.part != 17 && !s.wgs.any (fun g => g.ref == h.wg))

/-- A read takes the word of a place that its party has read ahead: the next read of it is another access (R177). -/
def State.takePeek (s : State) (l : Loc) (ps : List (Nat × RemoteWord × Word64)) : List (Nat × RemoteWord × Word64) :=
  match l with | .scratch _ => ps | .phys p => ps.filter (fun x => some x.2.1 != s.remoteWord p)

/-- A fragment's party: its save slot counts during its own exit or entry routine (R239). -/
def State.who (s : State) (c : Cur) (scalar : Bool) : Who :=
  { job := c.j.ref, s1root := c.j.s1root, kernel := c.j.kernel, scalar := scalar, wg := some c.g.ref, afresh := c.f.afresh
    peeks := c.f.peeks.map (fun x => x.2), seen := c.f.seen, walked := c.f.walked
    own := match c.f.routine with
      | .none => none
      | _ => if c.f.frame.isSome then some ((s.saveBase c).toNat, 0x4000) else none }

/-- Meridian's and the loader's accesses for a job. -/
def Job.who (j : Job) : Who := { job := j.ref, s1root := j.s1root, kernel := j.kernel }

/-- Reads `n` bytes at a virtual address for a use, each through its own translation; none where one does not translate. -/
def State.readAs (s : State) (w : Who) (u : Use) (va : Word64) : Nat → Option (List Byte)
  | 0 => some []
  | n + 1 =>
    match s.translate w va u with
    | .error _ => none
    | .ok p =>
      match s.readAs w u (va + 1) n with
      | none => none
      | some bs => some (s.physByte w p 0 :: bs)

/-- Reads `n` bytes at a virtual address. -/
def State.readVa (s : State) (w : Who) (va : Word64) (n : Nat) : Option (List Byte) := s.readAs w .read va n

/-- A number of `n` bytes at a virtual address. -/
def State.readVaNat (s : State) (w : Who) (va : Word64) (n : Nat) : Option Nat :=
  (s.readVa w va n).map (fun bs => bs.foldr (fun b acc => b.toNat + 256 * acc) 0)

end Sys2Proof.Machine
end

