-- ==== Sys2Proof/Machine/Ops.lean ====
section
/-! DEFINITION. The shared operations of instructions: taking a trap (R232 to R237), waiting for a page (R161 to R164),
posting to the service queue (R260), the checks every scalar and lane instruction makes (R46, R64, R245, R249), and
moving on to the next instruction. -/

namespace Sys2Proof.Machine

open Sys2Proof

/-- What a step answers. -/
abbrev Out := Host.Outcome State Fault Refusal

/-! ## Fault codes (R72) -/

def fltIllegal : BitVec 8 := 0x01
def fltPage : BitVec 8 := 0x02
def fltScratch : BitVec 8 := 0x03
def fltRecord : BitVec 8 := 0x04
def fltAlign : BitVec 8 := 0x05
def fltPoison : BitVec 8 := 0x06
def fltBaton : BitVec 8 := 0x07
def fltBarrier : BitVec 8 := 0x08
def fltEntry : BitVec 8 := 0x09
def fltPriv : BitVec 8 := 0x0A
def fltTrap : BitVec 8 := 0x10

/-- TRAPCAUSE[17:0] (R72). -/
def causeWord (lane ext : Bool) (sub fault : BitVec 8) : BitVec 18 :=
  BitVec.ofBool lane ++ BitVec.ofBool ext ++ sub ++ fault

/-! ## The service queue (R260) -/

/-- Whether a slot is free for the next record: fewer than 2,048 ahead of SQTAIL, and its old record answered. -/
def SvcQ.room (q : SvcQ) : Bool :=
  q.head - q.tail != 2048 && !q.opened.any (fun r => r.seq.toNat % 2048 == q.head.toNat % 2048)

/-- Writes a record to the next slot: SEQ in [159:128]; a batch record has 16 bytes of arguments for each of its lanes (R234,
R260). -/
def SvcQ.write (q : SvcQ) (r : SqRec) : SvcQ :=
  let seq := q.head
  let len := if r.batch then 16 * laneCount r.lanes else 0
  let bits : BitVec 512 := r.head ||| (seq.setWidth 512 <<< 128)
  let base := 4096 * (seq.toNat % 2048)
  { q with head := seq + 1
           bytes := (q.bytes.setBytes base 64 bits.toNat).paste (base + 64) len r.args
           opened := q.opened ++ [{ r with seq := seq, head := bits }] }

/-- Posts a record, or leaves it waiting where no slot is free (R260). -/
def State.postSvc (s : State) (d : Nat) (r : SqRec) : State :=
  s.modDie d (fun x =>
    if x.sq.room && x.sq.late.isEmpty then { x with sq := x.sq.write r }
    else { x with sq := { x.sq with late := x.sq.late ++ [r] } })

/-- The partition number a record shows; the service job, which has none, shows 0 (log 11). -/
def Job.partBits (j : Job) : BitVec 4 := if j.kernel then 0 else BitVec.ofNat 4 j.ref.part

/-- A trap record's 64 bytes, SEQ still zero (R234). -/
def trapRecord (c : Cur) (t : TrapCtx) : BitVec 512 :=
  t.addr ++ t.lpc ++ t.faddr ++ t.lanes ++ BitVec.ofNat 32 c.j.ref.id ++ waveid c.w.ref ++ t.cause ++ t.code
    ++ 0#32 ++ 0#120 ++ c.j.partBits ++ BitVec.ofBool t.nested ++ 0#1 ++ BitVec.ofNat 2 c.f.ref.frag

/-! ## Taking a trap (R232) -/

/-- Marks the trap records of a workgroup's fragments withdrawn: their verdicts find no one (R235, R242). -/
def State.withdrawTraps (s : State) (g : WgRef) : State :=
  { s with dies := s.dies.map (fun (d : Die) =>
      let gone (r : SqRec) : SqRec :=
        if r.caller.wave.wg = g ∧ !r.batch then { r with caller := { r.caller with frag := 4 } } else r
      { d with sq := { d.sq with opened := d.sq.opened.map gone, late := d.sq.late.map gone } }) }

/-- A save that fails: every exit routine of the workgroup stops (R241). -/
def Wg.fallBack (g : Wg) (now : Nat) : Wg :=
  { g with state := match g.state with | .saving t => .fallback t | _ => .fallback now }

/-- A fragment of a workgroup in SAVING or FALLBACK that has not vectored: it goes to its point (R242, R246). -/
def Cur.saving (c : Cur) : Bool :=
  match c.g.state, c.f.routine with | .saving _, .none => true | .fallback _, .none => true | _, _ => false

/-- A fragment on its way to its point: at a save, or in a frozen workgroup, unless it steps (R242, R254). -/
def Cur.draining (c : Cur) : Bool := c.saving || (c.g.frozen && c.f.steps.isNone)

/-- Since when a fragment that parks now counts as parked: one that a denial found parked, and one whose read in WAITADDR faults, have been
parked all along (R36, R37). -/
def State.parkTime (s : State) (f : Frag) : Nat :=
  match f.slot with | .parked _ => f.parkedAt | _ => if f.repark then f.parkedAt else s.cycle

/-- Takes a trap of a fragment: its trap registers change, its lane queue is held with the trap, it parks, and the
record goes to its die's service queue, or, of a fault of a service wave, to the service-fault slot (R258, R355; log 29). A fault inside an
exit routine starts the fallback instead (R246); that of an instruction draining at a save or a freeze is not delivered, and
the fragment has reached its point there (R242). -/
def State.raise (s : State) (r : FragRef) (t0 : TrapCtx) : State :=
  match s.look r with
  | none => s
  | some c =>
    match c.f.routine with
    | .exit _ _ _ => s.modWg c.g.ref (fun g => g.fallBack s.cycle)
    | _ =>
      if c.draining then s.setFrag { c.f with slot := .parked .trap, parkedAt := s.parkTime c.f, flight := none, seen := [] } else
      let t := { t0 with nested := c.f.inTrap.isSome, callSeq := c.f.callSeq }
      let s1 := s.setFrag { c.f with
        waiting := some t, queue := [], slot := .parked .trap, parkedAt := s.parkTime c.f, flight := none, seen := []
        trapcause := t.cause, trapaddr := t.addr, traplpc := t.lpc }
      if c.j.kernel && t.cause.extractLsb' 0 8 != fltTrap then
        { s1.modDie c.g.die (fun d => { d with svcFault := d.svcFault ++ [(r, trapRecord c t)] })
          with reports := s.reports ++ [.serviceFault c.g.die] }
      else
        s1.postSvc c.g.die
          { seq := 0, batch := false, caller := r, callSeq := 0, number := 0, lanes := t.lanes
            head := trapRecord c t, args := [] }

/-- The return point at the scalar instruction itself, and at the one after it (R232). -/
def Frag.here (f : Frag) : RetPoint :=
  { spc := f.spc, lpc := f.lpc, queue := f.queue, lissue := f.lissue, rep := f.rep, passPoint := f.passPoint }
def Frag.after (f : Frag) : RetPoint := { spc := f.spc + 4, lpc := f.lpc, queue := f.queue, lissue := none, rep := none }

/-- The trap of a scalar instruction (R232). -/
def Frag.scalarTrap (f : Frag) (fault sub : BitVec 8) (faddr : Word64) : TrapCtx :=
  { addr := f.spc, lpc := f.traplpc, faddr := faddr, lanes := f.exec
    cause := causeWord false false sub fault, retry := f.here, skip := f.after }

/-- Raises a fault of the scalar instruction at issue. -/
def State.trapScalar (s : State) (c : Cur) (fault sub : BitVec 8) (faddr : Word64 := 0) : State :=
  s.raise c.f.ref (c.f.scalarTrap fault sub faddr)

/-- The trap of the lane instruction at the head of the queue: the held queue with it, and without it (R232, R233). -/
def Frag.laneTrap (f : Frag) (fault sub : BitVec 8) (faddr lanes : Word64) : TrapCtx :=
  let base : RetPoint := { spc := f.spc, lpc := f.lpc, lissue := f.lissue, rep := f.rep, passPoint := f.passPoint }
  { addr := f.spc, lpc := match f.queue with | [] => f.traplpc | q :: _ => q.addr
    faddr := faddr, lanes := lanes, cause := causeWord true false sub fault
    retry := { base with queue := f.queue }, skip := { base with queue := f.queue.tail } }

/-- Raises a fault of the lane instruction at the head of the queue. -/
def State.trapLane (s : State) (c : Cur) (lanes : Word64) (fault sub : BitVec 8) (faddr : Word64 := 0) : State :=
  s.raise c.f.ref (c.f.laneTrap fault sub faddr lanes)

/-- An instruction or address that an exit routine may not use: FLT_EXIT_OVERRUN, SUB 0x02, which ends the routine
(R237, R245). -/
def State.exitOverrun (s : State) (c : Cur) : State := s.modWg c.g.ref (fun g => g.fallBack s.cycle)

/-- Whether a fragment runs an exit routine. -/
def Frag.exiting (f : Frag) : Bool := match f.routine with | .exit _ _ _ => true | _ => false

/-! ## Page faults (R161 to R164) -/

/-- Whether the next entry can be written (R163). -/
def FaultQ.room (q : FaultQ) : Bool :=
  q.head - q.tail != 4096 && !q.entries.any (fun e => e.opened && e.seq.toNat % 4096 == q.head.toNat % 4096)

/-- Whether a fault merges into an entry (R163). -/
def FqEntry.takes (e n : FqEntry) : Bool :=
  e.opened && !e.gone && !n.gone && e.job == n.job && e.vaddr.extractLsb' 16 41 == n.vaddr.extractLsb' 16 41

/-- Merges a fault into an open entry (R163). -/
def FqEntry.merge (e n : FqEntry) : FqEntry :=
  { e with waiters := e.waiters + 1, write := e.write || n.write, fetch := e.fetch || n.fetch, who := e.who ++ n.who }

/-- Merges into the first open entry that takes it. -/
def mergeFault (n : FqEntry) : List FqEntry → Option (List FqEntry)
  | [] => none
  | e :: es => if e.takes n then some (e.merge n :: es) else (mergeFault n es).map (e :: ·)

/-- Writes an entry: SEQ is FQHEAD, the slot's old entry goes (R162, R163). -/
def FaultQ.write (q : FaultQ) (n : FqEntry) : FaultQ :=
  { q with head := q.head + 1
           entries := q.entries.filter (fun e => e.seq.toNat % 4096 != q.head.toNat % 4096)
             ++ [{ n with seq := q.head }] }

/-- Posts a fault: it merges, is written, or waits at its walker (R163). -/
def FaultQ.post (q : FaultQ) (n : FqEntry) : FaultQ :=
  match mergeFault n q.entries with
  | some es => { q with entries := es }
  | none => if q.room then q.write n else { q with late := q.late ++ [n] }

/-- A fault entry of a fragment (R162). -/
def faultEntry (c : Cur) (p : PageFault) (va pc : Word64) (issuer : BitVec 2) (u : Use) (who : List Waiter) : FqEntry :=
  { vaddr := va, ipa := BitVec.ofNat 64 p.ipa, pc := pc, job := c.j.ref
    waveid := if issuer = 2 then 0 else waveid c.w.ref, waiters := 1, seq := 0, issuer := issuer, gone := false
    write := u == .write, fetch := u == .fetch, kmode := c.j.kernel, cause := p.cause, opened := true, who := who }

/-- A fragment's instruction met a page fault: it parks for the verdict, or traps at once in a service wave (R153,
R161, R258). `t` is the trap that a kill verdict raises. -/
def State.pageWait (s : State) (c : Cur) (p : PageFault) (va : Word64) (u : Use) (lane : Bool) (t : TrapCtx) : State :=
  if c.f.exiting then s.exitOverrun c
  else if c.j.kernel || c.draining then s.raise c.f.ref t
  else
    let (tok, s1) := s.nextSerial
    let pc := if lane then (match c.f.queue with | [] => c.f.lpc | q :: _ => q.addr) else c.f.spc
    let s2 := s1.setFrag { c.f with slot := .parked (.page tok t), parkedAt := s.parkTime c.f, seen := [] }
    s2.modDie c.g.die (fun d =>
      { d with fq := d.fq.post (faultEntry c p va pc (if lane then 0 else 1) u [.frag c.f.ref tok]) })

/-- A page fault of a scalar instruction. -/
def State.pageScalar (s : State) (c : Cur) (p : PageFault) (va : Word64) (u : Use) : State :=
  s.pageWait c p va u false (c.f.scalarTrap fltPage p.cause va)

/-- A page fault of the lane instruction at the head of the queue. -/
def State.pageLane (s : State) (c : Cur) (lanes : Word64) (p : PageFault) (va : Word64) (u : Use) : State :=
  s.pageWait c p va u true (c.f.laneTrap fltPage p.cause va lanes)

/-! ## Posted stores before a memory access (R164) -/

/-- The imprecise trap of a killed posted store, at the instruction that waited for it (R164, R232). -/
def Frag.storeTrap (f : Frag) (p : Posted) : TrapCtx :=
  let cf := match p.fault with | some (_, cause, va) => (cause ||| 0x80, va) | none => (0x80, 0)
  { addr := if p.lane then f.spc else p.pc, lpc := if p.lane then p.pc else f.traplpc, faddr := cf.2
    lanes := if p.lane then p.lanes else f.exec, cause := causeWord p.lane false cf.1 fltPage, retry := f.here, skip := f.here }

/-- The fragment waits for its posted stores: a killed one traps, a faulted one parks, others stall (R164). -/
def State.storeWait (s : State) (c : Cur) : State :=
  match c.f.posted.find? (fun p => p.killed) with
  | some p =>
    let f1 := { c.f with posted := c.f.posted.filter (fun q => !(q == p)) }
    (s.setFrag f1).raise c.f.ref (f1.storeTrap p)
  | none =>
    if c.f.posted.any (fun p => p.fault.isSome) then
      s.setFrag { c.f with slot := .parked .store, parkedAt := s.parkTime c.f }
    else s

/-- Whether a store that the fragment's parent posted before its SPLIT is still to be performed (R28). -/
def State.behindStores (s : State) (f : Frag) : Bool :=
  f.behind.any (fun n => s.frags.any (fun x => x.posted.any (fun p => p.id == n && !p.killed))
    || s.wgs.any (fun g => g.orphans.any (fun p => p.2.id == n)))

/-- Runs an access once the fragment's posted stores have translated (R164). -/
def State.afterStores (s : State) (c : Cur) (k : State) : State :=
  if !c.f.posted.isEmpty then s.storeWait c else if s.behindStores c.f then s else k

/-! ## Scalar instructions -/

/-- What a scalar instruction names and needs: registers of its allotment, registers and masks it reads, whether it
is kernel-only (R43), has an entry in R74, is a LISSUE, or waits for the posted stores (R164, R281). `bad` is a value out of
its range (R46). -/
structure Scalar where
  regs : List (BitVec 6) := []
  reads : List (BitVec 6) := []
  masks : List (BitVec 3) := []
  kernelOnly : Bool := false
  exitOk : Bool := false
  issue : Bool := false
  mem : Bool := false
  bad : Cur → Option (BitVec 8) := fun _ => none
  priv : Cur → Bool := fun _ => false

/-- The first check of R46 and R249 that fails, as fault and SUB. -/
def Scalar.check (q : Scalar) (c : Cur) : Option (BitVec 8 × BitVec 8) :=
  if q.regs.any (fun r => decide (roleSregs c.role ≤ r.toNat)) then some (fltIllegal, 0x03)
  else
    match q.bad c with
    | some sub => some (fltIllegal, sub)
    | none =>
      if (q.kernelOnly && !c.j.kernel) || q.priv c then some (fltPriv, 0)
      else if q.reads.any c.f.sPoisoned then some (fltPoison, 0x01)
      else if q.masks.any (fun m => c.w.mPoisoned m.toNat c.f.exec) then some (fltPoison, 0x03)
      else none

/-- REP misuse: the REP is discarded, and the instruction after it traps (R64). -/
def State.repMisuse (s : State) (c : Cur) : State :=
  let f := { c.f with rep := none }
  (s.setFrag f).trapScalar { c with f := f } fltIllegal 0x08

/-- A scalar instruction's course: REP misuse (R64), the exit routine's rule (R245), the wait for posted stores (R164), the
checks at issue, its effect. -/
def scalarRun (s : State) (q : Scalar) (eff : Cur → State) : Out :=
  match s.current with
  | none => .fault .noFragment
  | some c =>
    if c.f.rep.isSome && !q.issue then .next (if q.mem then s.afterStores c (s.repMisuse c) else s.repMisuse c)
    else if c.f.exiting && !q.exitOk then .next (s.exitOverrun c)
    else
      let issue := match q.check c with | some (flt, sub) => s.trapScalar c flt sub | none => eff c
      .next (if q.mem then s.afterStores c issue else issue)

/-- The fragment at its next scalar instruction. -/
def Frag.next (f : Frag) : Frag := { f with spc := f.spc + 4 }

/-- A register-only scalar effect: the destination and the next instruction. -/
def State.putS (s : State) (c : Cur) (d : BitVec 6) (v : Word64) : State := s.setFrag (c.f.setS d v).next

/-! ## Lane instructions -/

/-- The lane queue past its head instruction, or the current repeat of it (R64, R65, R240). -/
def Frag.laneNext (f : Frag) : Frag :=
  match f.queue with
  | [] => f
  | q :: qs =>
    if 1 < q.left then
      { f with queue := { q with left := q.left - 1 } :: qs
               rptc := (0#41 ++ BitVec.ofNat 7 (q.left - 1) ++ 0#2 ++ q.rep) }
    else if q.left = 1 then { f with queue := qs, rptc := (0#41 ++ 0#7 ++ 0#2 ++ q.rep) }
    else { f with queue := qs }

/-- The fragment once that instruction or repeat is complete in all its lanes. -/
def Frag.laneDone (f : Frag) : Frag := { f.laneNext with flight := none, seen := [] }

/-- RPTC as a repeat begins (R65). -/
def Frag.laneBegin (f : Frag) : Frag :=
  match f.queue with
  | q :: _ => if q.left = 0 then f else { f with rptc := (0#41 ++ BitVec.ofNat 7 q.left ++ 0#2 ++ q.rep) }
  | [] => f

/-- Completes the lane instruction: the wave and fragment as it left them, the workgroup's progress (R240). -/
def State.laneEnd (s : State) (c : Cur) (w : Wave) (f : Frag) : State :=
  ((s.setWave w).setFrag f.laneDone).modWg c.g.ref (fun g => { g with done := g.done + 1 })

/-- The lane rows of R74's table: opcodes, and the cycles of their entry. -/
def exitRows : List (List Nat × Nat) :=
  [([0x000, 0x001, 0x007, 0x008, 0x009, 0x010, 0x011, 0x012, 0x013, 0x014, 0x015], 4), ([0x018, 0x019, 0x01A, 0x01B, 0x01C, 0x01D], 4)]
    ++ [([0x020, 0x021, 0x022, 0x023, 0x024], 4), ([0x002, 0x003, 0x004], 6), ([0x005, 0x006], 40)]
    ++ [([0x100, 0x101, 0x102, 0x103, 0x104, 0x105, 0x106, 0x107], 6), ([0x10A, 0x10B, 0x10C, 0x10D], 16), ([0x10E, 0x10F, 0x110], 24)]
    ++ [([0x108, 0x109], 32), ([0x120, 0x121, 0x122, 0x123], 8), ([0x290, 0x291, 0x292, 0x293, 0x294, 0x295], 2), ([0x296], 4)]
    ++ [([0x280, 0x281, 0x282], 8), ([0x283, 0x284], 16), ([0x2C4], 16), ([0x204], 32), ([0x201, 0x203], 16)]

/-- The cycles of a lane opcode's entry in R74. -/
def exitCycles (op : BitVec 10) : Option Nat := (exitRows.find? (fun r => r.1.contains op.toNat)).map (fun r => r.2)

/-- Lane opcodes with an entry in R74; stores are checked where they store (R245). -/
def exitLane (op : BitVec 10) : Bool := (exitCycles op).isSome

/-- A lane instruction as it issues: its surroundings, fields, captured operands and active lanes (R51). -/
structure Lane where
  c : Cur
  f : LaneOps
  q : QEntry
  act : Word64
  width : Nat
  deriving DecidableEq, Repr

/-- The active lanes, ascending. -/
def Lane.lanes (x : Lane) : List Nat := lanesOf x.width x.act

/-- A lane instruction's course: the exit routine's rule (R245), the poison of its mask select (R249), then `poison`
(the SUB of R237 for a poisoned operand), then its effect; `mem` marks one that waits for the posted stores first (R164). -/
def laneRun (s : State) (op : BitVec 10) (f : LaneOps) (poison : Lane → Option (BitVec 8)) (eff : State → Lane → State)
    (mem : Bool := false) : Out :=
  match s.current with
  | none => .fault .noFragment
  | some c0 =>
    let c := { c0 with f := c0.f.laneBegin }
    let x : Lane := { c := c, f := f, q := s.issue, act := c.active f.msel, width := c.j.width }
    let s1 := s.setFrag c.f
    if c.f.exiting && !exitLane op then .next (s1.exitOverrun c)
    else
      let issue :=
        if c.w.mPoisoned f.msel.toNat c.f.exec then s1.trapLane c x.act fltPoison 0x03
        else match poison x with | some sub => s1.trapLane c x.act fltPoison sub | none => eff s1 x
      .next (if mem then s1.afterStores c issue else issue)

/-! ## Slots (R33) -/

/-- A parked fragment's wake: READY, park time cleared. -/
def Frag.wake (f : Frag) : Frag := { f with slot := .ready, parkedAt := 0 }

/-- A real wake of a job's wave restarts the park timer and lets its denied workgroups be tried again (R36, R37). -/
def State.noteWake (s : State) (j : JobRef) : State :=
  s.modJob j (fun x => { x with denied := [], noEvict := false, lastWake := s.cycle })

/-- Wakes the parked fragments of a job that a test accepts, each going on as `go` says (R33, R36). -/
def State.wakeIf (s : State) (j : JobRef) (test : Frag → Bool) (go : Frag → Frag) : State :=
  if s.frags.any test then ({ s with frags := s.frags.map (fun f => if test f then go f.wake else f) } : State).noteWake j else s

/-- Parks the issuing fragment. -/
def State.park (s : State) (c : Cur) (p : Park) : State :=
  s.setFrag { c.f with slot := .parked p, parkedAt := s.parkTime c.f }

/-- A fragment goes on at a return point (R232); one that had started from a freeze point there does not stop at it again (R254). -/
def Frag.goTo (f : Frag) (r : RetPoint) : Frag :=
  { f with spc := r.spc, lpc := r.lpc, queue := r.queue, lissue := r.lissue, rep := r.rep, passPoint := r.passPoint, slot := .ready, parkedAt := 0 }

end Sys2Proof.Machine
end

