-- ==== Sys2Proof/Machine/Log.lean ====
section
/-! DEFINITION. The replay log of a job (R257): results that depend on interleaving are appended in record mode and
taken from the log in replay mode. -/

namespace Sys2Proof.Machine

open Sys2Proof

/-- A result: its lane (0 for a scalar result, log 13), its KIND and its value. -/
structure Logged where
  lane : Nat
  kind : Nat
  value : Word64
  deriving DecidableEq, Repr

/-- The upper half of a log entry: WAVEID, FRAG, LANE, KIND, 0 (R257). -/
def Logged.tag (e : Logged) (c : Cur) : BitVec 64 :=
  waveid c.w.ref ++ BitVec.ofNat 2 c.f.ref.frag ++ BitVec.ofNat 6 e.lane ++ BitVec.ofNat 8 e.kind ++ 0#16

/-- Freezes a workgroup before a fragment's instruction issues: the fragment stands at its point, and the workgroup's trap records are
withdrawn, as at every freeze (R242, R254, R257). -/
def State.freezeAt (s : State) (c : Cur) : State :=
  ((s.modWg c.g.ref (fun x => { x with frozen := true })).withdrawTraps c.g.ref).setFrag
    { c.f with slot := .parked .trap, parkedAt := s.cycle, steps := none, seen := [] }

/-- Writes entries one after another from a physical address (log 12). -/
def writeLog (c : Cur) : Sparse 8 → Nat → List Logged → Sparse 8
  | m, _, [] => m
  | m, a, e :: es => writeLog c (m.setBytes a 16 (e.tag c ++ e.value).toNat) (a + 16) es

/-- Reads as many values as entries wanted; none where a tag differs. -/
def readLog (c : Cur) (m : Sparse 8) : Nat → List Logged → Option (List Word64)
  | _, [] => some []
  | a, e :: es =>
    if BitVec.ofNat 64 (m.bytesNat (a + 8) 8) = e.tag c then
      (readLog c m (a + 16) es).map (BitVec.ofNat 64 (m.bytesNat a 8) :: ·)
    else none

/-- The entries that an instruction's first lane performed ahead of the others has kept for it: where they stand, while the job's log is in the mode
it was in then (R257). -/
def Cur.logKept (c : Cur) : Option Nat :=
  match c.f.flight.bind (fun fl => fl.log) with | some (m, a) => if m = c.j.log.mode then some a else none | none => none

/-- Where the entries of a fragment's instruction stand. -/
def Cur.logAt (c : Cur) : Nat := c.logKept.getD (c.j.log.area.toNat + 16 * c.j.log.next)

/-- Whether its `n` entries have room in the area. -/
def Cur.logRoom (c : Cur) (n : Nat) : Bool := c.logKept.isSome || decide (16 * (c.j.log.next + n) ≤ c.j.log.bytes.toNat)

/-- The job's log past an instruction's `n` entries. -/
def State.logPast (s : State) (c : Cur) (n : Nat) : State :=
  if c.logKept.isSome then s else s.modJob c.j.ref (fun x => { x with log := { x.log with next := x.log.next + n } })

/-- What the log holds for an instruction, where it has room and does not differ. -/
def State.logRead (s : State) (c : Cur) (es : List Logged) : Option (List Word64) :=
  if c.logRoom es.length then readLog c s.mem c.logAt es else none

/-- Writes the entries of an instruction where they stand. -/
def State.logWrite (s : State) (c : Cur) (es : List Logged) : State :=
  { s with mem := writeLog c s.mem c.logAt es
           reservations := s.reservations.filter (fun x => !decide (c.logAt / 128 ≤ x.2 ∧ x.2 ≤ (c.logAt + 16 * es.length) / 128)) }

/-- Whether lanes of an instruction may be performed ahead of the others under the job's log: with the results that the log holds in replay,
as they are elsewhere; none where the log is full or differs, since the workgroup freezes before such an instruction issues (R168, R257). -/
def State.logAhead (s : State) (c : Cur) (es : List Logged) : Option (Option (List Word64)) :=
  if c.j.log.mode = 1 then (if c.logRoom es.length then some none else none)
  else if c.j.log.mode = 2 then (s.logRead c es).map some
  else some none

/-- The first lane performed ahead keeps the entries of its instruction, so that the log is not full when the rest of it is performed; here their mode
and place. -/
def Cur.logKeep (c : Cur) : Option (BitVec 2 × Nat) :=
  if c.j.log.mode = 1 ∨ c.j.log.mode = 2 then some (c.j.log.mode, c.logAt) else none

/-- Runs an instruction whose results the log holds: `k` gets the results, as computed or as logged. Where the log is
full, or differs, the workgroup freezes before the instruction issues (R257). -/
def State.logged (s : State) (c : Cur) (es : List Logged) (k : State → List Word64 → State) : State :=
  let full : State := (s.modJob c.j.ref (fun x => { x with log := { x.log with full := true } })).freezeAt c
  if c.j.log.mode = 1 then
    (if c.logRoom es.length then k ((s.logPast c es.length).logWrite c es) (es.map (·.value)) else full)
  else if c.j.log.mode = 2 then
    match s.logRead c es with
    | some vs => k (s.logPast c es.length) vs
    | none => full
  else k s (es.map (·.value))

end Sys2Proof.Machine
end

