-- ==== Sys2Proof/Machine/Waits.lean ====
section
/-! DEFINITION. What fragments wait on and what wakes them: constellation barriers (R188, R189), the baton (R29), event
tokens and AWAIT (R191 to R194), and the join stack's merges and the end of fragments and waves (R25, R26). -/

namespace Sys2Proof.Machine

open Sys2Proof

/-! ## Copy-template fields (R181) -/

def tmplBytes (t : BitVec 512) : Nat := (t.extractLsb' 224 32).toNat
def tmplBarrier (t : BitVec 512) : BitVec 8 := t.extractLsb' 142 8
def tmplBaren (t : BitVec 512) : Bool := t.getLsbD 141
def tmplColl (t : BitVec 512) : Bool := t.getLsbD 126
def tmplGroup (t : BitVec 512) : Nat := (t.extractLsb' 118 8).toNat
/-- Chunks of a command: 512 bytes each, the last one shorter (R183). -/
def tmplChunks (t : BitVec 512) : Nat := (tmplBytes t + 511) / 512
/-- The bytes of chunk `i`. -/
def chunkSize (t : BitVec 512) (i : Nat) : Nat := min 512 (tmplBytes t - 512 * i)
/-- The bytes of a command that have not landed. -/
def Cmd.unlanded (c : Cmd) : Nat :=
  (((List.range (tmplChunks c.tmpl)).filter (fun i => !c.landed.contains i)).map (chunkSize c.tmpl)).sum

/-! ## Event slots -/

/-- Sets a slot's PEV bit, with the information of the firing (R192). -/
def Wave.fire (w : Wave) (n : Nat) (info : Word64) : Wave :=
  { w with pev := w.pev ||| (1#16 <<< n)
           evslots := w.evslots.zipIdx.map (fun p => if p.2 = n then { p.1 with info := info } else p.1) }

/-- The slots that are armed, as bits. -/
def Wave.armed (w : Wave) : BitVec 16 :=
  w.evslots.zipIdx.foldl (fun acc p => if p.1.armed then acc ||| (1#16 <<< p.2) else acc) 0

/-- Fires every armed slot of a wave that a test accepts. -/
def Wave.fireIf (w : Wave) (test : EvSlot → Bool) (info : Word64) : Wave :=
  w.evslots.zipIdx.foldl (fun acc p => if p.1.armed && test p.1 then acc.fire p.2 info else acc) w

/-- The lowest set bit of a slot list; 16 where none is set. -/
def lowestSlot (r : BitVec 16) : Nat := ((List.range 16).find? (fun i => r.getLsbD i)).getD 16

/-- What a parked AWAIT waits on, and since when. -/
def Frag.awaits (f : Frag) : Option (BitVec 16 × Nat) :=
  match f.slot with | .parked (.await l o) => some (l, o) | _ => none

/-- AWAIT resumes at the lowest pending slot of its list: its bit clears, the fragment gets EVSLOT and EVINFO and
continues at the handler (R193). Both are results of the log (R257). -/
def State.resumeAwait (s : State) (c : Cur) (r : BitVec 16) : State :=
  let info (n : Nat) : Word64 := match c.w.evslots[n]? with | some e => e.info | none => 0
  let n := lowestSlot r
  s.logged c [{ lane := 0, kind := 6, value := BitVec.ofNat 64 n }, { lane := 0, kind := 7, value := info n }]
    (fun s1 vs =>
      let m := (vs.headD 0).toNat
      let handler := match c.w.evslots[m]? with | some e => e.handler | none => c.f.spc
      let f1 := match c.f.slot with | .parked _ => c.f.wake | _ => c.f
      (s1.setWave { c.w with pev := c.w.pev &&& ~~~(1#16 <<< m) }).setFrag
        { f1 with evslot := BitVec.ofNat 64 m, evinfo := vs.getD 1 0, spc := handler })

/-- The parked fragment of a wave that came to AWAIT first among those with a pending unmasked slot (R193). -/
def State.firstAwait (s : State) (w : Wave) : Option (Frag × BitVec 16) :=
  s.frags.foldl (fun best f =>
    match f.awaits with
    | none => best
    | some (l, o) =>
      let r := w.pev &&& l &&& w.armed &&& ~~~w.evmask
      if f.ref.wave != w.ref || r == 0 then best
      else
        match best with
        | none => some (f, r)
        | some (g, q) =>
          match g.awaits with
          | some (_, o2) => if o < o2 then some (f, r) else some (g, q)
          | none => some (f, r)) none

/-- Lets parked AWAITs of a wave resume, one pending slot after another (R193). -/
def State.wakeAwaits (s : State) (w : WaveRef) : Nat → State
  | 0 => s
  | n + 1 =>
    match s.wave? w with
    | none => s
    | some x =>
      match s.firstAwait x with
      | none => s
      | some (f, r) =>
        match s.look f.ref with
        | none => s
        | some c => ((s.resumeAwait c r).noteWake w.wg.job).wakeAwaits w n

/-- A parked AWAIT none of whose listed slots is armed any longer faults with SUB 0x0B, at the AWAIT itself (R289). -/
def State.failAwaits (s : State) (w : WaveRef) : State :=
  match s.wave? w with
  | none => s
  | some x =>
    s.frags.foldl (fun acc f =>
      match f.awaits with
      | some (l, _) =>
        if f.ref.wave == w && (l &&& x.armed) == 0 then
          acc.raise f.ref { f.scalarTrap fltIllegal 0x0B 0 with skip := f.here }
        else acc
      | none => acc) s

/-- Settles the parked AWAITs of a wave after a change of PEV, EVMASK or the armed slots (R193, R289). -/
def State.settle (s : State) (w : WaveRef) : State :=
  (s.failAwaits w).wakeAwaits w 16

/-- Fires slots of every wave of a workgroup's job that a test accepts, and settles them. -/
def State.fireWaves (s : State) (pick : Wave → Bool) (test : EvSlot → Bool) (info : Word64) : State :=
  let refs := (s.waves.filter pick).map (·.ref)
  let s1 := { s with waves := s.waves.map (fun w => if pick w then w.fireIf test info else w) }
  refs.foldl (fun acc r => acc.settle r) s1

/-! ## Barriers -/

/-- The barrier of a constellation whose entry is used (R30, R188). -/
def Job.barrier? (j : Job) (k : BitVec 8) : Option Barrier := j.barriers.find? (fun b => b.k == k)

/-- Replaces a barrier of a job. -/
def State.setBarrier (s : State) (j : JobRef) (b : Barrier) : State :=
  s.modJob j (fun x => { x with barriers := x.barriers.map (fun y => if y.k = b.k then b else y) })

/-- A wave's membership of a constellation (R32). -/
def Wave.member? (w : Wave) (k : BitVec 8) : Option Member := w.members.find? (fun m => m.con == k)

/-- Whether a wave of a job is a member. -/
def Wave.inCon (w : Wave) (j : JobRef) (k : BitVec 8) : Bool := w.ref.wg.job == j && (w.member? k).isSome

/-- Changes a wave's membership. -/
def Wave.setMember (w : Wave) (k : BitVec 8) (h : Member → Member) : Wave :=
  { w with members := w.members.map (fun m => if m.con = k then h m else m) }

/-- Clears every arrival flag of a constellation. -/
def State.clearArrivals (s : State) (j : JobRef) (k : BitVec 8) : State :=
  { s with waves := s.waves.map (fun w => if w.inCon j k then w.setMember k (fun m => { m with arrived := false }) else w) }

/-- Wakes the fragments parked in BARWAIT on a phase that has completed: each continues after its BARWAIT (R189). -/
def State.wakeBarrier (s : State) (j : JobRef) (k : BitVec 8) (phase : BitVec 32) : State :=
  s.wakeIf j (fun f => f.slot = .parked (.barwait k) && f.ref.wave.wg.job == j
    && (match (s.wave? f.ref.wave).bind (fun w => w.member? k) with
        | some m => !((phase - m.target).slt 0)
        | none => false)) Frag.next

/-- Check completion (R189): a phase that has counted every member and every byte completes. -/
def State.checkBarrier (s : State) (j : JobRef) (k : BitVec 8) : State :=
  match (s.job? j).bind (fun x => x.barrier? k) with
  | none => s
  | some b =>
    if decide (0 < b.arrived) && b.arrived == b.expect && b.pending == 0 then
      let phase := b.phase + 1
      let s1 := (s.setBarrier j { b with phase := phase, arrived := 0 }).clearArrivals j k
      (s1.wakeBarrier j k phase).fireWaves (fun w => w.inCon j k)
        (fun e => e.kind == 0 && e.arg.extractLsb' 0 8 == k) (phase.setWidth 64)
    else s

/-- Breaks a barrier: the BARWAITs parked on it fault with SUB 0x03 (R189). -/
def State.breakBarrier (s : State) (j : JobRef) (b : Barrier) : State :=
  let s1 := s.setBarrier j { b with broken := true }
  s1.frags.foldl (fun acc f =>
    if f.slot = .parked (.barwait b.k) && f.ref.wave.wg.job == j then
      acc.raise f.ref (f.scalarTrap fltBarrier 0x03 0)
    else acc) s1

/-- A copy's subtraction from the pending bytes (R183, R189). -/
def State.subtractBytes (s : State) (j : JobRef) (k : BitVec 8) (n : Nat) : State :=
  match (s.job? j).bind (fun x => x.barrier? k) with
  | none => s
  | some b =>
    if b.pending - n < -(2 ^ 31) then s.breakBarrier j b
    else (s.setBarrier j { b with pending := b.pending - n }).checkBarrier j k

/-- A member wave's leaving at its end (R32, R189). -/
def State.leaveBarrier (s : State) (w : WaveRef) (m : Member) : State :=
  let j := w.wg.job
  match (s.job? j).bind (fun x => x.barrier? m.con) with
  | none => s
  | some b =>
    let gone := if m.arrived then 1 else 0
    ((s.modWave w (fun x => x.setMember m.con (fun y => { y with arrived := false }))).setBarrier j
      { b with arrived := b.arrived - gone, expect := b.expect - 1 }).checkBarrier j m.con

/-- Subtracts what a command has not landed from its barrier (R185). -/
def State.dropBytes (s : State) (c : Cmd) : State :=
  if tmplBaren c.tmpl then s.subtractBytes c.wg.job (tmplBarrier c.tmpl) c.unlanded else s

/-! ## The baton (R29) -/

/-- Whether a wave's role is in baton mode. -/
def Cur.batonMode (c : Cur) : Bool := roleBaton c.role

/-- The waves of a role of a workgroup that have not ended, ascending. -/
def State.ring (s : State) (g : WgRef) (role : Nat) : List Nat :=
  (List.range 32).filter (fun i => s.waves.any (fun w => w.ref == { wg := g, wave := i } && w.role == role && !w.ended))

/-- The next wave of the ring after index `i`, wrapping past it; none once every wave of the ring has ended. -/
def nextHolder (ring : List Nat) (i : Nat) : Option Nat :=
  match ring.find? (fun x => decide (i < x)) with
  | some x => some x
  | none => ring.head?

/-- Gives the baton on: the next holder's parked TAKEs continue and its baton tokens fire (R29, R191). -/
def State.passBaton (s : State) (g : WgRef) (i role : Nat) : State :=
  match nextHolder (s.ring g role) i with
  | none => s.modWg g (fun x => { x with baton := x.baton.filter (· != i) })
  | some n =>
    let w : WaveRef := { wg := g, wave := n }
    let s1 := s.modWg g (fun x => { x with baton := x.baton.filter (· != i) ++ [n] })
    let s2 := s1.wakeIf g.job (fun f => f.ref.wave == w && f.slot == Slot.parked Park.baton) Frag.next
    s2.fireWaves (fun x => x.ref == w) (fun e => e.kind == 7) 0

/-! ## Level and address tokens (R191, R192, R217) -/

/-- The pool a handle names, alive and of its generation (R206, R207). -/
def State.poolOf (s : State) (h : Word64) : Option Pool :=
  match s.pool? (h.extractLsb' 0 6).toNat with
  | some p => if p.live && p.gen == h.extractLsb' 16 16 then some p else none
  | none => none

/-- A wave's home shard (R205). -/
def Pool.home (p : Pool) (die : Nat) : Option Shard :=
  match p.shards.find? (fun h => h.die == die) with
  | some h => some h
  | none => p.shards.head?

/-- The non-empty condition: an element in the home shard, or reported by the latest summary of another (R217). -/
def Pool.seesElement (p : Pool) (die : Nat) : Bool :=
  match p.home die with
  | none => false
  | some h => !h.elems.isEmpty || h.summaries.any (fun x => decide (0 < x.2.1))

/-- The word or pointer pair a token watches; none where it does not translate. -/
def State.tokenWord (s : State) (w : Who) (g : Wg) (e : EvSlot) : Option Word64 :=
  let loc := if e.kind != 1 && e.arg.getLsbD 63 then s.locScratch w g (e.arg.extractLsb' 0 19).toNat .read
    else s.locGlobal w e.arg .read
  match loc with
  | .error _ => none
  | .ok l => some (BitVec.ofNat 64 (s.readLoc w g l 8))

/-- HEAD − TAIL of a pointer pair (R182). -/
def pairCount (v : Word64) : BitVec 32 := v.extractLsb' 0 32 - v.extractLsb' 32 32

/-- Evaluates one armed slot: whether it fires now, with what information, and its new reference value. -/
def State.evalSlot (s : State) (w : Who) (g : Wg) (x : Wave) (e : EvSlot) : Option (Word64 × Word64) :=
  if !e.armed then none
  else
    match e.kind.toNat with
    | 1 =>
      match s.tokenWord w g e with
      | some v => if v &&& e.arg2 = e.arg2 then some (v, e.val) else none
      | none => none
    | 2 =>
      match s.tokenWord w g e with
      | some v => if pairCount v ≠ 0 then some ((pairCount v).setWidth 64, e.val) else none
      | none => none
    | 3 =>
      if e.arg.getLsbD 8 then none
      else
        match s.poolOf e.arg with
        | some p => if p.seesElement g.die then some (0, e.val) else none
        | none => none
    | 4 =>
      match s.tokenWord w g e with
      | some v => if v ≠ e.val then some (v, v) else none
      | none => none
    | 7 => if g.baton.contains x.ref.wave then some (0, e.val) else none
    | _ => none

/-- Whether a token is a level token (R191). -/
def EvSlot.level (e : EvSlot) : Bool :=
  e.kind == 1 || e.kind == 2 || (e.kind == 3 && !e.arg.getLsbD 8) || e.kind == 7

/-- Evaluates the level and address tokens of a wave: a level token fires while its PEV bit is clear, an address
token at each change (R192). -/
def State.evalWave (s : State) (w : Who) (g : Wg) (x : Wave) : Wave :=
  x.evslots.zipIdx.foldl (fun acc p =>
    match s.evalSlot w g x p.1 with
    | none => acc
    | some (info, val) =>
      if p.1.level && acc.pev.getLsbD p.2 then acc
      else
        let a := acc.fire p.2 info
        { a with evslots := a.evslots.zipIdx.map (fun q => if q.2 = p.2 then { q.1 with val := val } else q.1) }) x

/-- Evaluates the tokens of a wave on a core and settles its AWAITs; those of a saved one wait for its resume (R194). -/
def State.refreshWave (s : State) (r : WaveRef) : State :=
  match s.wave? r, s.wg? r.wg, s.job? r.wg.job with
  | some x, some g, some j =>
    if g.die < 4 && x.evslots.any (·.armed) then
      (s.setWave (s.evalWave { job := j.ref, s1root := j.s1root, kernel := j.kernel, wg := some g.ref, scalar := true } g x)).settle r
    else s
  | _, _, _ => s

/-- Evaluates every wave's tokens, after a step (R192). -/
def State.refresh (s : State) : State := (s.waves.map (·.ref)).foldl (fun acc r => acc.refreshWave r) s

/-! ## Joins (R24 to R26) -/

/-- Fragments of a wave. -/
def State.fragsOf (s : State) (w : WaveRef) : List Frag := s.frags.filter (fun f => f.ref.wave == w)

/-- The posted stores a fragment leaves at its end: killed ones are gone, faulted ones translate once more, by a fresh walk (R164). -/
def Frag.leaves (f : Frag) : List (FragRef × Posted) :=
  (f.posted.filter (fun p => !p.killed)).map (fun p => (f.ref, { p with fault := none, afresh := p.afresh || p.fault.isSome }))

/-- Gives back the frame of a fragment, where it has one (R239, R309). -/
def State.releaseFrame (s : State) (f : Frag) : State :=
  match f.frame with
  | none => s
  | some n =>
    (s.modPart f.ref.wave.wg.job.part (fun p => { p with frames := p.frames.filter (· != n) })).modWg f.ref.wave.wg
      (fun g => { g with frames := g.frames.filter (· != n) })

/-- Frees a fragment's slot at its end (R26, R33): a wave still counts on its core until its workgroup retires (R18, R38; log 91). Its frame is
released, its posted stores stay to be performed or dropped. -/
def State.freeFrag (s : State) (f : Frag) : State :=
  (({ s with frags := s.frags.filter (fun x => x.ref != f.ref) } : State).releaseFrame f).modWg f.ref.wave.wg (fun g =>
    { g with orphans := g.orphans ++ f.leaves })

/-- Whether a command is a collective on a group. -/
def Cmd.isColl (c : Cmd) (part group : Nat) : Bool :=
  c.wg.job.part == part && tmplColl c.tmpl && tmplGroup c.tmpl == group

/-- How many collective commands a group counts is changed (R269). -/
def State.countGroup (s : State) (part group : Nat) (f : Nat → Nat) : State :=
  s.modPart part (fun p =>
    { p with groups := p.groups.map (fun g => if g.num = group then { g with count := f g.count } else g) })

/-- A discarded collective command does not count: those after it on its group move up (R269). -/
def State.uncount (s : State) (c : Cmd) : State :=
  if tmplColl c.tmpl then
    let part := c.wg.job.part
    let n := tmplGroup c.tmpl
    let s1 := s.countGroup part n (· - 1)
    { s1 with cmds := s1.cmds.map (fun x =>
        if x.isColl part n && decide (c.nth < x.nth) then { x with nth := x.nth - 1 } else x) }
  else s

/-- Discards the unfired commands of a workgroup (R185, R247): one that waited for the verdict on its read of a pointer pair waits for it no
more, and has its completion word. Each fold step reads the command as it then stands. -/
def State.discardUnfired (s : State) (g : WgRef) (sub : BitVec 8) : State :=
  (s.cmds.filter (fun c => c.wg == g && !c.fired && c.error.isNone)).foldl
    (fun acc c =>
      match acc.cmd? c.id with
      | none => acc
      | some x => ((acc.setCmd { x with error := some (0x00, sub), fault := none }).dropBytes x).uncount x) s

/-- The end of a wave: event slots disarmed, the baton passed on, its constellations left, and with the last wave of
the workgroup its unfired commands discarded (R26, R29, R32, R185, R309). -/
def State.endWave (s : State) (r : WaveRef) : State :=
  match s.wave? r with
  | none => s
  | some w =>
    let s1 := s.setWave { w with ended := true, pev := 0, evslots := w.evslots.map (fun e => { e with armed := false }) }
    let holds := match s.wg? r.wg with | some g => g.baton.contains r.wave | none => false
    let s2 := if holds then s1.passBaton r.wg r.wave w.role else s1
    let s3 := w.members.foldl (fun acc m => acc.leaveBarrier r m) s2
    if s3.waves.all (fun x => x.ref.wg != r.wg || x.ended) then s3.discardUnfired r.wg 0x01 else s3

/-- Renames a partner in a join stack. -/
def renamePartner (was is : Nat) (js : List JoinEntry) : List JoinEntry :=
  js.map (fun e => if e.partner = was && (e.kind == .parent || e.kind == .detached) then { e with partner := is } else e)

/-- What the partner of an ended fragment follows in program order after the merge (R28, R177): its FFLAGS, its posted stores and those
it stood behind, its commands and its writes on their way, its last EFENCE and its last at system scope. -/
structure Ended where
  flags : BitVec 7
  behind : List Nat
  cmds : List Nat
  fenced : Nat
  sysFenced : Nat
  deriving DecidableEq, Repr

/-- What an ending fragment leaves to the merge. -/
def State.endedOf (s : State) (f : Frag) : Ended :=
  { flags := f.fflags, behind := f.behind ++ f.posted.map (fun p => p.id)
    cmds := (s.cmds.filter (fun x => x.wg == f.ref.wave.wg && x.wave == f.ref.wave.wave && x.owners.contains f.ref.frag)).map
      (fun x => x.id) ++ (s.remote.filter (fun h => h.isOf f.ref)).filterMap (fun h => h.src)
    fenced := f.fenced, sysFenced := f.sysFenced }

/-- Marks the topmost entry that waits for partner `i` as having none. -/
def dropPartner (i : Nat) (x : Ended) : List JoinEntry → List JoinEntry
  | [] => []
  | e :: es =>
    if e.kind == .parent && e.partner == i then 
      { e with partner := 4, flags := x.flags, behind := x.behind, cmds := x.cmds, fenced := x.fenced, sysFenced := x.sysFenced } :: es
    else e :: dropPartner i x es

/-- A fragment stands in the program order behind engine commands and writes on their way (R28, R177, R186). -/
def State.ownCmds (s : State) (r : FragRef) (ids : List Nat) : State :=
  let own (os : List Nat) : List Nat := if os.contains r.frag then os else os ++ [r.frag]
  { s with cmds := s.cmds.map (fun (x : Cmd) => if ids.contains x.id then { x with owners := own x.owners } else x)
           remote := s.remote.map (fun (h : Held) => if h.src.any ids.contains then { h with owners := own h.owners } else h) }

/-- A fragment follows, from a merge on, the EFENCEs of both sides, `n` the last and `m` the last at system scope: what was read before one of
them counts for no later command, of host and peer memory at system scope only, and for no later load (R28, R172, R177). -/
def Frag.afterFence (f : Frag) (n m : Nat) : Frag :=
  { f with fenced := max f.fenced n, sysFenced := max f.sysFenced m
           snaps := f.snaps.filter (fun x => decide ((if x.2.1 then m else n) ≤ x.1))
           peeks := f.peeks.filter (fun x => decide (m ≤ x.1)) }

/-- A fragment whose top entry's partner has ended merges alone: the entry is popped, and what the partner did comes first
(R25, R26, R28, R69). -/
def Frag.mergeAlone (f : Frag) (e : JoinEntry) (es : List JoinEntry) : Frag :=
  { f with join := es, fflags := f.fflags ||| e.flags, behind := f.behind ++ e.behind }.afterFence e.fenced e.sysFenced

/-- Whether a fragment is parked at the RECONV of its top entry, which has no partner left. -/
def Frag.waitsAlone (f : Frag) : Bool :=
  match f.slot, f.join with
  | .parked (.reconv k), e :: _ => e.token == k && e.partner == 4 && (e.kind == .parent || e.kind == .detached)
  | _, _ => false

/-- A fragment parked at the RECONV of its top entry, which has no partner left, goes on past it (R26). -/
def State.pastReconv (s : State) (r : FragRef) : State :=
  match s.frag? r with
  | none => s
  | some f =>
    match f.join with
    | e :: es =>
      if f.waitsAlone then ((s.setFrag (f.wake.next.mergeAlone e es)).ownCmds r e.cmds).noteWake r.wave.wg.job else s
    | [] => s

/-- The stack of a partner that takes over a parent's place: its own nested entries, then the parent's remaining
ones instead of its entry and the copies below it (R26). -/
def takeOver (parent : Nat) (rest : List JoinEntry) : List JoinEntry → List JoinEntry
  | [] => rest
  | e :: es => if e.kind == .detached && e.partner == parent then rest else e :: takeOver parent rest es

/-- A detached partner takes the place of a parent that ends: it wakes where it is parked at the popped entry's RECONV, and
follows what the parent did (R26, R28). The spec does not say what becomes of the FFLAGS of the parent; they go with it (log 111). -/
def State.inherit (s : State) (p : FragRef) (f : Frag) (es : List JoinEntry) (x : Ended) : State :=
  match s.frag? p with
  | none => s
  | some y =>
    let z := { y with join := takeOver f.ref.frag es y.join, behind := y.behind ++ x.behind }.afterFence x.fenced x.sysFenced
    let waits := match y.slot, y.join with
      | .parked (.reconv k), t :: _ => t.token == k && t.kind == JoinKind.detached && t.partner == f.ref.frag
      | _, _ => false
    if waits then ((s.setFrag z.wake.next).ownCmds p x.cmds).noteWake p.wave.wg.job
    else (s.setFrag z).ownCmds p x.cmds

/-- END of a fragment whose join stack from the top is `js` (R26). -/
def State.endAt (s : State) (f : Frag) : List JoinEntry → State
  | [] =>
    let s1 := s.freeFrag f
    if (s1.fragsOf f.ref.wave).isEmpty then s1.endWave f.ref.wave else s1
  | e :: es =>
    match e.kind with
    | .second => s.endAt f es
    | .deferred =>
      s.setFrag { f with
        exec := e.lanes, spc := e.spc, lpc := e.lpc
        join := { e with kind := .second, lanes := 0, hasLpc := false } :: es }
    | .detached =>
      if e.partner = 4 then (s.ownCmds f.ref e.cmds).endAt (f.mergeAlone e es) es
      else
        let p : FragRef := { wave := f.ref.wave, frag := e.partner }
        let x := s.endedOf f
        ((s.freeFrag f).modFrag p (fun y => { y with join := dropPartner f.ref.frag x y.join })).pastReconv p
    | .parent =>
      if e.partner = 4 then (s.ownCmds f.ref e.cmds).endAt (f.mergeAlone e es) es
      else
        let p : FragRef := { wave := f.ref.wave, frag := e.partner }
        let x := s.endedOf f
        let s1 := s.freeFrag f
        let s2 := { s1 with frags := s1.frags.map (fun (y : Frag) =>
          if y.ref.wave = f.ref.wave ∧ y.ref ≠ p then { y with join := renamePartner f.ref.frag e.partner y.join } else y) }
        s2.inherit p f es x

/-- END of a fragment (R26); a trap's held queue goes with it, and of an entry routine the queue extension, the trap state and the
frame (R309). -/
def State.endFrag (s : State) (f : Frag) : State :=
  (s.releaseFrame f).endAt
    { f with queue := [], inTrap := none, waiting := none, callSeq := none, routine := .none, resume := none, frame := none } f.join

/-- A fragment that ends or is discarded with an instruction under way in some of its lanes: a VATOM goes on in the others (R199). -/
def State.leaveHalfway (s : State) (fs : List Frag) : State :=
  fs.foldl (fun acc f => if f.flight.isSome then acc.modWg f.ref.wave.wg (fun g => { g with halfway := g.halfway ++ [f] }) else acc) s

/-- An END verdict ends every fragment of the wave (R235). -/
def State.killWave (s : State) (r : WaveRef) : State :=
  ((s.fragsOf r).foldl (fun acc f => acc.freeFrag f) (s.leaveHalfway (s.fragsOf r))).endWave r

/-- The merge of a parent and its detached partner, both at RECONV (R25, R69). -/
def mergeFrag (p d : Frag) : Frag :=
  { p.next with exec := p.exec ||| d.exec, fflags := p.fflags ||| d.fflags, join := p.join.tail
                posted := p.posted ++ d.posted, behind := p.behind ++ d.behind }.afterFence d.fenced d.sysFenced

/-- A new or merged fragment stands, in program order, behind the commands of another and its writes on their way (R28, R177, R186). -/
def State.inheritCmds (s : State) (w : WaveRef) (was is : Nat) (fresh : Bool) : State :=
  let own (os : List Nat) : List Nat :=
    let kept := if fresh then os.filter (· != is) else os
    if kept.contains was && !kept.contains is then kept ++ [is] else kept
  { s with cmds := s.cmds.map (fun (x : Cmd) => if x.wg = w.wg ∧ x.wave = w.wave then { x with owners := own x.owners } else x)
           remote := s.remote.map (fun (h : Held) => if h.wg = w.wg ∧ h.wave = w.wave then { h with owners := own h.owners } else h) }

/-- Merges at RECONV: the detached fragment's slot is freed; a parked parent wakes (R25). -/
def State.merge (s : State) (p d : Frag) : State :=
  let s0 := s.inheritCmds p.ref.wave d.ref.frag p.ref.frag false
  let s1 := { s0 with frags := s0.frags.filter (fun x => x.ref != d.ref) }
  let m := mergeFrag p d
  match p.slot with
  | .parked _ => (s1.setFrag m.wake).noteWake p.ref.wave.wg.job
  | _ => s1.setFrag m

end Sys2Proof.Machine
end

