-- ==== Sys2Proof/Machine/Fetch.lean ====
section
/-! DEFINITION. Instruction fetch (R176, R318, R320): a block may be read as it stood at any point since the last IFENCE. -/

namespace Sys2Proof.Machine

open Sys2Proof

/-- The start of the scalar fetch block of an address: 64 bytes (R39). -/
def scalarBlock (va : Word64) : Nat := va.toNat / 64 * 64

/-- The start of the lane fetch block of an address: 48 bytes, counted from the lane section (R39). -/
def Job.laneBlock (j : Job) (va : Word64) : Nat :=
  j.laneBase.toNat + (va - j.laneBase).toNat / 48 * 48

/-- The name under which a wave holds its versions of a scalar or a lane block. -/
def blockKey (lane : Bool) (block : Nat) : Nat := 2 * block + (if lane then 1 else 0)

/-- The versions of a block that a wave holds, oldest first. -/
def Wave.versions (w : Wave) (key : Nat) : List (Sparse 8) := (w.fetched.filter (fun p => p.1 == key)).map (fun p => p.2)

/-- Which of the wave's versions of a block a fetch returns, or, past the last, the block as memory stands: a free choice (R176). -/
def State.version (s : State) (w : Wave) (key : Nat) : Nat := s.choose (2 ^ 71 + key) ((w.versions key).length + 1)

/-- The wave's version of a block, where the fetch takes one. -/
def State.staleBlock (s : State) (w : Wave) (key : Nat) : Option (Sparse 8) := (w.versions key)[s.version w key]?

/-- Four bytes of code at an address: of a version of its block, or as memory stands. -/
def State.fetchWord (s : State) (c : Cur) (lane : Bool) (block : Nat) (va : Word64) : Except PageFault Nat :=
  match s.staleBlock c.w (blockKey lane block) with
  | some m => .ok (m.bytesNat (va.toNat - block) 4)
  | none =>
    let who := s.who c true
    match s.locGlobal who va .fetch with
    | .error e => .error e
    | .ok l => .ok (s.readLoc who c.g l 4)

/-- The scalar word at SPC. -/
def State.fetchScalar (s : State) (c : Cur) : Except PageFault (BitVec 32) :=
  match s.fetchWord c false (scalarBlock c.f.spc) c.f.spc with
  | .error e => .error e
  | .ok v => .ok (BitVec.ofNat 32 v)

/-- The lane word at an address; the address that a fault names comes with it. -/
def State.fetchLane (s : State) (c : Cur) (va : Word64) : Except (PageFault × Word64) (BitVec 96) :=
  let b := c.j.laneBlock va
  match s.fetchWord c true b va with
  | .error e => .error (e, va)
  | .ok x =>
    match s.fetchWord c true b (va + 4) with
    | .error e => .error (e, va + 4)
    | .ok y =>
      match s.fetchWord c true b (va + 8) with
      | .error e => .error (e, va + 8)
      | .ok z => .ok (BitVec.ofNat 96 (x + 2 ^ 32 * y + 2 ^ 64 * z))

/-- The `n` lane words from an address. -/
def State.fetchLanes (s : State) (c : Cur) (va : Word64) : Nat → Except (PageFault × Word64) (List (BitVec 96))
  | 0 => .ok []
  | n + 1 =>
    match s.fetchLane c va with
    | .error e => .error e
    | .ok w =>
      match s.fetchLanes c (va + 12) n with
      | .error e => .error e
      | .ok ws => .ok (w :: ws)

/-- The versions that are left after a fetch of a block: no later fetch of it returns an older one than it returned (R176). -/
def State.keptVersions (s : State) (w : Wave) (key : Nat) : List (Nat × Sparse 8) :=
  w.fetched.filter (fun p => p.1 != key) ++ ((w.versions key).drop (s.version w key)).map (fun m => (key, m))

/-- A wave after a fetch of a block. -/
def State.afterFetch (s : State) (w : Wave) (key : Nat) : Wave := { w with fetched := s.keptVersions w key }

/-- Takes a version of a code block as memory stands, beside the older ones (R176). -/
def State.fillFetch (s : State) (c : Cur) (lane : Bool) (block n : Nat) : State :=
  match s.readAs (s.who c true) .fetch (BitVec.ofNat 64 block) n with
  | none => s
  | some bs => s.setWave { c.w with fetched := c.w.fetched ++ [(blockKey lane block, Sparse.setList [] 0 bs)] }

end Sys2Proof.Machine
end

