-- ==== Sys2Proof/Machine/Scalar.lean ====
section
/-! DEFINITION. Scalar arithmetic, constants, loads of the constant section, SYSRD, SMODE and NOP (R327, R338 to
R341, R344, R345, R348, R349). -/

namespace Sys2Proof.Machine

open Sys2Proof

/-- A register-form ALU instruction (R338). -/
def aluR (s : State) (d a b : BitVec 6) (op : Word64 → Word64 → Word64) : Out :=
  scalarRun s { regs := [d, a, b], reads := [a, b], exitOk := true }
    (fun c => s.putS c d (op (c.f.s a) (c.f.s b)))

/-- An immediate-form ALU instruction (R338). -/
def aluI (s : State) (d a : BitVec 6) (op : Word64 → Word64) : Out :=
  scalarRun s { regs := [d, a], reads := [a], exitOk := true } (fun c => s.putS c d (op (c.f.s a)))

/-- Bits [127:64] of the signed product (R339). -/
def mulHigh (a b : Word64) : Word64 := BitVec.ofInt 64 (a.toInt * b.toInt / 2 ^ 64)

/-- The shift amount b[5:0] (R44). -/
def shamt (b : Word64) : Nat := (b.extractLsb' 0 6).toNat

/-- Whether a condition of SCMP holds (R340). -/
def scmpHolds (cc : BitVec 3) (a b : Word64) : Bool :=
  match cc.toNat with
  | 0 => a == b
  | 1 => a != b
  | 2 => a.slt b
  | 3 => a.sle b
  | 4 => a.ult b
  | _ => a.ule b

/-- SADD, register form (R339). -/
def execSaddR (d a b : BitVec 6) (s : State) : Out := aluR s d a b (fun x y => x + y)
/-- SSUB (R339). -/
def execSsub (d a b : BitVec 6) (s : State) : Out := aluR s d a b (fun x y => x - y)
/-- SMUL (R339). -/
def execSmul (d a b : BitVec 6) (s : State) : Out := aluR s d a b (fun x y => x * y)
/-- SMULH (R339). -/
def execSmulh (d a b : BitVec 6) (s : State) : Out := aluR s d a b mulHigh
/-- SAND, register form (R339). -/
def execSandR (d a b : BitVec 6) (s : State) : Out := aluR s d a b (fun x y => x &&& y)
/-- SOR, register form (R339). -/
def execSorR (d a b : BitVec 6) (s : State) : Out := aluR s d a b (fun x y => x ||| y)
/-- SXOR, register form (R339). -/
def execSxorR (d a b : BitVec 6) (s : State) : Out := aluR s d a b (fun x y => x ^^^ y)
/-- SSHL, register form (R339). -/
def execSshlR (d a b : BitVec 6) (s : State) : Out := aluR s d a b (fun x y => x <<< shamt y)
/-- SSHR, register form (R339). -/
def execSshrR (d a b : BitVec 6) (s : State) : Out := aluR s d a b (fun x y => x >>> shamt y)
/-- SSRA, register form (R339). -/
def execSsraR (d a b : BitVec 6) (s : State) : Out := aluR s d a b (fun x y => x.sshiftRight (shamt y))
/-- SMIN (R339). -/
def execSmin (d a b : BitVec 6) (s : State) : Out := aluR s d a b (fun x y => if x.sle y then x else y)
/-- SMAX (R339). -/
def execSmax (d a b : BitVec 6) (s : State) : Out := aluR s d a b (fun x y => if x.sle y then y else x)
/-- SCMP (R340). -/
def execScmp (cc : BitVec 3) (d a b : BitVec 6) (s : State) : Out :=
  aluR s d a b (fun x y => if scmpHolds cc x y then 1 else 0)
/-- SSEL reads all three registers (R340). -/
def execSsel (sel d a b : BitVec 6) (s : State) : Out :=
  scalarRun s { regs := [d, a, b, sel], reads := [sel, a, b], exitOk := true }
    (fun c => s.putS c d (if c.f.s sel ≠ 0 then c.f.s a else c.f.s b))
/-- SADD, immediate form (R338). -/
def execSaddI (d a : BitVec 6) (imm : BitVec 14) (s : State) : Out := aluI s d a (fun x => x + sext imm)
/-- SAND, immediate form (R338). -/
def execSandI (d a : BitVec 6) (imm : BitVec 14) (s : State) : Out := aluI s d a (fun x => x &&& sext imm)
/-- SOR, immediate form (R338). -/
def execSorI (d a : BitVec 6) (imm : BitVec 14) (s : State) : Out := aluI s d a (fun x => x ||| sext imm)
/-- SXOR, immediate form (R338). -/
def execSxorI (d a : BitVec 6) (imm : BitVec 14) (s : State) : Out := aluI s d a (fun x => x ^^^ sext imm)
/-- SSHL, immediate form (R338). -/
def execSshlI (d a amt : BitVec 6) (s : State) : Out := aluI s d a (fun x => x <<< amt.toNat)
/-- SSHR, immediate form (R338). -/
def execSshrI (d a amt : BitVec 6) (s : State) : Out := aluI s d a (fun x => x >>> amt.toNat)
/-- SSRA, immediate form (R338). -/
def execSsraI (d a amt : BitVec 6) (s : State) : Out := aluI s d a (fun x => x.sshiftRight amt.toNat)

/-- SLI (R341). -/
def execSli (d : BitVec 6) (imm : BitVec 14) (s : State) : Out :=
  scalarRun s { regs := [d], exitOk := true } (fun c => s.putS c d (sext imm))

/-- SLUI (R341). -/
def execSlui (d a : BitVec 6) (imm : BitVec 14) (s : State) : Out :=
  aluI s d a (fun x => (x <<< 14) ||| imm.setWidth 64)

/-- SLDK: word k of the constant section, the same at every execution (R344). -/
def execSldk (d : BitVec 6) (k : BitVec 14) (s : State) : Out :=
  scalarRun s { regs := [d] } (fun c =>
    if c.j.consts.length ≤ k.toNat then s.trapScalar c fltRecord 0x06
    else s.putS c d (c.j.consts.getD k.toNat 0))

/-- NOP (R327). -/
def execNop (s : State) : Out := scalarRun s { exitOk := true } (fun c => s.setFrag c.f.next)

/-- SMODE (R345). -/
def execSmode (m : BitVec 3) (s : State) : Out :=
  scalarRun s { exitOk := true } (fun c => s.setFrag { c.f.next with fmode := m })

/-- ARCHVER (R70). -/
def State.archver (s : State) : Word64 := 0#40 ++ 2#8 ++ s.archMinor ++ 0#8

/-- Whether R67 lists a register number. -/
def sysListed (n : Nat) : Bool :=
  [0x000, 0x001, 0x002, 0x003, 0x004, 0x005, 0x008, 0x009, 0x010, 0x011, 0x018, 0x019, 0x01A, 0x01B, 0x020,
   0x028, 0x029, 0x02A, 0x030, 0x031, 0x038, 0x039, 0x040].contains n

/-- The value of a listed register but CYCLE and LTIME (R67, R349). -/
def State.sysValue (s : State) (c : Cur) (n : Nat) : Word64 :=
  match n with
  | 0x000 => (waveid c.w.ref).setWidth 64
  | 0x001 => BitVec.ofNat 64 c.g.ref.wg
  | 0x002 => BitVec.ofNat 64 c.j.ref.id
  | 0x003 => BitVec.ofNat 64 c.w.role
  | 0x004 => BitVec.ofNat 64 c.j.width
  | 0x005 => c.f.exec
  | 0x008 => c.f.spc
  | 0x009 => c.f.lpc
  | 0x010 => c.f.fmode.setWidth 64
  | 0x011 => c.f.fflags.setWidth 64
  | 0x018 => c.w.pev.setWidth 64
  | 0x019 => c.w.evmask.setWidth 64
  | 0x01A => c.f.evslot
  | 0x01B => c.f.evinfo
  | 0x020 => c.f.rptc
  | 0x028 => c.f.trapcause.setWidth 64
  | 0x029 => c.f.trapaddr
  | 0x02A => c.f.traplpc
  | 0x038 => s.archver
  | 0x039 => c.j.features
  | _ => match c.f.routine with | .none => 0 | _ => s.saveBase c

/-- LTIME of the core's die: it rises by a free amount at each read (R67, R171). -/
def State.ltimeNow (s : State) (c : Cur) : Word64 :=
  (match s.die? c.g.die with | some d => d.ltime | none => 0) + Config.freeWord s.fresh 0x31

/-- SYSRD (R348, R349); CYCLE and LTIME are results of the log (R257). -/
def execSysrd (d : BitVec 6) (n : BitVec 14) (s : State) : Out :=
  scalarRun s { regs := [d], exitOk := true, bad := fun _ => if sysListed n.toNat then none else some 0x00 } (fun c =>
    if n = 0x030 then
      s.logged c [{ lane := 0, kind := 8, value := BitVec.ofNat 64 s.cycle }] (fun s1 vs => s1.putS c d (vs.headD 0))
    else if n = 0x031 then
      s.logged c [{ lane := 0, kind := 9, value := s.ltimeNow c }] (fun s1 vs =>
        (s1.modDie c.g.die (fun x => { x with ltime := s.ltimeNow c })).putS c d (vs.headD 0))
    else s.putS c d (s.sysValue c n.toNat))

end Sys2Proof.Machine
end

