-- ==== Sys2Proof/Machine/Control.lean ====
section
/-! DEFINITION. Control flow: branches, SPLIT and RECONV, END, LISSUE, LJUMP and REP, TRAP and TRET, YIELD, and the
writable system registers (R24 to R27, R40, R42, R309, R320 to R322, R334 to R336, R346, R350, R355, R356, R374). -/

namespace Sys2Proof.Machine

open Sys2Proof

/-- The target of a branch, its offset in words from the branch (R42). -/
def branchTarget {n : Nat} (spc : Word64) (off : BitVec n) : Word64 := spc + sext off * 4

/-- A taken branch; a target that does not lie ahead ends an exit routine (R245, R298, R319). -/
def State.branch (s : State) (c : Cur) {n : Nat} (off : BitVec n) : State :=
  if c.f.exiting && !decide (0 < off.toInt) then s.exitOverrun c
  else s.setFrag { c.f with spc := branchTarget c.f.spc off }

/-- A conditional branch (R42). A branch that does not lie ahead is not permitted in an exit routine, taken or not. -/
def State.branchIf (s : State) (c : Cur) (taken : Bool) (off : BitVec 16) : State :=
  if c.f.exiting && !decide (0 < off.toInt) then s.exitOverrun c
  else if taken then s.branch c off else s.setFrag c.f.next

/-- BC on a scalar register (R42, R298). -/
def execBc (cond : BitVec 2) (a : BitVec 6) (off : BitVec 16) (s : State) : Out :=
  scalarRun s { regs := [a], reads := [a], exitOk := true } (fun c =>
    let v := c.f.s a
    s.branchIf c (match cond.toNat with | 0 => v == 0 | 1 => v != 0 | 2 => v.slt 0 | _ => !v.slt 0) off)

/-- BC on a mask (R42, R298). -/
def execBcMask (cond : BitVec 2) (m : BitVec 3) (off : BitVec 16) (s : State) : Out :=
  scalarRun s { masks := [m], exitOk := true } (fun c =>
    let t := c.w.m c.j.width m.toNat &&& c.f.exec
    s.branchIf c (match cond.toNat with | 0 => t != 0 | 1 => t == c.f.exec | _ => t == 0) off)

/-- JMP (R319). -/
def execJmp (off : BitVec 26) (s : State) : Out :=
  scalarRun s { exitOk := true } (fun c => s.branch c off)

/-- CALL writes s63 (R300). -/
def execCall (off : BitVec 26) (s : State) : Out :=
  scalarRun s { regs := [63] } (fun c =>
    s.setFrag { c.f.setS 63 (c.f.spc + 4) with spc := branchTarget c.f.spc off })

/-- RET (R336). -/
def execRet (a : BitVec 6) (s : State) : Out :=
  scalarRun s { regs := [a], reads := [a] } (fun c =>
    if (c.f.s a).toNat % 4 ≠ 0 then s.trapScalar c fltAlign 0 else s.setFrag { c.f with spc := c.f.s a })

/-- The lanes saved in deferred and second-half entries (R128). -/
def savedLanes (js : List JoinEntry) : Word64 :=
  js.foldl (fun acc e => if e.kind == .deferred || e.kind == .second then acc ||| e.lanes else acc) 0

/-- The lane set (R128). -/
def Frag.laneSet (f : Frag) : Word64 := f.exec ||| savedLanes f.join

/-- The fragments on a core (R33). -/
def State.coreFrags (s : State) (die core : Nat) : List Frag :=
  s.frags.filter (fun f => match s.wg? f.ref.wave.wg with | some g => g.die == die && g.core == core | none => false)

/-- The slots of a core that are taken: one for every wave of its workgroups, ended or not, and one for every detached fragment (R18, R38, log 91). -/
def State.slotsTaken (s : State) (die core : Nat) : Nat :=
  (s.waves.filter (fun w => s.wgs.any (fun g => g.ref == w.ref.wg && g.die == die && g.core == core))).length
    + ((s.coreFrags die core).filter (fun f => !f.first)).length

/-- The fragment that detaches with the minority lanes (R24, R345). -/
def detach (f : Frag) (idx order : Nat) (k : BitVec 6) (lanes spc : Word64) : Frag :=
  { f with
    ref := { f.ref with frag := idx }, spc := spc, exec := lanes, rptc := 0, first := false, rep := none, lissue := none, queue := [], flight := none
    join := { token := k, kind := .detached, partner := f.ref.frag, lanes := 0, spc := 0, lpc := 0, hasLpc := false }
      :: f.join.map (fun e => if e.kind == .deferred || e.kind == .second then { e with lanes := 0 } else e)
    seen := [], peeks := [], walked := [], afresh := false, evslot := 0, evinfo := 0, trapcause := 0, trapaddr := 0, traplpc := 0, slot := .ready, parkedAt := 0
    issuedAt := f.issuedAt, boost := false, order := order, posted := [], behind := f.behind ++ f.posted.map (·.id)
    waiting := none, inTrap := none, callSeq := none, routine := .none, resume := none, frame := none, steps := none, passPoint := false, repark := false }

/-- A mixed SPLIT (R24): the minority detaches where a fragment and a slot are free, and is deferred elsewhere. -/
def State.splitMixed (s : State) (c : Cur) (k : BitVec 6) (t n : Word64) (target : Word64) : State :=
  let takenMinor := decide (laneCount t ≤ laneCount n)
  let minor := if takenMinor then t else n
  let major := if takenMinor then n else t
  let minorSpc := if takenMinor then target else c.f.spc + 4
  let majorSpc := if takenMinor then c.f.spc + 4 else target
  let used := (s.fragsOf c.w.ref).map (·.ref.frag)
  match (List.range 4).find? (fun i => !used.contains i) with
  | some idx =>
    if used.length < 4 ∧ s.slotsTaken c.g.die c.g.core < 32 then
      let (o, s1) := s.nextSerial
      let s2 := s1.setFrag { c.f with
        spc := majorSpc, exec := major
        join := { token := k, kind := .parent, partner := idx, lanes := 0, spc := 0, lpc := 0, hasLpc := false } :: c.f.join }
      let s3 := s2.inheritCmds c.w.ref c.f.ref.frag idx true
      { s3 with frags := s3.frags ++ [detach c.f idx o k minor minorSpc] }
    else s.setFrag { c.f with
      spc := majorSpc, exec := major
      join := { token := k, kind := .deferred, partner := 0, lanes := minor, spc := minorSpc, lpc := c.f.lpc
                hasLpc := true } :: c.f.join }
  | none => s.setFrag { c.f with
      spc := majorSpc, exec := major
      join := { token := k, kind := .deferred, partner := 0, lanes := minor, spc := minorSpc, lpc := c.f.lpc
                hasLpc := true } :: c.f.join }

/-- SPLIT (R24, R27, R346). -/
def execSplit (m : BitVec 3) (k : BitVec 6) (off : BitVec 16) (s : State) : Out :=
  scalarRun s { masks := [m] } (fun c =>
    let mask := c.w.m c.j.width m.toNat
    let t := c.f.exec &&& mask
    let n := c.f.exec &&& ~~~mask
    let target := branchTarget c.f.spc off
    if t = 0 then s.setFrag c.f.next
    else if n = 0 then s.setFrag { c.f with spc := target }
    else if 16 ≤ c.f.join.length then s.trapScalar c fltIllegal 0x09
    else s.splitMixed c k t n target)

/-- Whether a partner waits at RECONV k for this fragment (R25). -/
def Frag.waitsFor (p : Frag) (k : BitVec 6) (me : Nat) : Bool :=
  p.slot == .parked (.reconv k)
    && (match p.join with
        | e :: _ => e.token == k && e.partner == me && (e.kind == .parent || e.kind == .detached)
        | [] => false)

/-- RECONV (R25, R333). -/
def execReconv (k : BitVec 6) (s : State) : Out :=
  scalarRun s {} (fun c =>
    match c.f.join with
    | [] => s.setFrag c.f.next
    | e :: es =>
      if e.token ≠ k then s.setFrag c.f.next
      else
        match e.kind with
        | .deferred =>
          s.setFrag { c.f with
            exec := e.lanes, spc := e.spc, lpc := e.lpc
            join := { e with kind := .second, lanes := c.f.exec, lpc := c.f.lpc, hasLpc := true } :: es }
        | .second =>
          s.setFrag { c.f.next with
            exec := c.f.exec ||| e.lanes, lpc := if e.hasLpc then e.lpc else c.f.lpc, join := es }
        | .parent | .detached =>
          if e.partner = 4 then (s.setFrag (c.f.next.mergeAlone e es)).ownCmds c.f.ref e.cmds
          else
            match s.frag? { wave := c.f.ref.wave, frag := e.partner } with
            | none => s.setFrag { c.f.next with join := es }
            | some p =>
              if p.waitsFor k c.f.ref.frag then
                (if e.kind == .parent then s.merge c.f p else s.merge p c.f)
              else s.park c (.reconv k))

/-- END (R26, R309). -/
def execEndFrag (s : State) : Out := scalarRun s {} (fun c => s.endFrag c.f)

/-- YIELD (R374). -/
def execYieldSlot (s : State) : Out := scalarRun s {} (fun c => s.setFrag { c.f.next with slot := .ready })

/-- LJUMP, relative form (R322): the sum wraps modulo 2^64, and the spec names no alignment fault here, also where it wraps to a counter that is no
multiple of 12 (log 110). -/
def execLjump (imm : BitVec 14) (s : State) : Out :=
  scalarRun s { exitOk := true } (fun c => s.setFrag { c.f.next with lpc := c.f.lpc + sext imm * 12 })

/-- LJUMP, register form (R40, R322). -/
def execLjumpReg (a : BitVec 6) (s : State) : Out :=
  scalarRun s { regs := [a], reads := [a], exitOk := true } (fun c =>
    if (c.f.s a).toNat % 12 ≠ 0 then s.trapScalar c fltAlign 0 else s.setFrag { c.f.next with lpc := c.f.s a })

/-- REP waits while a repeat is in progress, then stands before its LISSUE (R64, R334, R335). -/
def execRep (imm : BitVec 14) (s : State) : Out :=
  scalarRun s { exitOk := true } (fun c =>
    if c.f.rptc.extractLsb' 16 7 ≠ 0 then s else s.setFrag { c.f.next with rep := some imm })

/-- The value of a kind 01 operand as LISSUE captures it (R21, R48). -/
def capture (f : Frag) (k : BitVec 2) (x : BitVec 8) : Word64 := if k = 1 then f.s (x.extractLsb' 0 6) else 0

/-- A poisoned kind 01 operand (R281). -/
def capturePoisoned (f : Frag) (k : BitVec 2) (x : BitVec 8) : Bool := k == 1 && f.sPoisoned (x.extractLsb' 0 6)

/-- What the checks at enqueue say of a lane word: fault, SUB and EXT of the first that fails (R61, R64, R281). -/
def enqueueFault (env : LaneEnv) (f : Frag) (kernel ext : Bool) (w : BitVec 96) (rep : Option (BitVec 14)) :
    Option (BitVec 8 × BitVec 8 × Bool) :=
  let op := laneOpcode w
  let o := laneFields w
  match laneInstr op o with
  | none => some (fltIllegal, 0x00, false)
  | some _ =>
    if 0x300 ≤ op.toNat ∧ !ext then some (fltIllegal, 0x00, true)
    else
      match checkLane env op o with
      | some e => some (fltIllegal, e.sub, false)
      | none =>
        if laneKernel op o && !kernel then some (fltPriv, 0, false)
        else
          match (match rep with
            | none => none
            | some imm =>
              let sh := laneShape op o
              if repStepBad imm sh o then some 0x08#8
              else if repSameBad imm op o then some 0x05
              else if repAllotBad env imm sh op o then some 0x03
              else if repOddBad imm sh op o then some 0x04
              else none) with
          | some sub => some (fltIllegal, sub, false)
          | none =>
            if capturePoisoned f o.kA o.a || capturePoisoned f o.kB o.b || capturePoisoned f o.kC o.c then
              some (fltPoison, 0x01, false)
            else none

/-- The queue entry of a lane word (R320). -/
def queueEntry (f : Frag) (w : BitVec 96) (addr : Word64) (rep : Option (BitVec 14)) : QEntry :=
  let o := laneFields w
  { word := w, addr := addr, a := capture f o.kA o.a, b := capture f o.kB o.b, c := capture f o.kC o.c
    fmode := f.fmode, rep := rep.getD 0, left := match rep with | none => 0 | some imm => repCount imm }

/-- The trap of a lane instruction that fails at enqueue as the first of its LISSUE (R61, R232, R335): `n` is how
many the LISSUE still enqueues with it. -/
def enqueueTrap (f : Frag) (n : Nat) (flt sub : BitVec 8) (ext : Bool) : TrapCtx :=
  { addr := f.spc, lpc := f.lpc, faddr := 0, lanes := f.exec, cause := causeWord true ext sub flt
    retry := if f.rep.isSome then { spc := f.spc - 4, lpc := f.lpc, queue := f.queue, lissue := none, rep := none, passPoint := true }
      else { spc := f.spc, lpc := f.lpc, queue := f.queue, lissue := some n, rep := none, passPoint := f.passPoint }
    skip := if n ≤ 1 then { spc := f.spc + 4, lpc := f.lpc + 12, queue := f.queue, lissue := none, rep := none }
      else { spc := f.spc, lpc := f.lpc + 12, queue := f.queue, lissue := some (n - 1), rep := none, passPoint := f.passPoint } }

/-- Enqueues lane words one by one. A word that fails after others of the same LISSUE leaves the LISSUE standing for
it: those before it complete first, and its trap is taken then (R232, R320). -/
def State.enqueue (s : State) (c : Cur) (env : LaneEnv) (first : Bool) : Frag → List (BitVec 96) → State
  | f, [] => s.setFrag { f with spc := f.spc + 4, lissue := none, rep := none }
  | f, w :: ws =>
    match enqueueFault env f c.j.kernel s.microcode.isSome w f.rep with
    | some (flt, sub, ext) =>
      if first then
        (s.setFrag f).raise f.ref (enqueueTrap f (ws.length + 1) flt sub ext)
      else s.setFrag { f with lissue := some (ws.length + 1) }
    | none =>
      s.enqueue c env false { f with
        queue := f.queue ++ [queueEntry f w f.lpc f.rep], lpc := f.lpc + 12, rep := none } ws

/-- LISSUE (R22, R320). -/
def execLissue (n : BitVec 5) (s : State) : Out :=
  scalarRun s
    { exitOk := true, issue := true
      bad := fun _ => if n.toNat = 0 ∨ 16 < n.toNat then some 0x07 else none } (fun c =>
    let k := c.f.lissue.getD n.toNat
    if 16 < c.f.queue.length + k then s
    else
      match s.fetchLanes c c.f.lpc k with
      | .error (e, va) => s.pageScalar c e va .fetch
      | .ok ws =>
        let blocks := (List.range k).map (fun i => c.j.laneBlock (c.f.lpc + BitVec.ofNat 64 (12 * i)))
        let w := blocks.eraseDups.foldl (fun acc b => s.afterFetch acc (blockKey true b)) c.w
        (s.setWave w).enqueue c c.laneEnv true c.f ws)

/-- TRAP: both return points lie at the next instruction (R232, R355). -/
def execTrap (code : BitVec 14) (s : State) : Out :=
  scalarRun s { mem := true } (fun c =>
    s.raise c.f.ref { c.f.scalarTrap fltTrap (code.extractLsb' 0 8) 0 with
      code := code, retry := c.f.after })

/-- TRET: back to the retry point of the trap in progress (R236, R356), unless that would set a counter to no multiple of its
instructions (R40). -/
def execTret (s : State) : Out :=
  scalarRun s {} (fun c =>
    match c.f.inTrap with
    | none => s.trapScalar c fltIllegal 0x0C
    | some t =>
      if t.retry.spc.toNat % 4 ≠ 0 ∨ t.retry.lpc.toNat % 12 ≠ 0 then s.trapScalar c fltAlign 0
      else s.setFrag { c.f.goTo t.retry with inTrap := none, callSeq := t.callSeq, slot := c.f.slot })

/-- SYSWR EXEC: the value within the lane set (R128, R350). -/
def execSyswrExec (a : BitVec 6) (s : State) : Out :=
  scalarRun s { regs := [a], reads := [a] } (fun c =>
    s.setFrag { c.f.next with exec := c.f.s a &&& c.f.laneSet })

/-- SYSWR FMODE (R350). -/
def execSyswrFmode (a : BitVec 6) (s : State) : Out :=
  scalarRun s { regs := [a], reads := [a] } (fun c => s.setFrag { c.f.next with fmode := (c.f.s a).extractLsb' 0 3 })

/-- SYSWR FFLAGS (R350). -/
def execSyswrFflags (a : BitVec 6) (s : State) : Out :=
  scalarRun s { regs := [a], reads := [a] } (fun c => s.setFrag { c.f.next with fflags := (c.f.s a).extractLsb' 0 7 })

/-- SYSWR PEV clears the bits written as 1 (R350). -/
def execSyswrPev (a : BitVec 6) (s : State) : Out :=
  scalarRun s { regs := [a], reads := [a] } (fun c =>
    (s.setWave { c.w with pev := c.w.pev &&& ~~~(c.f.s a).extractLsb' 0 16 }).setFrag c.f.next)

/-- SYSWR EVMASK; parked AWAITs re-evaluate (R350). -/
def execSyswrEvmask (a : BitVec 6) (s : State) : Out :=
  scalarRun s { regs := [a], reads := [a] } (fun c =>
    ((s.setWave { c.w with evmask := (c.f.s a).extractLsb' 0 16 }).setFrag c.f.next).settle c.w.ref)

/-- SYSWR of a register that no mode may write: FLT_PRIV, or FLT_ILLEGAL for a number R67 does not list (R46, R348). -/
def execSyswrReadonly (a : BitVec 6) (n : BitVec 14) (s : State) : Out :=
  scalarRun s
    { regs := [a], reads := [a], bad := fun _ => if sysListed n.toNat then none else some 0x00, priv := fun _ => true }
    (fun c => s.trapScalar c fltPriv 0)

end Sys2Proof.Machine
end

