-- ==== Sys2Proof/Machine/Operands.lean ====
section
/-! DEFINITION. The operand forms of lane instructions: kinds, cross-lane selection and identities, source modifiers, the
poison each read meets, and the destinations (R48 to R58, R104, R121, R128, R249, R351). -/

namespace Sys2Proof.Machine

open Sys2Proof

/-- A source operand as an instruction names it, with the snapshot taken at enqueue, under a type. -/
structure Operand where
  kind : BitVec 2
  field : BitVec 8
  snap : Word64
  ty : BitVec 5
  deriving DecidableEq, Repr

def Lane.opA (x : Lane) (t : BitVec 5) : Operand := { kind := x.f.kA, field := x.f.a, snap := x.q.a, ty := t }
def Lane.opB (x : Lane) (t : BitVec 5) : Operand := { kind := x.f.kB, field := x.f.b, snap := x.q.b, ty := t }
def Lane.opC (x : Lane) (t : BitVec 5) : Operand := { kind := x.f.kC, field := x.f.c, snap := x.q.c, ty := t }

/-- The low word of a value, zero-extended. -/
def low32 (v : Word64) : Word64 := (v.extractLsb' 0 32).setWidth 64

/-- The immediate under a type (R48). -/
def immOf (t : BitVec 5) (w2 : Word32) : Word64 := if t == 0x05 then w2.signExtend 64 else w2.setWidth 64

/-- Lane `l` of an operand: 64 bits under a 64-bit type, otherwise 32 (R48, R49). -/
def Lane.raw (x : Lane) (o : Operand) (l : Nat) : Word64 :=
  match o.kind.toNat with
  | 0 => if tyIs64 o.ty then x.c.w.v64 o.field.toNat l else (x.c.w.v o.field.toNat l).setWidth 64
  | 1 => if tyIs64 o.ty then o.snap else low32 o.snap
  | 2 => immOf o.ty x.f.w2
  | _ =>
    match (o.field.extractLsb' 0 6).toNat with
    | 0 => BitVec.ofNat 64 l
    | 1 => BitVec.ofNat 64 x.width
    | _ => BitVec.ofNat 64 x.c.w.ref.wave

/-- Whether lane `l` of an operand is poisoned: a poisoned lane of a register it names (R249). -/
def Lane.rawPoisoned (x : Lane) (o : Operand) (l : Nat) : Bool :=
  o.kind == 0 && (x.c.w.vPoisoned o.field.toNat l || (tyIs64 o.ty && x.c.w.vPoisoned (o.field.toNat + 1) l))

/-- Whether W2 is the modifier word (R54). -/
def Lane.hasMod (x : Lane) : Bool := x.f.kA != 2 && x.f.kB != 2 && x.f.kC != 2

/-- The cross-lane mode and the identity code (R55); none and zero where W2 is an immediate. -/
def Lane.mode (x : Lane) : Nat := if x.hasMod then (w2Mode x.f).toNat else 0
def Lane.ident (x : Lane) : Nat := if x.hasMod then (w2Ident x.f).toNat else 0

/-- A lane number that lies in the width and is active (R56). -/
def Lane.within (x : Lane) (src : Nat) : Option Nat :=
  if src < x.width ∧ x.act.getLsbD src then some src else none

/-- The lane A is read from; none where the identity stands in (R56). Indexed-by-B reads the low word of B, which is
v0 for an opcode that leaves B unused (log 32). -/
def Lane.pick (x : Lane) (t : BitVec 5) (l : Nat) : Option Nat :=
  let n := w2Amount x.f
  match x.mode with
  | 0 => some l
  | 1 => if n ≤ l then x.within (l - n) else none
  | 2 => x.within (l + n)
  | 3 => x.within (Nat.xor l n)
  | 4 => x.within n
  | 5 => x.within ((l + n) % x.width)
  | _ => x.within ((x.raw (x.opB t) l).extractLsb' 0 32).toNat

/-- The largest finite code of a type, its infinity and its one, as element bits (R57, R101). -/
def tyMaxFinite (t : BitVec 5) : Nat :=
  match t.toNat with
  | 0x0A => 0x7BFF | 0x0B => 0x7F7F | 0x0C => 0x7F7FFFFF | 0x0D => 0x7E | 0x0E => 0x7B | 0x0F => 7
  | 0x11 => 0x7F7F7F7F | 0x12 => 0x7BFF7BFF | _ => 0
def tyInf (t : BitVec 5) : Nat :=
  match t.toNat with
  | 0x0A => 0x7C00 | 0x0B => 0x7F80 | 0x0C => 0x7F800000 | 0x0E => 0x7C
  | 0x11 => 0x7F807F80 | 0x12 => 0x7C007C00 | _ => tyMaxFinite t
def tyOne (t : BitVec 5) : Nat :=
  match t.toNat with
  | 0x0A => 0x3C00 | 0x0B => 0x3F80 | 0x0C => 0x3F800000 | 0x0D => 0x38 | 0x0E => 0x3C | 0x0F => 2
  | 0x11 => 0x3F803F80 | 0x12 => 0x3C003C00 | _ => 1
/-- The sign bits of a float type. -/
def tySigns (t : BitVec 5) : Nat :=
  match t.toNat with
  | 0x0A | 0x0B => 0x8000 | 0x0C => 0x80000000 | 0x0D | 0x0E => 0x80 | 0x0F => 8
  | 0x11 | 0x12 => 0x80008000 | _ => 0

/-- The identity of a type by code, `own` being the lane's own value (R57). q4e has the two codes of its own. -/
def identity (t : BitVec 5) (code : Nat) (own : Word64) : Word64 :=
  let n := tyBits t
  let ones := 2 ^ n - 1
  BitVec.ofNat 64 (
    match code with
    | 0 => 0
    | 1 => tyOne t
    | 2 => ones
    | 3 => if tyIsFloat t then tyMaxFinite t else if tyIsSigned t then 2 ^ (n - 1) - 1 else if t = 0x10 then 7 else ones
    | 4 => if tyIsFloat t then tyMaxFinite t + tySigns t else if tyIsSigned t then 2 ^ (n - 1) else if t = 0x10 then 9 else 0
    | 5 => if tyIsFloat t then tyInf t else if tyIsSigned t then 2 ^ (n - 1) - 1 else if t = 0x10 then 7 else ones
    | 6 => if tyIsFloat t then tyInf t + tySigns t else if tyIsSigned t then 2 ^ (n - 1) else if t = 0x10 then 9 else 0
    | _ => own.toNat)

/-- Absolute value, then negation (R58): sign bits of a float type, wrapping arithmetic of an s type. -/
def modify (t : BitVec 5) (neg abs : Bool) (v : Word64) : Word64 :=
  if tyIsFloat t then
    let m := BitVec.ofNat 64 (tySigns t)
    let a := if abs then v &&& ~~~m else v
    if neg then a ^^^ m else a
  else if tyIs64 t then
    let a := if abs && v.msb then -v else v
    if neg then -a else a
  else
    let w : Word32 := v.extractLsb' 0 32
    let a := if abs && w.msb then -w else w
    (if neg then -a else a).setWidth 64

/-- The modifiers of operand `i` (0 for A), from W2[19:14] (R55); a conversion has none. -/
def Lane.modified (x : Lane) (t : BitVec 5) (i : Nat) (v : Word64) : Word64 :=
  if x.hasMod then modify t (x.f.w2.getLsbD (19 - 2 * i)) (x.f.w2.getLsbD (18 - 2 * i)) v else v

/-- A in an active lane, after selection and identity (R56). -/
def Lane.selA (x : Lane) (t : BitVec 5) (l : Nat) : Word64 :=
  match x.pick t l with
  | some k => x.raw (x.opA t) k
  | none => identity t x.ident (x.raw (x.opA t) l)

/-- Whether reading A in an active lane meets poison. -/
def Lane.poisonA (x : Lane) (t : BitVec 5) (l : Nat) : Bool :=
  match x.pick t l with
  | some k => x.rawPoisoned (x.opA t) k
  | none => x.ident == 7 && x.rawPoisoned (x.opA t) l

/-- The value a lane brings to a reduction: an inactive lane brings the identity, a poisoned own value zero (R134,
R351). -/
def Lane.redA (x : Lane) (t : BitVec 5) (l : Nat) : Word64 :=
  if x.act.getLsbD l then x.selA t l
  else identity t x.ident (if x.rawPoisoned (x.opA t) l then 0 else x.raw (x.opA t) l)

/-- The sources of an arithmetic instruction in an active lane, modifiers applied (R58). -/
def Lane.srcA (x : Lane) (t : BitVec 5) (l : Nat) : Word64 := x.modified t 0 (x.selA t l)
def Lane.srcB (x : Lane) (t : BitVec 5) (l : Nat) : Word64 := x.modified t 1 (x.raw (x.opB t) l)
def Lane.srcC (x : Lane) (t : BitVec 5) (l : Nat) : Word64 := x.modified t 2 (x.raw (x.opC t) l)

/-- SUB 0x02 where a read of `n` sources, A first, meets poison in an active lane (R249, R351); a mode that indexes by
B reads B too. -/
def Lane.poisonSrc (x : Lane) (t : BitVec 5) (n : Nat) : Option (BitVec 8) :=
  if x.lanes.any (fun l => (decide (1 ≤ n) && x.poisonA t l)
      || ((decide (2 ≤ n) || (decide (1 ≤ n) && x.mode == 6)) && x.rawPoisoned (x.opB t) l)
      || (decide (3 ≤ n) && x.rawPoisoned (x.opC t) l))
  then some 0x02 else none

/-- Writes an element to a lane: a pair under a 64-bit type (R49). -/
def Wave.put (w : Wave) (t : BitVec 5) (r : BitVec 8) (l : Nat) (v : Word64) : Wave :=
  if tyIs64 t then w.setV64 r.toNat l v else w.setV r.toNat l (v.extractLsb' 0 32)

/-- Writes every active lane of a register. -/
def Lane.write (x : Lane) (w : Wave) (t : BitVec 5) (r : BitVec 8) (h : Nat → Word64) : Wave :=
  x.lanes.foldl (fun acc l => acc.put t r l (h l)) w

/-- The bits of the lanes that a test accepts. -/
def maskOf (lanes : List Nat) (p : Nat → Bool) : Word64 :=
  lanes.foldl (fun acc l => if p l then acc ||| (1#64 <<< l) else acc) 0

/-- A mask operand's bits by code (R48). -/
def Lane.maskIn (x : Lane) (code : BitVec 8) : Word64 :=
  if code = 8 then x.c.f.exec else x.c.w.m x.width code.toNat

/-- Whether an active lane of a mask operand is poisoned. -/
def Lane.maskPoisoned (x : Lane) (code : BitVec 8) : Bool := code != 8 && x.c.w.mPoisoned code.toNat x.act

/-- EXEC takes what is written to it within the lane set (R128). -/
def Frag.setExec (f : Frag) (lanes bits : Word64) : Frag :=
  { f with exec := ((f.exec &&& ~~~lanes) ||| (bits &&& lanes)) &&& f.laneSet }

/-- Completes an instruction that writes a mask in its active lanes (R50, R51, R128). -/
def State.endMask (s : State) (x : Lane) (f : Frag) (code : BitVec 8) (bits : Word64) : State :=
  if code = 8 then s.laneEnd x.c x.c.w (f.setExec x.act bits)
  else s.laneEnd x.c (x.c.w.setM code.toNat x.act bits) f

/-- A fragment with flags ORed into FFLAGS (R69). -/
def Frag.flag (f : Frag) (fl : BitVec 7) : Frag := { f with fflags := f.fflags ||| fl }

/-- A lane-by-lane instruction of `n` sources under one type. -/
def laneMap (s : State) (op : BitVec 10) (f : LaneOps) (n : Nat) (h : Word64 → Word64 → Word64 → Word64) : Out :=
  laneRun s op f (fun x => x.poisonSrc f.ty n) (fun s1 x =>
    s1.laneEnd x.c (x.write x.c.w f.ty f.dest (fun l => h (x.srcA f.ty l) (x.srcB f.ty l) (x.srcC f.ty l))) x.c.f)

/-- A lane-by-lane instruction whose results carry flags: the flags of all active lanes are ORed (R112). -/
def laneMapF (s : State) (op : BitVec 10) (f : LaneOps) (n : Nat)
    (h : BitVec 3 → Word64 → Word64 → Word64 → Word64 × BitVec 7) : Out :=
  laneRun s op f (fun x => x.poisonSrc f.ty n) (fun s1 x =>
    let r (l : Nat) := h x.q.fmode (x.srcA f.ty l) (x.srcB f.ty l) (x.srcC f.ty l)
    s1.laneEnd x.c (x.write x.c.w f.ty f.dest (fun l => (r l).1))
      (x.c.f.flag (x.lanes.foldl (fun acc l => acc ||| (r l).2) 0)))

end Sys2Proof.Machine
end

