-- ==== Sys2Proof/Machine/LaneInt.lean ====
section
/-! DEFINITION. Lane integer, bit, compare and move instructions, and the mask family (R121 to R128, R324, R357 to R363). -/

namespace Sys2Proof.Machine

open Sys2Proof

/-- The element width of a 32- or 64-bit type. -/
def elemBits (t : BitVec 5) : Nat := if tyIs64 t then 64 else 32

/-- An element as a number: signed for s types, unsigned for others (R123). -/
def elemInt (t : BitVec 5) (v : Word64) : Int :=
  if tyIsSigned t then (if tyIs64 t then v.toInt else (v.extractLsb' 0 32).toInt) else v.toNat

/-- The low bits of a number as an element. -/
def elemOf (t : BitVec 5) (n : Int) : Word64 :=
  if tyIs64 t then BitVec.ofInt 64 n else (BitVec.ofInt 32 n).setWidth 64

/-- Clamps to the range of a type (R123). -/
def clampInt (t : BitVec 5) (n : Int) : Int :=
  let b := elemBits t
  if tyIsSigned t then max (-(2 ^ (b - 1))) (min (2 ^ (b - 1) - 1) n) else max 0 (min (2 ^ b - 1) n)

/-- The result written: the low bits, or clamped under saturate (R123). -/
def wrapOrClamp (t : BitVec 5) (sat : BitVec 1) (n : Int) : Word64 :=
  elemOf t (if sat = 1 then clampInt t n else n)

/-- An instruction with an exact integer result that wraps or saturates. -/
def laneExact (s : State) (op : BitVec 10) (f : LaneOps) (n : Nat) (h : Int → Int → Int → Int) : Out :=
  laneMap s op f n (fun a b c => wrapOrClamp f.ty f.sat (h (elemInt f.ty a) (elemInt f.ty b) (elemInt f.ty c)))

/-- VDIV's quotient (R124). -/
def divInt (t : BitVec 5) (a b : Int) : Int := if b = 0 then (if tyIsSigned t then -1 else 2 ^ elemBits t - 1) else a.tdiv b
/-- VREM's remainder (R124). -/
def remInt (a b : Int) : Int := if b = 0 then a else a - b * a.tdiv b

/-- VADD (R123). -/
def execVadd (f : LaneOps) (s : State) : Out := laneExact s 0x000 f 2 (fun a b _ => a + b)
/-- VSUB (R123). -/
def execVsub (f : LaneOps) (s : State) : Out := laneExact s 0x001 f 2 (fun a b _ => a - b)
/-- VMUL (R123). -/
def execVmul (f : LaneOps) (s : State) : Out := laneExact s 0x002 f 2 (fun a b _ => a * b)
/-- VMULH (R123). -/
def execVmulh (f : LaneOps) (s : State) : Out :=
  laneMap s 0x003 f 2 (fun a b _ => elemOf f.ty (elemInt f.ty a * elemInt f.ty b / 2 ^ elemBits f.ty))
/-- VMAD (R123). -/
def execVmad (f : LaneOps) (s : State) : Out := laneExact s 0x004 f 3 (fun a b c => a * b + c)
/-- VDIV (R124). -/
def execVdiv (f : LaneOps) (s : State) : Out :=
  laneMap s 0x005 f 2 (fun a b _ => elemOf f.ty (divInt f.ty (elemInt f.ty a) (elemInt f.ty b)))
/-- VREM (R124). -/
def execVrem (f : LaneOps) (s : State) : Out :=
  laneMap s 0x006 f 2 (fun a b _ => elemOf f.ty (remInt (elemInt f.ty a) (elemInt f.ty b)))
/-- VMIN (R123). -/
def execVmin (f : LaneOps) (s : State) : Out :=
  laneMap s 0x007 f 2 (fun a b _ => elemOf f.ty (min (elemInt f.ty a) (elemInt f.ty b)))
/-- VMAX (R123). -/
def execVmax (f : LaneOps) (s : State) : Out :=
  laneMap s 0x008 f 2 (fun a b _ => elemOf f.ty (max (elemInt f.ty a) (elemInt f.ty b)))
/-- VABS (R123). -/
def execVabs (f : LaneOps) (s : State) : Out :=
  laneMap s 0x009 f 1 (fun a _ _ => elemOf f.ty (elemInt f.ty a).natAbs)

/-- The shift amount: B mod n (R125). -/
def laneShift (t : BitVec 5) (b : Word64) : Nat := b.toNat % elemBits t

/-- VAND (R125). -/
def execVand (f : LaneOps) (s : State) : Out := laneMap s 0x010 f 2 (fun a b _ => a &&& b)
/-- VOR (R125). -/
def execVor (f : LaneOps) (s : State) : Out := laneMap s 0x011 f 2 (fun a b _ => a ||| b)
/-- VXOR (R125). -/
def execVxor (f : LaneOps) (s : State) : Out := laneMap s 0x012 f 2 (fun a b _ => a ^^^ b)
/-- VSHL (R125). -/
def execVshl (f : LaneOps) (s : State) : Out := laneMap s 0x013 f 2 (fun a b _ => a <<< laneShift f.ty b)
/-- VSHR (R125). -/
def execVshr (f : LaneOps) (s : State) : Out := laneMap s 0x014 f 2 (fun a b _ => a >>> laneShift f.ty b)
/-- VSRA (R125). -/
def execVsra (f : LaneOps) (s : State) : Out :=
  laneMap s 0x015 f 2 (fun a b _ => elemOf f.ty (elemInt f.ty a / 2 ^ laneShift f.ty b))

/-- The one bits below bit `n`. -/
def popCount (n : Nat) (v : Word64) : Nat := ((List.range n).filter (fun i => v.getLsbD i)).length
/-- The zero bits above the highest one, of `n`. -/
def leadZeros (n : Nat) (v : Word64) : Nat := if v = 0 then n else n - 1 - Nat.log2 v.toNat
/-- The zero bits below the lowest one, of `n`. -/
def trailZeros (n : Nat) (v : Word64) : Nat := ((List.range n).find? (fun i => v.getLsbD i)).getD n
/-- Reverses the low `n` bits. -/
def reverseBits (n : Nat) (v : Word64) : Word64 := maskOf (List.range n) (fun i => v.getLsbD (n - 1 - i))

/-- VPOPC (R125). -/
def execVpopc (f : LaneOps) (s : State) : Out :=
  laneMap s 0x018 f 1 (fun a _ _ => BitVec.ofNat 64 (popCount (elemBits f.ty) a))
/-- VCLZ (R125). -/
def execVclz (f : LaneOps) (s : State) : Out :=
  laneMap s 0x019 f 1 (fun a _ _ => BitVec.ofNat 64 (leadZeros (elemBits f.ty) a))
/-- VCTZ (R125). -/
def execVctz (f : LaneOps) (s : State) : Out :=
  laneMap s 0x01A f 1 (fun a _ _ => BitVec.ofNat 64 (trailZeros (elemBits f.ty) a))
/-- VBREV (R125). -/
def execVbrev (f : LaneOps) (s : State) : Out := laneMap s 0x01B f 1 (fun a _ _ => reverseBits (elemBits f.ty) a)

/-- The offset and clipped length of a field position (R126). -/
def fieldPos (t : BitVec 5) (b : Word64) : Nat × Nat :=
  let o := (b.extractLsb' 0 7).toNat
  let n := elemBits t
  (o, if o < n then min (b.extractLsb' 8 7).toNat (n - o) else 0)

/-- VBFE's field (R126). -/
def bitExtract (t : BitVec 5) (a b : Word64) : Word64 :=
  let (o, len) := fieldPos t b
  let v := a.toNat / 2 ^ o % 2 ^ len
  if tyIsSigned t ∧ len ≠ 0 ∧ 2 ^ (len - 1) ≤ v then elemOf t ((v : Int) - 2 ^ len) else BitVec.ofNat 64 v

/-- VBFI's result (R126). -/
def bitInsert (t : BitVec 5) (a b c : Word64) : Word64 :=
  let (o, len) := fieldPos t b
  let m : Word64 := BitVec.ofNat 64 ((2 ^ len - 1) * 2 ^ o)
  (c &&& ~~~m) ||| ((a <<< o) &&& m)

/-- VBFE (R126). -/
def execVbfe (f : LaneOps) (s : State) : Out := laneMap s 0x01C f 2 (fun a b _ => bitExtract f.ty a b)
/-- VBFI (R126). -/
def execVbfi (f : LaneOps) (s : State) : Out := laneMap s 0x01D f 3 (fun a b c => bitInsert f.ty a b c)

/-- Whether a condition of VCMP holds (R53, R127). -/
def cmpInt (cc : BitVec 4) (a b : Int) : Bool :=
  match cc.toNat with
  | 0 => a == b
  | 1 => a != b
  | 2 => decide (a < b)
  | 3 => decide (a ≤ b)
  | 4 => decide (b < a)
  | _ => decide (b ≤ a)

/-- VCMP (R127, R362). -/
def execVcmp (f : LaneOps) (s : State) : Out :=
  laneRun s 0x020 f (fun x => x.poisonSrc f.ty 2) (fun s1 x =>
    s1.endMask x x.c.f f.dest
      (maskOf x.lanes (fun l => cmpInt f.flags (elemInt f.ty (x.srcA f.ty l)) (elemInt f.ty (x.srcB f.ty l)))))

/-- VSEL (R127, R363). -/
def execVsel (f : LaneOps) (s : State) : Out :=
  laneRun s 0x021 f (fun x => if x.maskPoisoned f.c then some 0x03 else x.poisonSrc f.ty 2) (fun s1 x =>
    let m := x.maskIn f.c
    s1.laneEnd x.c (x.write x.c.w f.ty f.dest (fun l => if m.getLsbD l then x.srcA f.ty l else x.srcB f.ty l)) x.c.f)

/-- VMOV (R127). -/
def execVmov (f : LaneOps) (s : State) : Out := laneMap s 0x022 f 1 (fun a _ _ => a)
/-- VLI (R127). -/
def execVli (f : LaneOps) (s : State) : Out := laneMap s 0x023 f 1 (fun a _ _ => a)
/-- VLANE (R127). -/
def execVlane (f : LaneOps) (s : State) : Out :=
  laneRun s 0x024 f (fun _ => none) (fun s1 x =>
    s1.laneEnd x.c (x.write x.c.w f.ty f.dest (fun l => BitVec.ofNat 64 l)) x.c.f)

/-- A mask-family instruction with a mask result (R324). -/
def maskOp (s : State) (op : BitVec 10) (f : LaneOps) (two : Bool) (h : Word64 → Word64 → Word64) : Out :=
  laneRun s op f (fun x => if x.maskPoisoned f.a || (two && x.maskPoisoned f.b) then some 0x03 else none)
    (fun s1 x => s1.endMask x x.c.f f.dest (h (x.maskIn f.a) (x.maskIn f.b)))

/-- MAND (R324). -/
def execMand (f : LaneOps) (s : State) : Out := maskOp s 0x290 f true (fun a b => a &&& b)
/-- MOR (R324). -/
def execMor (f : LaneOps) (s : State) : Out := maskOp s 0x291 f true (fun a b => a ||| b)
/-- MXOR (R324). -/
def execMxor (f : LaneOps) (s : State) : Out := maskOp s 0x292 f true (fun a b => a ^^^ b)
/-- MANDN (R324). -/
def execMandn (f : LaneOps) (s : State) : Out := maskOp s 0x293 f true (fun a b => a &&& ~~~b)
/-- MNOT (R324). -/
def execMnot (f : LaneOps) (s : State) : Out := maskOp s 0x294 f false (fun a _ => ~~~a)
/-- MMOV (R324). -/
def execMmov (f : LaneOps) (s : State) : Out := maskOp s 0x295 f false (fun a _ => a)
/-- MPOPC counts the active lanes of the mask (R324). -/
def execMpopc (f : LaneOps) (s : State) : Out :=
  laneRun s 0x296 f (fun x => if x.maskPoisoned f.a then some 0x03 else none) (fun s1 x =>
    let n := popCount 64 (x.maskIn f.a &&& x.act)
    s1.laneEnd x.c (x.write x.c.w 0x08 f.dest (fun _ => BitVec.ofNat 64 n)) x.c.f)

end Sys2Proof.Machine
end

