-- ==== Sys2Proof/Machine/LaneFloat.lean ====
section
/-! DEFINITION. Lane floating point: arithmetic, compare, class and the correctly rounded functions (R103, R129 to R132,
R311 to R315). -/

namespace Sys2Proof.Machine

open Sys2Proof

/-- A coded result as an element. -/
def codedWord (r : Coded) : Word64 × BitVec 7 := (BitVec.ofNat 64 r.1, r.2)

/-- One operation on f32 or on both halves of a pair (R103). -/
def perElem (t : BitVec 5) (h : Fmt → Nat → Nat → Nat → Coded) (a b c : Word64) : Word64 × BitVec 7 :=
  if tyIsPair t then
    let fm := if t = 0x11 then fmtBf16 else fmtF16
    let half (i : Nat) (v : Word64) : Nat := v.toNat / 2 ^ (16 * i) % 65536
    let lo := h fm (half 0 a) (half 0 b) (half 0 c)
    let hi := h fm (half 1 a) (half 1 b) (half 1 c)
    (BitVec.ofNat 64 (hi.1 * 65536 + lo.1), lo.2 ||| hi.2)
  else codedWord (h fmtF32 (a.toNat % 2 ^ 32) (b.toNat % 2 ^ 32) (c.toNat % 2 ^ 32))

/-- A floating-point instruction of `n` sources, rounded in its mode. -/
def laneFloat (s : State) (op : BitVec 10) (f : LaneOps) (n : Nat) (h : RM → Bool → Fmt → Nat → Nat → Nat → Coded) : Out :=
  laneMapF s op f n (fun fm a b c => perElem f.ty (h (rmOf f.rnd fm) (subnOf fm)) a b c)

/-- FADD (R129). -/
def execFadd (f : LaneOps) (s : State) : Out := laneFloat s 0x100 f 2 (fun rm sb fm a b _ => fm.add rm sb false a b)
/-- FSUB (R129). -/
def execFsub (f : LaneOps) (s : State) : Out := laneFloat s 0x101 f 2 (fun rm sb fm a b _ => fm.add rm sb true a b)
/-- FMUL (R129). -/
def execFmul (f : LaneOps) (s : State) : Out := laneFloat s 0x102 f 2 (fun rm sb fm a b _ => fm.mul rm sb a b)
/-- FFMA (R129). -/
def execFfma (f : LaneOps) (s : State) : Out := laneFloat s 0x103 f 3 (fun rm sb fm a b c => fm.fma rm sb a b c)
/-- FMIN (R129). -/
def execFmin (f : LaneOps) (s : State) : Out := laneFloat s 0x104 f 2 (fun _ sb fm a b _ => fm.minmax false sb a b)
/-- FMAX (R129). -/
def execFmax (f : LaneOps) (s : State) : Out := laneFloat s 0x105 f 2 (fun _ sb fm a b _ => fm.minmax true sb a b)

/-- FCMP of two f32 codes (R130): whether the condition holds, and NV. -/
def fcmpHolds (subn : Bool) (cc : BitVec 4) (a b : Nat) : Bool × BitVec 7 :=
  let x := fmtF32.decode subn a
  let y := fmtF32.decode subn b
  let nan := x.isNan || y.isNan
  let quiet := decide (cc.toNat < 2 ∨ 5 < cc.toNat)
  let nv := if quiet then x.isSnan || y.isSnan else nan
  let o := x.cmp y
  let r := match cc.toNat with
    | 0 => !nan && o == .eq
    | 1 => nan || o != .eq
    | 2 => !nan && o == .lt
    | 3 => !nan && o != .gt
    | 4 => !nan && o == .gt
    | 5 => !nan && o != .lt
    | 6 => !nan
    | _ => nan
  (r, if nv then flNV else 0)

/-- FCMP (R130, R314). -/
def execFcmp (f : LaneOps) (s : State) : Out :=
  laneRun s 0x106 f (fun x => x.poisonSrc f.ty 2) (fun s1 x =>
    let r (l : Nat) := fcmpHolds (subnOf x.q.fmode) f.flags (x.srcA f.ty l).toNat (x.srcB f.ty l).toNat
    s1.endMask x (x.c.f.flag (x.lanes.foldl (fun acc l => acc ||| (r l).2) 0)) f.dest (maskOf x.lanes (fun l => (r l).1)))

/-- The class bit of an f32 code (R131). -/
def classOf (a : Nat) : Word64 :=
  match fmtF32.decode false a with
  | .nan sig => if sig then 0x100 else 0x200
  | .inf n => if n then 0x001 else 0x080
  | .fin n m _ =>
    if m = 0 then (if n then 0x008 else 0x010)
    else if m < 2 ^ 23 then (if n then 0x004 else 0x020)
    else (if n then 0x002 else 0x040)

/-- FCLASS (R131, R313). -/
def execFclass (f : LaneOps) (s : State) : Out := laneMap s 0x107 f 1 (fun a _ _ => classOf a.toNat)

/-- FDIV (R132). -/
def execFdiv (f : LaneOps) (s : State) : Out := laneFloat s 0x108 f 2 (fun rm sb _ a b _ => fDiv rm sb a b)
/-- FSQRT (R132). -/
def execFsqrt (f : LaneOps) (s : State) : Out := laneFloat s 0x109 f 1 (fun rm sb _ a _ _ => fSqrt rm sb a)
/-- FRCP (R132). -/
def execFrcp (f : LaneOps) (s : State) : Out := laneFloat s 0x10A f 1 (fun rm sb _ a _ _ => fRcp rm sb a)
/-- FRSQ (R132). -/
def execFrsq (f : LaneOps) (s : State) : Out := laneFloat s 0x10B f 1 (fun rm sb _ a _ _ => fRsq rm sb a)
/-- FEXP2 (R132). -/
def execFexp2 (f : LaneOps) (s : State) : Out := laneFloat s 0x10C f 1 (fun rm sb _ a _ _ => fExp2 rm sb a)
/-- FLOG2 (R132). -/
def execFlog2 (f : LaneOps) (s : State) : Out := laneFloat s 0x10D f 1 (fun rm sb _ a _ _ => fLog2 rm sb a)
/-- FSIN (R132). -/
def execFsin (f : LaneOps) (s : State) : Out := laneFloat s 0x10E f 1 (fun rm sb _ a _ _ => fSin rm sb a)
/-- FCOS (R132). -/
def execFcos (f : LaneOps) (s : State) : Out := laneFloat s 0x10F f 1 (fun rm sb _ a _ _ => fCos rm sb a)
/-- FTANH (R132). -/
def execFtanh (f : LaneOps) (s : State) : Out := laneFloat s 0x110 f 1 (fun rm sb _ a _ _ => fTanh rm sb a)

end Sys2Proof.Machine
end

