-- ==== Sys2Proof/Machine/LaneConv.lean ====
section
/-! DEFINITION. Conversions: CVT, CVTN, QPACK and QUNPACK (R104, R106, R113 to R116, R304 to R306, R330 to R332). -/

namespace Sys2Proof.Machine

open Sys2Proof

/-- The element type of a pair; itself otherwise. -/
def pairElem (t : BitVec 5) : BitVec 5 := if t = 0x11 then 0x0B else if t = 0x12 then 0x0A else t

/-- The format of a float element type. -/
def fmtOf (t : BitVec 5) : Option Fmt :=
  match t.toNat with
  | 0x0A => some fmtF16 | 0x0B => some fmtBf16 | 0x0C => some fmtF32
  | 0x0D => some fmtF8e4 | 0x0E => some fmtF8e5 | 0x0F => some fmtF4 | _ => none

/-- The range of an integer type. -/
def intRange (t : BitVec 5) : Int × Int :=
  let n := tyBits t
  if tyIsSigned t then (-(2 ^ (n - 1)), 2 ^ (n - 1) - 1) else (0, 2 ^ n - 1)

/-- The low `n` bits of a number. -/
def lowBits (n : Nat) (v : Int) : Nat := (v % 2 ^ n).toNat

/-- Whether infinity narrows: the destination's largest finite value lies below the source's (R114). -/
def narrows (src dst : Fmt) : Bool :=
  match (dst.decode false dst.maxCode).cmp (src.decode false src.maxCode) with | .lt => true | _ => false

/-- Float to float (R113, R114). -/
def cvtFF (src dst : Fmt) (rm : RM) (subn sat : Bool) (v : Nat) : Coded :=
  match src.decode subn v with
  | .nan sig => (dst.nan, if sig || dst.nan = 0 then flNV else 0)
  | .inf n =>
    if dst.hasInf && (!sat || !narrows src dst) then (dst.infCode n, 0)
    else if !dst.hasInf && dst.nan != 0 && !sat then (dst.nan, flNV)
    else (dst.signed n dst.maxCode, flNV)
  | .fin n m e => dst.encode rm subn sat n m e false

/-- Float to integer (R113). -/
def cvtFI (src : Fmt) (t : BitVec 5) (rm : RM) (subn : Bool) (v : Nat) : Coded :=
  let (lo, hi) := intRange t
  let bits (n : Int) : Nat := lowBits (tyBits t) n
  match src.decode subn v with
  | .nan _ => (0, flNV)
  | .inf n => (bits (if n then lo else hi), flNV)
  | .fin n m e =>
    let (r, inexact) := roundInt rm n m (-e) false
    let i : Int := if n then -r else r
    if i < lo then (bits lo, flNV)
    else if hi < i then (bits hi, flNV)
    else (bits i, if inexact then flNX else 0)

/-- One conversion of an element's bits (R113). -/
def convert (src dst : BitVec 5) (rm : RM) (subn sat : Bool) (v0 : Nat) : Coded :=
  let s := pairElem src
  let d := pairElem dst
  let v := v0 % 2 ^ tyBits s
  let num : Int := if tyIsSigned s ∧ 2 ^ (tyBits s - 1) ≤ v then (v : Int) - 2 ^ tyBits s else v
  if s.toNat ≤ 1 ∨ d.toNat ≤ 1 then (v % 2 ^ tyBits d, 0)
  else
    match fmtOf s, fmtOf d with
    | some a, some b => cvtFF a b rm subn sat v
    | some a, none => cvtFI a d rm subn v
    | none, some b => b.encode rm subn sat (decide (num < 0)) num.natAbs 0 false
    | none, none =>
      let (lo, hi) := intRange d
      (lowBits (tyBits d) (if sat then max lo (min hi num) else num), 0)

/-- Places an element in its lane: s8 and s16 are sign-extended (R104). -/
def placed (t : BitVec 5) (v : Nat) : Word64 :=
  if tyIsSigned t ∧ tyBits t < 32 ∧ 2 ^ (tyBits t - 1) ≤ v then BitVec.ofNat 64 (v + 2 ^ 32 - 2 ^ tyBits t)
  else BitVec.ofNat 64 v

/-- The source type of a conversion (R55). -/
def convSrc (f : LaneOps) : BitVec 5 := f.w2.extractLsb' 0 5

/-- The element that CVT takes from a source (R305). -/
def elemOfPair (t : BitVec 5) (flags : BitVec 4) (v : Word64) : Nat :=
  if tyIsPair t ∧ flags.getLsbD 0 then v.toNat / 65536 else v.toNat

/-- CVT of one lane (R305). -/
def cvtLane (f : LaneOps) (fm : BitVec 3) (a b : Word64) : Word64 × BitVec 7 :=
  let t := convSrc f
  let go (v : Word64) := convert t f.ty (rmOf f.rnd fm) (subnOf fm) (f.sat == 1) (elemOfPair t f.flags v)
  let r0 := go a
  if tyIsPair f.ty then
    let r1 := go b
    (BitVec.ofNat 64 (r1.1 * 65536 + r0.1), r0.2 ||| r1.2)
  else (placed f.ty r0.1, r0.2)

/-- CVT (R113, R305). -/
def execCvt (f : LaneOps) (s : State) : Out :=
  let t := convSrc f
  laneRun s 0x120 f (fun x => x.poisonSrc t (if tyIsPair f.ty then 2 else 1)) (fun s1 x =>
    let r (l : Nat) := cvtLane f x.q.fmode (x.selA t l) (x.raw (x.opB t) l)
    s1.laneEnd x.c (x.write x.c.w f.ty f.dest (fun l => (r l).1))
      (x.c.f.flag (x.lanes.foldl (fun acc l => acc ||| (r l).2) 0)))

/-- Whether m · 2^e passes f32's largest finite value. -/
def f32Over (m : Nat) (e : Int) : Bool :=
  match (FVal.fin false m e).cmp (fmtF32.decode false fmtF32.maxCode) with | .gt => true | _ => false

/-- The largest-magnitude finite code, from `c` down, whose value times 2^sh is finite in f32 (R115). -/
def clampCode (f : Fmt) (sh : Int) : Nat → Nat
  | 0 => 0
  | c + 1 =>
    match f.decode false (c + 1) with
    | .fin _ m e => if f32Over m (e + sh) then clampCode f sh c else c + 1
    | _ => clampCode f sh c

/-- x − value(q) · 2^sh, rounded RNE to f32 (R115, R116). R116 says that it is exact where the code is reached without saturation, but under RUP and
RDN it can need more than 24 bits (x = 2^−40, f4, scale 0x7F, RUP); the model rounds it RNE there too, without RESINEXACT (log 118). -/
def residual (neg : Bool) (m : Nat) (e : Int) (f : Fmt) (q : Nat) (sh : Int) : Nat :=
  match f.decode false q with
  | .fin n k d =>
    let (rn, rm, re) := addExact .rne neg m e (!n) k (d + sh)
    (fmtF32.encode .rne false false (rn && rm != 0) rm re false).1
  | _ => fmtF32.nan

/-- CVTN of one lane: the code, the residual and the flags (R115, R116). -/
def cvtnLane (f : Fmt) (rm : RM) (subn sat : Bool) (scale x : Nat) : Nat × Nat × BitVec 7 :=
  let sh : Int := (scale : Int) - 127
  if scale = 0xFF then
    (f.nan, fmtF32.nan, if (fmtF32.decode subn x).isSnan || f.nan = 0 then flNV else 0)
  else
    match fmtF32.decode subn x with
    | .nan sig => (f.nan, fmtF32.nan, if sig || f.nan = 0 then flNV else 0)
    | .inf n =>
      if f.hasInf && !sat then (f.infCode n, fmtF32.nan, 0)
      else (f.signed n (clampCode f sh f.maxCode), x, flRESINEXACT ||| flNV)
    | .fin n m e =>
      let (q, fl) := f.encode rm subn sat n m (e - sh) false
      let beyond := fl &&& flOF != 0 || (match f.decode false q with | .fin _ k d => f32Over k (d + sh) | _ => false)
      if beyond then
        (if f.hasInf && !sat && toInf rm n then (f.infCode n, fmtF32.nan, flOF ||| flNX)
         else
          let c := f.signed n (clampCode f sh f.maxCode)
          (c, residual n m e f c sh, flOF ||| flNX ||| flRESINEXACT))
      else (q, residual n m e f q sh, fl)

/-- CVTN (R115, R306). -/
def execCvtn (f : LaneOps) (s : State) : Out :=
  let scaled := !(f.ty == 0x0A || f.ty == 0x0B)
  laneRun s 0x121 f (fun x => x.poisonSrc 0x0C (if scaled then 2 else 1)) (fun s1 x =>
    let r (l : Nat) := cvtnLane ((fmtOf f.ty).getD fmtF32) (rmOf f.rnd x.q.fmode) (subnOf x.q.fmode) (f.sat == 1)
      (if scaled then (x.raw (x.opB 0x0C) l).toNat % 256 else 127) (x.selA 0x0C l).toNat
    let w := x.write x.c.w f.ty f.dest (fun l => BitVec.ofNat 64 (r l).1)
    s1.laneEnd x.c (x.write w 0x0C f.c (fun l => BitVec.ofNat 64 (r l).2.1))
      (x.c.f.flag (x.lanes.foldl (fun acc l => acc ||| (r l).2.2) 0)))

/-- A 4-bit code as a number. -/
def nibble (v : Nat) : Int := if v % 16 < 8 then ((v % 16 : Nat) : Int) else ((v % 16 : Nat) : Int) - 16

/-- The unscaled values of a pair of q4e codes, and whether the odd slot holds 1000 (R106). -/
def q4eDecode (c n oe : Nat) : Int × Int × Bool :=
  if c % 16 = 8 then
    let m : Int := ((8 + n % 8) * 2 ^ (oe % 16) : Nat)
    (if 8 ≤ n % 16 then -m else m, 0, false)
  else if n % 16 = 8 then (nibble c, 0, true)
  else (nibble c, nibble n, false)

/-- Clamps to −7 to 7. -/
def clamp7 (a : Int) : Int := max (-7) (min 7 a)

/-- QPACK of one lane (R331). -/
def qpackLane (sat : Bool) (a b : Int) (e : Nat) : Nat :=
  let bb := clamp7 b
  let code (inexact : Bool) (lo hi : Nat) : Nat := (if inexact then 256 else 0) + 16 * hi + lo
  if -7 ≤ a ∧ a ≤ 7 then code (bb != b) (lowBits 4 a) (lowBits 4 bb)
  else
    let m := a.natAbs
    let q := m / 2 ^ e
    if sat ∨ q < 8 then code true (lowBits 4 (clamp7 a)) (lowBits 4 bb)
    else
      let q1 := min q 15
      code (bb != b || q1 * 2 ^ e != m || b != 0) 8 ((if a < 0 then 8 else 0) + (q1 - 8))

/-- QPACK (R331). -/
def execQpack (f : LaneOps) (s : State) : Out :=
  laneRun s 0x122 f (fun x => x.poisonSrc 0x04 3) (fun s1 x =>
    s1.laneEnd x.c (x.write x.c.w 0x00 f.dest (fun l =>
      BitVec.ofNat 64 (qpackLane (f.sat == 1) (elemInt 0x04 (x.selA 0x04 l)) (elemInt 0x04 (x.raw (x.opB 0x04) l))
        ((x.raw (x.opC 0x04) l).toNat % 16)))) x.c.f)

/-- QUNPACK (R332). -/
def execQunpack (f : LaneOps) (s : State) : Out :=
  laneRun s 0x123 f (fun x =>
      if (x.poisonSrc 0x10 1).isSome || x.lanes.any (fun l => x.rawPoisoned (x.opC 0x10) l) then some 0x02 else none)
    (fun s1 x =>
      let r (l : Nat) :=
        let b := (x.selA 0x10 l).toNat
        q4eDecode b (b / 16) ((x.raw (x.opC 0x10) l).toNat % 16)
      let w := x.write x.c.w 0x04 f.dest (fun l => elemOf 0x04 (r l).1)
      s1.laneEnd x.c (x.write w 0x04 (f.dest + 1) (fun l => elemOf 0x04 (r l).2.1))
        (x.c.f.flag (if x.lanes.any (fun l => (r l).2.2) then flBADCODE else 0)))

end Sys2Proof.Machine
end

