-- ==== Sys2Proof/Machine/LaneCross.lean ====
section
/-! DEFINITION. Reading across lanes: XBALLOT, XBCAST, XPERM, XRED and XSCAN (R119, R133 to R135, R372, R373). -/

namespace Sys2Proof.Machine

open Sys2Proof

/-- XBALLOT (R133). -/
def execXballot (f : LaneOps) (s : State) : Out :=
  laneRun s 0x280 f (fun x => x.poisonSrc f.ty 1) (fun s1 x =>
    s1.endMask x x.c.f f.dest (maskOf x.lanes (fun l => x.selA f.ty l != 0)))

/-- The lane that B names in lane `l`, in the width and active (R133). -/
def Lane.named (x : Lane) (t : BitVec 5) (l : Nat) : Option Nat :=
  x.within ((x.raw (x.opB t) l).extractLsb' 0 32).toNat

/-- A poisoned selected lane of A, or a poisoned lane of B (R373). -/
def Lane.poisonNamed (x : Lane) (t : BitVec 5) : Option (BitVec 8) :=
  if x.lanes.any (fun l => x.rawPoisoned (x.opB t) l
      || (match x.named t l with | some k => x.rawPoisoned (x.opA t) k | none => false))
  then some 0x02 else none

/-- A of the named lane, or the identity; a poisoned own value is zero (R133, R351). -/
def Lane.take (x : Lane) (t : BitVec 5) (l : Nat) : Word64 :=
  match x.named t l with
  | some k => x.raw (x.opA t) k
  | none => identity t x.ident (if x.rawPoisoned (x.opA t) l then 0 else x.raw (x.opA t) l)

/-- Writes to each active lane the A that its B names. -/
def permute (s : State) (op : BitVec 10) (f : LaneOps) : Out :=
  laneRun s op f (fun x => x.poisonNamed f.ty) (fun s1 x =>
    s1.laneEnd x.c (x.write x.c.w f.ty f.dest (x.take f.ty)) x.c.f)

/-- XBCAST (R133). -/
def execXbcast (f : LaneOps) (s : State) : Out := permute s 0x281 f
/-- XPERM (R133). -/
def execXperm (f : LaneOps) (s : State) : Out := permute s 0x282 f

/-- The combining operation of a reduction: 0 sum, 1 min, 2 max (R134), the flags of its operands kept. -/
def combine (t : BitVec 5) (op : Nat) (rm : RM) (subn : Bool) (x y : Coded) : Coded :=
  let r : Coded :=
    if t = 0x0C then
      (match op with
       | 0 => fmtF32.add rm subn false x.1 y.1
       | 1 => fmtF32.minmax false subn x.1 y.1
       | _ => fmtF32.minmax true subn x.1 y.1)
    else
      let a := elemInt t (BitVec.ofNat 64 x.1)
      let b := elemInt t (BitVec.ofNat 64 y.1)
      ((elemOf t (match op with | 0 => a + b | 1 => min a b | _ => max a b)).toNat, 0)
  (r.1, r.2 ||| x.2 ||| y.2)

/-- The values of all lanes of the width, as coded values. -/
def Lane.redValues (x : Lane) (t : BitVec 5) : List Coded :=
  (List.range x.width).map (fun l => ((x.redA t l).toNat, (0 : BitVec 7)))

/-- An f32 that passes into a result uncombined: subnormals by SUBN, NaNs canonical, NV of a signalling one (R102, R111,
R112; log 33). -/
def readAlone (subn : Bool) (v : Nat) : Coded :=
  let x := fmtF32.decode subn v
  (if x.isNan then fmtF32.nan else fmtF32.asRead v x, if x.isSnan then flNV else 0)

/-- A value of any type as it passes into a result uncombined. -/
def aloneOf (t : BitVec 5) (subn : Bool) (v : Coded) : Coded := if t = 0x0C then readAlone subn v.1 else v

/-- Whether a value orders below another: f32 as FMIN does with every NaN above every number (R135). -/
def idxBelow (t : BitVec 5) (a b : Nat) : Bool :=
  if t = 0x0C then
    let x := fmtF32.decode false a
    let y := fmtF32.decode false b
    !x.isNan && (y.isNan || x.below y)
  else decide (elemInt t (BitVec.ofNat 64 a) < elemInt t (BitVec.ofNat 64 b))

/-- The winner among values with their lanes: the lowest lane of the least, or of the greatest (R135). -/
def idxBest (t : BitVec 5) (greatest : Bool) : Nat × Nat → List (Nat × Nat) → Nat × Nat
  | best, [] => best
  | best, v :: vs =>
    idxBest t greatest (if (if greatest then idxBelow t best.1 v.1 else idxBelow t v.1 best.1) then v else best) vs

/-- XRED (R134, R135). -/
def execXred (f : LaneOps) (s : State) : Out :=
  laneRun s 0x283 f (fun x => x.poisonSrc f.ty 1) (fun s1 x =>
    let vs := x.redValues f.ty
    let subn := subnOf x.q.fmode
    if x.act = 0 then s1.laneEnd x.c x.c.w x.c.f
    else if f.flags.toNat < 3 then
      let r := treeSum (combine f.ty f.flags.toNat (rmOf f.rnd x.q.fmode) subn) vs
      s1.laneEnd x.c (x.write x.c.w f.ty f.dest (fun _ => BitVec.ofNat 64 r.1)) (x.c.f.flag r.2)
    else
      let rs := vs.map (aloneOf f.ty subn)
      let ps := rs.zipIdx.map (fun p => (p.1.1, p.2))
      let best := idxBest f.ty (f.flags == 4) (ps.headD (0, 0)) ps.tail
      let w := x.write x.c.w f.ty f.dest (fun _ => BitVec.ofNat 64 best.1)
      s1.laneEnd x.c (x.write w 0x08 (f.dest + 1) (fun _ => BitVec.ofNat 64 best.2))
        (x.c.f.flag (rs.foldl (fun acc r => acc ||| r.2) 0)))

/-- The prefixes of a list under an operation, from a first value. -/
def prefixes {α : Type} (op : α → α → α) : α → List α → List α
  | acc, [] => [acc]
  | acc, v :: vs => acc :: prefixes op (op acc v) vs

/-- What XSCAN gives each lane (R134). -/
def scanValues (t : BitVec 5) (op : Nat) (excl : Bool) (rm : RM) (subn : Bool) (ident : Nat) (vs : List Coded) : List Coded :=
  match vs with
  | [] => []
  | v :: rest =>
    let ps := prefixes (combine t op rm subn) (aloneOf t subn v) rest
    if excl then
      let own := identity t (match op with | 0 => 0 | 1 => 5 | _ => 6) 0
      ((if ident = 7 then own else identity t ident 0).toNat, 0) :: ps
    else ps

/-- XSCAN: the flags are those of the additions that a written lane holds (R134). -/
def execXscan (f : LaneOps) (s : State) : Out :=
  laneRun s 0x284 f (fun x => x.poisonSrc f.ty 1) (fun s1 x =>
    let op := (f.flags.extractLsb' 0 3).toNat
    let rs := scanValues f.ty op (f.flags.getLsbD 3) (rmOf f.rnd x.q.fmode) (subnOf x.q.fmode) x.ident
      (x.redValues f.ty)
    let r (l : Nat) : Coded := rs.getD l (0, 0)
    s1.laneEnd x.c (x.write x.c.w f.ty f.dest (fun l => BitVec.ofNat 64 (r l).1))
      (x.c.f.flag (x.lanes.foldl (fun acc l => acc ||| (r l).2) 0)))

end Sys2Proof.Machine
end

