-- ==== Sys2Proof/Machine/Copy.lean ====
section
/-! DEFINITION. The block-transfer engine: CPSTART, CPTEST, EFENCE, and the firing, landing and completion of copies
(R178 to R187, R301 to R303, R308). Collectives' results are computed in Machine/Collective.lean. -/

namespace Sys2Proof.Machine

open Sys2Proof

/-! ## Template fields (R181) -/

def tmplSrc (t : BitVec 512) : Nat := (t.extractLsb' 448 64).toNat
def tmplDst (t : BitVec 512) : Nat := (t.extractLsb' 384 64).toNat
def tmplBitmap (t : BitVec 512) : Word64 := t.extractLsb' 320 64
def tmplCword (t : BitVec 512) : Word64 := t.extractLsb' 256 64
def tmplSrcPtr (t : BitVec 512) : Nat := (t.extractLsb' 192 32).toNat
def tmplDstPtr (t : BitVec 512) : Nat := (t.extractLsb' 160 32).toNat
def tmplSrcRing (t : BitVec 512) : Nat := (t.extractLsb' 155 5).toNat
def tmplDstRing (t : BitVec 512) : Nat := (t.extractLsb' 150 5).toNat
def tmplSrcSp (t : BitVec 512) : Bool := t.getLsbD 136
def tmplDstSp (t : BitVec 512) : Bool := t.getLsbD 135
def tmplCop (t : BitVec 512) : Nat := (t.extractLsb' 116 2).toNat
def tmplCtype (t : BitVec 512) : BitVec 5 := t.extractLsb' 111 5

/-- Command-word fields (R180). -/
def cmdP1 (w : Word64) : Nat := (w.extractLsb' 36 28).toNat
def cmdP0 (w : Word64) : Nat := (w.extractLsb' 8 28).toNat
def cmdTmpl (w : Word64) : Nat := (w.extractLsb' 0 8).toNat

/-- A ring size field that is no ring size (R181). -/
def badRing (r : Nat) : Bool := decide ((1 ≤ r ∧ r ≤ 8) ∨ 19 < r)

/-- A side's start is out of the range of its space (R181). -/
def sideRange (sp : Bool) (start : Nat) : Bool := if sp then decide (2 ^ 19 ≤ start) else decide (2 ^ 57 ≤ start)

/-- The collective element types: s32, z32, s64, z64, f32, bf16 (R181). -/
def collTypes : List Nat := [0x04, 0x08, 0x05, 0x09, 0x0C, 0x0B]

/-- A malformed template or parameters (R180, R181): FLT_RECORD, SUB 0x32. -/
def tmplBad (s : State) (part : Nat) (w : Word64) (t : BitVec 512) : Bool :=
  let n := tmplBytes t
  t.extractLsb' 0 111 != 0 || t.extractLsb' 127 8 != 0
    || badRing (tmplSrcRing t) || badRing (tmplDstRing t)
    || (tmplSrcRing t != 0 && !tmplSrcSp t) || (tmplDstRing t != 0 && !tmplDstSp t)
    || (tmplSrcRing t != 0 && decide (2 ^ tmplSrcRing t < n)) || (tmplDstRing t != 0 && decide (2 ^ tmplDstRing t < n))
    || decide (n < 16 ∨ 16777216 < n ∨ n % 16 ≠ 0)
    || decide (cmdP0 w % 16 ≠ 0 ∨ cmdP1 w % 16 ≠ 0)
    || (tmplSrcRing t != 0 && cmdP0 w != 0) || (tmplDstRing t != 0 && cmdP1 w != 0)
    || sideRange (tmplSrcSp t) (tmplSrc t + cmdP0 w) || sideRange (tmplDstSp t) (tmplDst t + cmdP1 w)
    || decide ((tmplBitmap t).toNat % 8 ≠ 0 ∨ (tmplCword t).toNat % 8 ≠ 0)
    || decide (tmplSrcPtr t % 8 ≠ 0 ∨ tmplDstPtr t % 8 ≠ 0)
    || (if tmplColl t then
          tmplSrcRing t != 0 || tmplDstRing t != 0 || tmplCop t == 3 || !collTypes.contains (tmplCtype t).toNat
            || decide (n % (tyBits (tmplCtype t) / 8) ≠ 0)
            || !(match s.part? part with | some p => p.groups.any (fun g => g.num == tmplGroup t) | none => false)
        else tmplGroup t != 0 || tmplCop t != 0 || tmplCtype t != 0)

/-- A scratchpad side, ring or pointer pair beyond the allocation (R179): FLT_SCRATCH_RANGE, SUB 0x03. -/
def tmplBeyond (alloc : Nat) (w : Word64) (t : BitVec 512) : Bool :=
  let side (sp : Bool) (ring start ptr : Nat) : Bool :=
    sp && (if ring = 0 then decide (alloc < start + tmplBytes t)
           else decide (alloc < start + 2 ^ ring ∨ alloc < ptr + 8))
  side (tmplSrcSp t) (tmplSrcRing t) (tmplSrc t + cmdP0 w) (tmplSrcPtr t)
    || side (tmplDstSp t) (tmplDstRing t) (tmplDst t + cmdP1 w) (tmplDstPtr t)

/-- Checks 2 to 5 of R179. -/
def cmdFault (s : State) (c : Cur) (w : Word64) : Option (BitVec 8 × BitVec 8) :=
  match c.j.tmpls[cmdTmpl w]? with
  | none => some (fltRecord, 0x31)
  | some t =>
    if tmplBad s c.j.ref.part w t then some (fltRecord, 0x32)
    else if tmplBeyond c.j.scratchSize w t then some (fltScratch, 0x03)
    else if tmplBaren t && ((c.j.barrier? (tmplBarrier t)).isNone || (c.w.member? (tmplBarrier t)).isNone) then
      some (fltBarrier, 0x01)
    else none

/-- The unfired commands of a channel of a core, in acceptance order (R182). -/
def State.chanQueue (s : State) (core chan : Nat) : List Cmd :=
  s.cmds.filter (fun x => x.core == core && x.chan == chan && !x.fired && x.error.isNone)

/-- The channel a physical address names (R178). -/
def chanOf (pa : Nat) : Option Nat :=
  match regionOf pa with
  | .channels off => if off < 0x40 ∧ off % 8 = 0 then some (off / 8) else none
  | _ => none

/-- Whether a command has the acquire flag, its scope, and whether it releases at system scope (R172, R173, R177, R181). -/
def tmplAcq (t : BitVec 512) : Bool := t.getLsbD 138
def tmplScope (t : BitVec 512) : BitVec 2 := t.extractLsb' 139 2
/-- Whether a side of a command is a ring (R172, R182). -/
def tmplRings (t : BitVec 512) : Bool := tmplSrcRing t != 0 || tmplDstRing t != 0
def tmplReleases (t : BitVec 512) : Bool := t.getLsbD 137 && tmplScope t == 3

/-- The naturally aligned 8-byte unit that a source or destination byte stands in (R167). -/
def unitOf (b : SrcByte) : Bool × Nat := (b.1, b.2 / 8)

/-- What a fragment has read ahead that may count for a command: without the acquire flag all of it, with it what stands in host or peer memory,
outside the total order, unless its scope is the system (R172, R177); a command with a ring reads nothing before it fires. -/
def earlyReads (t : BitVec 512) (xs : List (Nat × Bool × SrcByte × Byte)) : List (Nat × Bool × SrcByte × Byte) :=
  if tmplRings t then [] else xs.filter (fun x => !tmplAcq t || (x.2.1 && tmplScope t != 3))

/-- Of each unit that has been read ahead a command takes one reading, or none of them: a free choice (R172). -/
def State.takeEarly (s : State) (xs : List (Nat × Bool × SrcByte × Byte)) : List (Nat × Bool × SrcByte × Byte) :=
  xs.filter (fun x =>
    let u := unitOf x.2.2.1
    let steps := ((xs.filter (fun y => unitOf y.2.2.1 == u)).map (fun y => y.1)).eraseDups
    steps[s.choose (2 ^ 72 + 2 * u.2 + (if u.1 then 1 else 0)) (steps.length + 1)]? == some x.1)

/-- Accepts a command into its channel, a collective one counted on its group (R178, R179, R269), with what was read ahead for it (R172). -/
def State.accept (s : State) (c : Cur) (chan : Nat) (addr w : Word64) (t : BitVec 512) : State :=
  let (n, s1) := s.nextSerial
  let part := c.j.ref.part
  let group := (s.part? part).bind (fun p => p.groups.find? (fun x => x.num == tmplGroup t))
  let s2 := s1.modWg c.g.ref (fun g => { g with accepted := g.accepted.set chan (g.accepted.get chan + 1) })
  let s3 := if tmplColl t then s2.countGroup part (tmplGroup t) (· + 1) else s2
  let early := s.takeEarly (earlyReads t c.f.snaps)
  { s3 with cmds := s3.cmds ++
      [{ id := n, wg := c.g.ref, wave := c.w.ref.wave, frag := c.f.ref.frag, owners := [c.f.ref.frag]
         core := c.g.coreId, chan := chan, word := w, tmpl := t, pc := addr, fired := false, landed := []
         bitDue := none, squashed := false, error := none, srcPtr := 0, dstPtr := 0, fault := none
         tailDone := false, headDone := false, result := none, nth := match group with | some x => x.count | none => 0
         seen := early.map (fun x => x.2.2), far := (early.filter (fun x => x.2.1)).map (fun x => x.2.2.1) }] }

/-- CPSTART at an address that has translated (R179, R301): checks, the stall on a full buffer, acceptance. -/
def State.cpstart (s : State) (c : Cur) (p : Phys) (addr w : Word64) : State :=
  match chanOf p.pa with
  | none => s.trapScalar c fltRecord 0x30 addr
  | some chan =>
    match cmdFault s c w with
    | some (flt, sub) => s.trapScalar c flt sub addr
    | none =>
      if 32 ≤ (s.chanQueue c.g.coreId chan).length then s
      else (s.accept c chan addr w (c.j.tmpls.getD (cmdTmpl w) 0)).setFrag c.f.next

/-- CPSTART (R179, R301). -/
def execCpstart (a b : BitVec 6) (s : State) : Out :=
  scalarRun s { regs := [a, b], reads := [a, b], mem := true } (fun c =>
    match s.translate (s.who c true) (c.f.s a) .write with
    | .error e => s.pageScalar c e (c.f.s a) .write
    | .ok p => s.cpstart c p (c.f.s a) (c.f.s b))

/-- An aligned 64-bit load of a scalar instruction: FLT_ALIGN, then translation (R149, R342). -/
def State.loadScalar (s : State) (c : Cur) (va : Word64) (k : Cur → Word64 → State) : State :=
  if va.toNat % 8 ≠ 0 then s.trapScalar c fltAlign 0 va
  else
    let who := s.who c true
    match s.locGlobal who va .read with
    | .error e => s.pageScalar c e va .read
    | .ok l => k { c with f := { c.f with peeks := s.takePeek l c.f.peeks } } (BitVec.ofNat 64 (s.readLoc who c.g l 8))

/-- CPTEST (R187, R303); its result is one of the log (R257). -/
def execCptest (any : BitVec 1) (d a b : BitVec 6) (s : State) : Out :=
  scalarRun s { regs := [d, a, b], reads := [a, b], mem := true } (fun c =>
    s.loadScalar c (c.f.s a) (fun c w =>
      let m := c.f.s b
      let r : Word64 := if (if any = 1 then w &&& m ≠ 0 else w &&& m = m) then 1 else 0
      s.logged c [{ lane := 0, kind := 5, value := r }] (fun s1 vs => s1.putS c d (vs.headD 0))))

/-- Whether a command precedes a fragment's present instruction in its program order (R28, R186). -/
def Cur.owns (c : Cur) (x : Cmd) : Bool := x.wg == c.g.ref && x.wave == c.w.ref.wave && x.owners.contains c.f.ref.frag

/-- A command that a fence precedes in program order reads after it: of host and peer memory only at system scope (R172, R177, R186). -/
def Cmd.readAfter (x : Cmd) (scope : BitVec 2) : Cmd :=
  if scope = 3 then { x with seen := [], far := [] } else { x with seen := x.seen.filter (fun y => x.far.contains y.1) }

/-- The fragment past a fence: reads ahead of it count for no later command, and at system scope for no load (R172, R177). -/
def Frag.pastFence (f : Frag) (scope : BitVec 2) (now : Nat) : Frag :=
  { f with fenced := now
           sysFenced := if scope = 3 then now else f.sysFenced
           snaps := if scope = 3 then [] else f.snaps.filter (fun x => x.2.1)
           peeks := if scope = 3 then [] else f.peeks }

/-- What a fence leaves behind it. -/
def State.fenceReads (s : State) (c : Cur) (scope : BitVec 2) : State :=
  let s1 : State := { s with cmds := s.cmds.map (fun (x : Cmd) => if c.owns x && !x.fired then x.readAfter scope else x) }
  s1.setFrag (c.f.next.pastFence scope s.fresh)

/-- EFENCE waits for the fired commands that precede it in its fragment's program order (R186, R308); the fragment's matrix work has entered
the engine before it issues (R140, `State.runFrag`). At system scope the remote writes that precede it in its fragment's program order arrive first (R28, R177, log 30). -/
def execEfence (scope : BitVec 2) (s : State) : Out :=
  scalarRun s { mem := true } (fun c =>
    if s.cmds.any (fun x => c.owns x && x.fired) then s.setFrag { c.f with slot := .waiting .efence }
    else (if scope = 3 then s.landOwn c.f.ref else s).fenceReads c scope)

/-! ## Places of a command's bytes -/

/-- The engine's party: the job of the command. Of the payload accesses of a command that retries, those of the chunk that faulted walk afresh
(R163). -/
def Cmd.who (c : Cmd) (j : Job) (chunk : Option Nat := none) : Who :=
  { job := j.ref, s1root := j.s1root, kernel := j.kernel, wg := some c.wg, walked := c.walked, afresh := c.afresh && c.stuck == chunk }

/-- A command after one of its accesses: what was read ahead of it is used up, and it walks afresh no more where it was the one that faulted. -/
def Cmd.accessed (c : Cmd) (chunk : Option Nat := none) : Cmd :=
  { c with walked := [], afresh := c.afresh && c.stuck != chunk }

/-- Where byte `o` of a side stands: in a ring it wraps (R183). -/
def sideAt (sp : Bool) (ring start p : Nat) (ptr : BitVec 32) (o : Nat) : Bool × Nat :=
  if ring = 0 then (sp, start + p + o) else (sp, start + (ptr.toNat + o) % 2 ^ ring)

/-- Source and destination of byte `o`. -/
def Cmd.srcAt (c : Cmd) (o : Nat) : Bool × Nat :=
  sideAt (tmplSrcSp c.tmpl) (tmplSrcRing c.tmpl) (tmplSrc c.tmpl) (cmdP0 c.word) c.srcPtr o
def Cmd.dstAt (c : Cmd) (o : Nat) : Bool × Nat :=
  sideAt (tmplDstSp c.tmpl) (tmplDstRing c.tmpl) (tmplDst c.tmpl) (cmdP1 c.word) c.dstPtr o

/-- The place of a scratchpad or global address of an engine, with the address a fault names. -/
def State.engineLoc (s : State) (w : Who) (g : Wg) (at' : Bool × Nat) (u : Use) : Except (PageFault × Word64) Loc :=
  let r := if at'.1 then s.locScratch w g at'.2 u else s.locGlobal w (BitVec.ofNat 64 at'.2) u
  match r with
  | .ok l => .ok l
  | .error e => .error (e, if at'.1 then (g.stashAddr at'.2).getD 0 else BitVec.ofNat 64 at'.2)

/-- The places of `n` bytes from byte `o` of a side. -/
def State.engineLocs (s : State) (w : Who) (g : Wg) (side : Nat → Bool × Nat) (u : Use) (o : Nat) :
    Nat → Except (PageFault × Word64) (List Loc)
  | 0 => .ok []
  | n + 1 =>
    match s.engineLoc w g (side o) u with
    | .error e => .error e
    | .ok l =>
      match s.engineLocs w g side u (o + 1) n with
      | .error e => .error e
      | .ok ls => .ok (l :: ls)

/-- Stores a number of `n` bytes; in host and peer memory it may arrive later (R177). -/
def State.storeAt (s : State) (x : Writer) (l : Loc) (n v : Nat) : State :=
  if s.arrivesLate l then s.sendLate x l n v else s.storePlain x.wg l n v

/-- Stores bytes at their places. -/
def State.storeLocs (s : State) (x : Writer) : List (Loc × Byte) → State
  | [] => s
  | (l, b) :: ls => (s.storeAt x l 1 b.toNat).storeLocs x ls

/-- Sets a bit of a word, as one atomic OR; in host and peer memory it may arrive later (R177, R183). -/
def State.setBit (s : State) (x : Writer) (w : Who) (g : Wg) (l : Loc) (i : Nat) : State :=
  if s.arrivesLate l then s.sendLate x l 8 (2 ^ i) true else s.storePlain x.wg l 8 (s.readLoc w g l 8 ||| 2 ^ i)

/-! ## Accesses of a command ahead of its chunks' landing (R172, R173) -/

/-- What stands at `n` places of a side from byte `o`, each under its address; none where one does not translate. -/
def State.sideBytes (s : State) (w : Who) (g : Wg) (side : Nat → SrcByte) (o n : Nat) : Option (List (SrcByte × Byte)) :=
  match s.engineLocs w g side .read o n with
  | .error _ => none
  | .ok ls => some ((ls.zipIdx).map (fun x => (side (o + x.2), s.locByte w g x.1 0)))

/-- Newer readings before older ones. -/
def freshen (new old : List (SrcByte × Byte)) : List (SrcByte × Byte) := new ++ old.filter (fun x => !new.any (fun y => y.1 == x.1))

/-- Which of them stand in host or peer memory. -/
def State.sideFar (s : State) (w : Who) (g : Wg) (side : Nat → SrcByte) (o n : Nat) : List SrcByte :=
  match s.engineLocs w g side .read o n with
  | .error _ => []
  | .ok ls => (ls.zipIdx.filter (fun x => s.isRemote x.1)).map (fun x => side (o + x.2))

/-- How many offsets before `o`, and how many from `o` up to a limit, stand in the unit of byte `o` of a side. -/
def unitBefore (side : Nat → SrcByte) (o : Nat) : Nat :=
  ((List.range (min o 7)).filter (fun i => unitOf (side (o - 1 - i)) == unitOf (side o))).length
def unitFrom (side : Nat → SrcByte) (o limit : Nat) : Nat :=
  ((List.range (min 8 (limit - o))).filter (fun i => unitOf (side (o + i)) == unitOf (side o))).length

/-- A fragment's read of an 8-byte unit ahead of a CPSTART: it follows its last EFENCE, of host and peer memory the last at system scope; other
readings of the unit stay beside it, since each command may take another (R172, R177). -/
def State.snapshot (s : State) (r : FragRef) (sp : Bool) (addr : Nat) : State :=
  match s.look r with
  | none => s
  | some c =>
    let a := addr / 8 * 8
    if 4 ≤ c.g.die ∨ (sp ∧ c.j.scratchSize < a + 8) then s
    else
      let w : Who := { s.who c false with own := none, peeks := [], afresh := false }
      let side (o : Nat) : SrcByte := (sp, a + o)
      match s.sideBytes w c.g side 0 8 with
      | none => s
      | some xs => s.setFrag { c.f with
          snaps := c.f.snaps ++ xs.map (fun x => (s.fresh, !(s.sideFar w c.g side 0 8).isEmpty, x)) }

/-- A command's read of a source unit, as one access (R167), at some point after its CPSTART, or of a command with a ring after its firing
(R172). -/
def State.engineRead (s : State) (cmd o : Nat) : State :=
  match s.cmd? cmd with
  | none => s
  | some c =>
    match s.job? c.wg.job, s.wg? c.wg with
    | some j, some g =>
      if c.fault.isSome || c.error.isSome || c.squashed || (tmplRings c.tmpl && !c.fired) || decide (tmplBytes c.tmpl ≤ o)
          || decide (0 < unitBefore c.srcAt o) then s
      else
        let w := c.who j (some (o / 512))
        let n := unitFrom c.srcAt o (tmplBytes c.tmpl)
        match s.sideBytes w g c.srcAt o n with
        | none => s
        | some xs => s.setCmd { c with
            seen := freshen xs c.seen, walked := []
            far := c.far.filter (fun x => !xs.any (fun y => y.1 == x)) ++ s.sideFar w g c.srcAt o n }
    | _, _ => s

/-- What a read of `n` source bytes from byte `o` takes of the units at its two ends beyond them, where it has not read it before: each unit is
one access, so the command keeps the rest of it (R167). -/
def State.endUnits (s : State) (c : Cmd) (w : Who) (g : Wg) (o n : Nat) : List (SrcByte × Byte) :=
  let lo := unitBefore c.srcAt o
  let hi := unitFrom c.srcAt (o + n - 1) (tmplBytes c.tmpl) - 1
  let part (at' k : Nat) : List (SrcByte × Byte) := if k = 0 then [] else (s.sideBytes w g c.srcAt at' k).getD []
  (part (o - lo) lo ++ part (o + n) hi).filter (fun x => !c.seen.any (fun y => y.1 == x.1))

/-- The value of a source byte: as it was read ahead, or as it stands. -/
def Cmd.srcByte (c : Cmd) (o : Nat) (now : Byte) : Byte :=
  match c.seen.find? (fun x => x.1 == c.srcAt o) with | some x => x.2 | none => now

/-- The source bytes of a part of a chunk. -/
def State.srcBytes (s : State) (c : Cmd) (w : Who) (g : Wg) (o n : Nat) : Except (PageFault × Word64) (List Byte) :=
  match c.result with
  | some r => .ok (r.list o n)
  | none =>
    match s.engineLocs w g c.srcAt .read o n with
    | .error e => .error e
    | .ok ls => .ok (ls.zipIdx.map (fun x => c.srcByte (o + x.2) (s.locByte w g x.1 0)))

/-- The bytes from offset `o` that are still to be written: not ahead of their chunk, nor with one that has landed. -/
def Cmd.unwritten (c : Cmd) (o : Nat) (xs : List (Loc × Byte)) : List (Loc × Byte) :=
  (xs.zipIdx.filter (fun x => !c.wrote.contains (o + x.2) && !c.landed.contains ((o + x.2) / 512))).map (fun x => x.1)

/-- The next page-table read of a command's access comes ahead of it (R166). -/
def State.engineWalk (s : State) (cmd : Nat) (va : Word64) : State :=
  match s.cmd? cmd with
  | none => s
  | some c =>
    match s.job? c.wg.job with
    | none => s
    | some j => if c.fault.isSome || c.squashed then s else s.setCmd { c with walked := s.readOn (c.who j) va }

/-- A page fault of a command goes to the fault queue with ISSUER 2, and the command waits (R185); `chunk` is the chunk whose payload faulted. -/
def State.cmdPage (s : State) (c : Cmd) (j : Job) (e : PageFault) (va : Word64) (u : Use) (chunk : Option Nat := none) : State :=
  let (tok, s1) := s.nextSerial
  let s2 := s1.setCmd { c with fault := some tok, stuck := chunk, walked := [] }
  s2.modDie (c.core / 64) (fun d => { d with fq := d.fq.post (
    { vaddr := va, ipa := BitVec.ofNat 64 e.ipa, pc := c.pc, job := j.ref, waveid := 0, waiters := 1, seq := 0
      issuer := 2, gone := false, write := u == .write, fetch := false, kmode := j.kernel, cause := e.cause
      opened := true, who := [.cmd c.id tok] } : FqEntry) })

/-- Wakes the fragments of a workgroup that wait in EFENCE; each executes it again (R33, R308). -/
def State.wakeEfence (s : State) (g : WgRef) : State :=
  { s with frags := s.frags.map (fun (f : Frag) =>
      if f.ref.wave.wg = g ∧ f.slot = Slot.waiting Wait.efence then { f with slot := .ready } else f) }

/-- A command is complete: EFENCE and retirement wait for it no further (R185). -/
def State.cmdDone (s : State) (c : Cmd) : State :=
  ({ s with cmds := s.cmds.filter (fun x => x.id != c.id) }).wakeEfence c.wg

/-- A pointer pair's HEAD and TAIL counts, or the page fault of their read, with its address (R182, R185). -/
def State.pairAt (s : State) (w : Who) (g : Wg) (off : Nat) : Except (PageFault × Word64) Word64 :=
  match s.locScratch w g off .read with
  | .error e => .error (e, (g.stashAddr off).getD 0)
  | .ok l => .ok (BitVec.ofNat 64 (s.readLoc w g l 8))

/-- The page fault of a command's read of a pointer pair, the source ring's first (R155, R185). -/
def State.pairFault (s : State) (c : Cmd) (j : Job) (g : Wg) : Option (PageFault × Word64) :=
  let of' (ring ptr : Nat) : Option (PageFault × Word64) :=
    if ring = 0 then none else match s.pairAt (c.who j) g ptr with | .error e => some e | .ok _ => none
  match of' (tmplSrcRing c.tmpl) (tmplSrcPtr c.tmpl) with
  | some e => some e
  | none => of' (tmplDstRing c.tmpl) (tmplDstPtr c.tmpl)

/-- Whether the rings of a command let it fire (R182). -/
def State.ringsAllow (s : State) (c : Cmd) (j : Job) (g : Wg) : Bool :=
  let n := tmplBytes c.tmpl
  let w := c.who j
  (tmplSrcRing c.tmpl == 0 || (match s.pairAt w g (tmplSrcPtr c.tmpl) with
    | .ok v => decide (n ≤ (pairCount v).toNat) | .error _ => false))
  && (tmplDstRing c.tmpl == 0 || (match s.pairAt w g (tmplDstPtr c.tmpl) with
    | .ok v => decide ((pairCount v).toNat + n ≤ 2 ^ tmplDstRing c.tmpl) | .error _ => false))

/-- Whether two commands of one workgroup name the same pointer pair in the same role (R182). -/
def Cmd.samePair (x y : Cmd) : Bool :=
  x.wg == y.wg
    && ((tmplSrcRing x.tmpl != 0 && tmplSrcRing y.tmpl != 0 && tmplSrcPtr x.tmpl == tmplSrcPtr y.tmpl)
        || (tmplDstRing x.tmpl != 0 && tmplDstRing y.tmpl != 0 && tmplDstPtr x.tmpl == tmplDstPtr y.tmpl))

/-- Whether a command meets the three conditions of R182: it waits for no verdict, its rings allow it, and no fired command of the
core names its pointer pairs in the same role. -/
def State.meetsAll (s : State) (c : Cmd) (j : Job) (g : Wg) : Bool :=
  c.fault.isNone && s.ringsAllow c j g && !s.cmds.any (fun x => x.core == c.core && x.fired && x.samePair c)

/-- Whether the head command of a channel fires now: it meets the conditions, and no lower channel's head that meets them as well
competes for a pointer pair (R182). -/
def State.mayFire (s : State) (c : Cmd) (j : Job) (g : Wg) : Bool :=
  s.meetsAll c j g
    && !(List.range c.chan).any (fun k =>
          match (s.chanQueue c.core k).head? with
          | some x => x.samePair c && s.meetsAll x j g
          | none => false)

/-- COPY_FIRE: the head command of a channel fires, taking its ring positions (R182, R183); a page fault of its read of a pointer
pair goes to the fault queue (R185); no change where it may not fire. -/
def execCopyFire (core : BitVec 8) (chan : BitVec 3) (s : State) : Out :=
  .next (
    match (s.chanQueue core.toNat chan.toNat).head? with
    | none => s
    | some c =>
      match s.job? c.wg.job, s.wg? c.wg with
      | some j, some g =>
        let unread := if c.fault.isSome then none else s.pairFault c j g
        if let some (e, va) := unread then s.cmdPage c j e va .read
        else if s.mayFire c j g then
          let w := c.who j
          let src := if tmplSrcRing c.tmpl = 0 then 0 else
            match s.pairAt w g (tmplSrcPtr c.tmpl) with | .ok v => v.extractLsb' 32 32 | .error _ => 0
          let dst := if tmplDstRing c.tmpl = 0 then 0 else
            match s.pairAt w g (tmplDstPtr c.tmpl) with | .ok v => v.extractLsb' 0 32 | .error _ => 0
          let s1 := s.setCmd { c.accessed with fired := true, srcPtr := src, dstPtr := dst }
          s1.modWg g.ref (fun x => { x with fired := x.fired.set c.chan (x.fired.get c.chan + 1) })
        else s
      | _, _ => s)

/-- Sets a landed chunk's bitmap bit, an atomic OR, then subtracts its bytes from the barrier (R183). -/
def State.chunkBit (s : State) (c : Cmd) (j : Job) (g : Wg) (i : Nat) : State :=
  let done (s1 : State) : State :=
    let s2 := s1.setCmd { c.accessed with bitDue := none }
    if tmplBaren c.tmpl then s2.subtractBytes j.ref (tmplBarrier c.tmpl) (chunkSize c.tmpl i) else s2
  if tmplBitmap c.tmpl = 0 then done s
  else
    let va := tmplBitmap c.tmpl + BitVec.ofNat 64 (8 * (i / 64))
    let w := c.who j
    match s.locGlobal w va .write with
    | .error e => s.cmdPage { c with bitDue := some i } j e va .write
    | .ok l => done (s.setBit c.writer w g l (i % 64))

/-- Whether a chunk may land: a fired command without fault or error, the chunk among the 64 in flight (R248), and a
collective's result there (R269). -/
def Cmd.mayLand (c : Cmd) (i : Nat) : Bool :=
  c.fired && c.fault.isNone && c.error.isNone && c.bitDue.isNone && !c.squashed
    && decide (i < tmplChunks c.tmpl) && !c.landed.contains i
    && (!tmplColl c.tmpl || c.result.isSome)
    && (List.range (i - 63)).all (fun k => c.landed.contains k)

/-- Writes the payload units that hold the `n` bytes from offset `o`, each whole and as one access, where they have not been written yet
(R167); the command as it then stands. -/
def State.payload (s : State) (c : Cmd) (j : Job) (g : Wg) (o n : Nat) : Except (PageFault × Word64 × Use) (State × Cmd) :=
  let w := c.who j (some (o / 512))
  let lo := unitBefore c.dstAt o
  let o1 := o - lo
  let n1 := lo + (n - 1) + unitFrom c.dstAt (o + n - 1) (tmplBytes c.tmpl)
  match s.srcBytes c w g o1 n1 with
  | .error (e, va) => .error (e, va, .read)
  | .ok bs =>
    match s.engineLocs w g c.dstAt .write o1 n1 with
    | .error (e, va) => .error (e, va, .write)
    | .ok ls =>
      .ok (s.storeLocs c.writer (c.unwritten o1 (ls.zip bs)),
        { c with walked := [], wrote := c.wrote ++ ((List.range n1).map (fun i => o1 + i)).filter (fun k => !c.wrote.contains k)
                 seen := c.seen ++ s.endUnits c w g o1 n1 })

/-- A chunk's bytes are read and written, then its bit and its bytes are counted (R173, R183). A chunk whose bit waited for a verdict goes on from
there. -/
def State.landChunk (s : State) (cmd chunk : Nat) : State :=
  match s.cmd? cmd with
  | none => s
  | some c =>
    match s.job? c.wg.job, s.wg? c.wg with
    | some j, some g =>
      if c.bitDue = some chunk ∧ c.fault = none ∧ c.error = none then s.chunkBit c j g chunk
      else if c.mayLand chunk then
        match s.payload c j g (512 * chunk) (chunkSize c.tmpl chunk) with
        | .error (e, va, u) => s.cmdPage c j e va u (some chunk)
        | .ok (s1, c0) =>
          let c1 := { c0.accessed (some chunk) with
            landed := c.landed ++ [chunk], wrote := c0.wrote.filter (fun k => k / 512 != chunk) }
          (s1.setCmd c1).chunkBit c1 j g chunk
      else s
    | _, _ => s

/-- CHUNK_LAND (R173, R183). -/
def execChunkLand (cmd chunk : Nat) (s : State) : Out := .next (s.landChunk cmd chunk)

/-- The chunks of a fired command that have been started: bytes of them are read or written, and they have not landed. -/
def Cmd.started (c : Cmd) : List Nat :=
  if c.seen.isEmpty && c.wrote.isEmpty then []
  else (List.range (tmplChunks c.tmpl)).filter (fun i => c.mayLand i && (c.wrote.any (fun k => k / 512 == i)
    || (List.range (chunkSize c.tmpl i)).any (fun k => c.seen.any (fun x => x.1 == c.srcAt (512 * i + k)))))

/-- The started chunks of a command land (R165, R248). -/
def State.landStarted (s : State) (cmd : Nat) : State :=
  match s.cmd? cmd with | none => s | some c => c.started.foldl (fun acc i => acc.landChunk cmd i) s

/-- An 8-byte unit of a chunk's payload is written ahead of the chunk's landing: payload writes are unordered among themselves
(R167, R173). -/
def State.engineWrite (s : State) (cmd o : Nat) : State :=
  match s.cmd? cmd with
  | none => s
  | some c =>
    match s.job? c.wg.job, s.wg? c.wg with
    | some j, some g =>
      if !c.mayLand (o / 512) || decide (tmplBytes c.tmpl ≤ o) || c.wrote.contains o then s
      else
        match s.payload c j g o 1 with
        | .error _ => s
        | .ok (s1, c1) => s1.setCmd c1
    | _, _ => s

/-- Whether a command has landed in full. -/
def Cmd.allLanded (c : Cmd) : Bool :=
  c.fired && c.bitDue.isNone && (List.range (tmplChunks c.tmpl)).all (fun i => c.landed.contains i)

/-- The completion word (R184). -/
def Cmd.cword (c : Cmd) : Nat :=
  match c.error with | none => 1 | some (code, sub) => 2 ^ 63 + 256 * sub.toNat + code.toNat

/-- Writes the completion word last of all; the command is then complete (R183, R185). A release at system scope makes the command's other remote
writes arrive before that word is written, an order that R173 and R183 leave open (R177, log 112). -/
def State.writeCword (s0 : State) (c : Cmd) (j : Job) : State :=
  let s := if tmplReleases c.tmpl then s0.landCmd c.id else s0
  if tmplCword c.tmpl = 0 then s.cmdDone c
  else
    match s.locGlobal (c.who j) (tmplCword c.tmpl) .write with
    | .error e => s.cmdPage c j e (tmplCword c.tmpl) .write
    | .ok l => (s.storeAt c.writer l 8 c.cword).cmdDone c

/-- Advances a ring pointer by the bytes copied (R183). -/
def State.advance (s : State) (c : Cmd) (j : Job) (g : Wg) (off : Nat) (c1 : Cmd) : State :=
  match s.locScratch (c.who j) g off .write with
  | .error e => s.cmdPage c j e ((g.stashAddr off).getD 0) .write
  | .ok l =>
    (s.storePlain g.ref l 4 (s.readLoc (c.who j) g l 4 + tmplBytes c.tmpl)).setCmd c1

/-- COPY_COMPLETION: of a command landed in full, the source ring's TAIL, then the destination ring's HEAD, then the
completion word, one each time; of a command ended by an error, its completion word (R183 to R185). A squashed command waits for its replay
(R248). -/
def execCopyCompletion (cmd : Nat) (s : State) : Out :=
  .next (
    match s.cmd? cmd with
    | none => s
    | some c =>
      match s.job? c.wg.job, s.wg? c.wg with
      | some j, some g =>
        if c.fault.isSome || c.squashed then s
        else if c.error.isSome then s.writeCword c j
        else if !c.allLanded then s
        else if tmplSrcRing c.tmpl ≠ 0 ∧ !c.tailDone then
          s.advance c j g (tmplSrcPtr c.tmpl + 4) { c.accessed with tailDone := true }
        else if tmplDstRing c.tmpl ≠ 0 ∧ !c.headDone then
          s.advance c j g (tmplDstPtr c.tmpl) { c.accessed with headDone := true }
        else s.writeCword c j
      | _, _ => s)

end Sys2Proof.Machine
end

