-- ==== Sys2Proof/Machine/MemScalar.lean ====
section
/-! DEFINITION. Scalar loads and stores, WAITADDR and IFENCE (R190, R318, R342, R343, R371). -/

namespace Sys2Proof.Machine

open Sys2Proof

/-- Posts a store: the fragment goes on, its translation comes later (R153, R164). -/
def State.post (s : State) (f : Frag) (elems : List Piece) (pc : Word64) (lane : Bool) (lanes : Word64) : State :=
  let (n, s1) := s.nextSerial
  s1.setFrag { f with posted := f.posted ++
    [{ id := n, elems := elems, pc := pc, lane := lane, lanes := lanes, fault := none, killed := false }] }

/-- Whether `n` bytes lie in the save slot of a running exit routine, [SAVEBASE, SAVEBASE + SAVE) (R245). -/
def State.inSaveSlot (s : State) (c : Cur) (va : Word64) (n : Nat) : Bool :=
  match c.f.routine with
  | .exit _ save _ =>
    let base := (s.saveBase c).toNat
    decide (base ≤ va.toNat ∧ va.toNat + n ≤ base + save)
  | _ => true

/-- SLD (R342). -/
def execSld (d a : BitVec 6) (off : BitVec 14) (s : State) : Out :=
  scalarRun s { regs := [d, a], reads := [a], mem := true } (fun c =>
    s.loadScalar c (c.f.s a + sext off) (fun c v => s.putS c d v))

/-- Whether an address leads to a CHAN word, whatever its pages permit (R178). -/
def State.namesChannel (s : State) (w : Who) (va : Word64) : Bool :=
  !s.inSaveWindow w.job.part va.toNat && ((s.leadsTo w va .write).bind chanOf).isSome

/-- SST: alignment, bits [63:57], then the store is posted; on a CHAN word it is a CPSTART, which parks where the page refuses the store (R179,
R301, R342, R343). In an exit routine its address alone must lie in the save slot. -/
def execSst (d a : BitVec 6) (off : BitVec 14) (s : State) : Out :=
  scalarRun s { regs := [d, a], reads := [d, a], exitOk := true, mem := true } (fun c =>
    let va := c.f.s a + sext off
    if !s.inSaveSlot c va 1 then s.exitOverrun c
    else
      if va.toNat % 8 ≠ 0 then s.trapScalar c fltAlign 0 va
      else if va.extractLsb' 57 7 ≠ 0 then s.pageScalar c { cause := 0x08, ipa := 0 } va .write
      else
        let posted := s.post c.f.next [{ scratch := false, addr := va, size := 8, val := c.f.s d }] c.f.spc false 0
        match s.translate (s.who c true) va .write with
        | .error e => if s.namesChannel (s.who c true) va then s.pageScalar c e va .write else posted
        | .ok p => if (chanOf p.pa).isSome then s.cpstart c p va (c.f.s d) else posted)

/-- The condition of WAITADDR (R190). -/
def waitHolds (cond : BitVec 3) (w v : Word64) : Bool :=
  match cond.toNat with
  | 0 => w == v
  | 1 => w != v
  | 2 => w.ult v
  | 3 => !w.ult v
  | 4 => w.slt v
  | _ => !w.slt v

/-- WAITADDR reads, and parks until a read finds its condition true (R190, R371); each of its reads is an access of its own. -/
def execWaitaddr (cond : BitVec 3) (a b : BitVec 6) (s : State) : Out :=
  scalarRun s { regs := [a, b], reads := [a, b], mem := true } (fun c =>
    s.loadScalar c (c.f.s a) (fun c w =>
      let parked := c.f.slot == .parked .waitaddr
      if waitHolds cond w (c.f.s b) then
        (if parked then (s.setFrag c.f.wake.next).noteWake c.j.ref else s.setFrag c.f.next)
      else if parked then s.setFrag c.f else s.park c .waitaddr))

/-- IFENCE discards the wave's fetched copies once the fragment's stores are performed (R318). -/
def execIfence (s : State) : Out :=
  scalarRun s { mem := true } (fun c =>
    (s.setWave { c.w with fetched := [] }).setFrag c.f.next)

end Sys2Proof.Machine
end

