-- ==== Sys2Proof/Machine/Events.lean ====
section
/-! DEFINITION. Event slots, barriers and the baton (R29, R188 to R193, R286 to R297, R307). -/

namespace Sys2Proof.Machine

open Sys2Proof

/-- Binds a slot: its PEV bit clears, and a level token whose condition holds sets it at once (R288). -/
def State.bind (s : State) (c : Cur) (n : BitVec 4) (off : BitVec 11) (kind : BitVec 3) (arg arg2 val : Word64) : State :=
  let e : EvSlot := { armed := true, kind := kind, arg := arg, arg2 := arg2, handler := branchTarget c.f.spc off
                      val := val, start := s.cycle, info := 0 }
  let w := { c.w with pev := c.w.pev &&& ~~~(1#16 <<< n.toNat)
                      evslots := c.w.evslots.zipIdx.map (fun p => if p.2 = n.toNat then e else p.1) }
  let w1 :=
    if e.level then
      (match s.evalSlot (s.who c true) c.g w e with | some (info, _) => w.fire n.toNat info | none => w)
    else w
  ((s.setWave w1).setFrag c.f.next).settle c.w.ref

/-- ARM of kind barrier (R287, checks 3 and 4). -/
def execArmBarrier (n : BitVec 4) (a : BitVec 6) (off : BitVec 11) (s : State) : Out :=
  scalarRun s { regs := [a], reads := [a], mem := true } (fun c =>
    let v := c.f.s a
    if v.extractLsb' 8 56 ≠ 0 then s.trapScalar c fltIllegal 0x01
    else if (c.j.barrier? (v.extractLsb' 0 8)).isNone || (c.w.member? (v.extractLsb' 0 8)).isNone then
      s.trapScalar c fltBarrier 0x01
    else s.bind c n off 0 v 0 0)

/-- ARM of kind bitmap: the word at s_a and the mask in s_(a+1) (R191, R287). -/
def execArmBitmap (n : BitVec 4) (a : BitVec 6) (off : BitVec 11) (s : State) : Out :=
  scalarRun s
    { regs := [a, a + 1], reads := [a, a + 1], bad := fun _ => if a = 63 then some 0x03 else none, mem := true } (fun c =>
    s.loadScalar c (c.f.s a) (fun c _ => s.bind c n off 1 (c.f.s a) (c.f.s (a + 1)) 0))

/-- The operand of a mailbox or address token: a scratchpad offset or a global address, read as one load (R287, checks
8 to 11). -/
def State.armWord (s : State) (c : Cur) (v : Word64) (k : Cur → Word64 → State) : State :=
  if v.getLsbD 63 then
    let off := (v.extractLsb' 0 19).toNat
    if v.extractLsb' 19 44 ≠ 0 then s.trapScalar c fltIllegal 0x01
    else if c.j.scratchSize < off + 8 then s.trapScalar c fltScratch 0x04
    else if off % 8 ≠ 0 then s.trapScalar c fltAlign 0
    else
      let who := s.who c true
      match s.locScratch who c.g off .read with
      | .error e => s.pageScalar c e ((c.g.stashAddr off).getD 0) .read
      | .ok l => k c (BitVec.ofNat 64 (s.readLoc who c.g l 8))
  else s.loadScalar c v k

/-- ARM of kind mailbox (R191, R287). -/
def execArmMailbox (n : BitVec 4) (a : BitVec 6) (off : BitVec 11) (s : State) : Out :=
  scalarRun s { regs := [a], reads := [a], mem := true } (fun c =>
    s.armWord c (c.f.s a) (fun c _ => s.bind c n off 2 (c.f.s a) 0 0))

/-- The checks of a pool handle (R207): the SUB of the first that fails. -/
def State.handleFault (s : State) (c : Cur) (h : Word64) (sense : Bool) : Option (BitVec 8) :=
  if h.extractLsb' 32 32 != 0 || h.extractLsb' 9 7 != 0 || h.extractLsb' 6 2 != 0 || (h.getLsbD 8 && !sense) then
    some 0x41
  else
    match s.poolOf h with
    | none => some 0x40
    | some p => if p.job == c.j.ref || c.j.kernel then none else some 0x40

/-- ARM of kind pool (R217, R287). -/
def execArmPool (n : BitVec 4) (a : BitVec 6) (off : BitVec 11) (s : State) : Out :=
  scalarRun s { regs := [a], reads := [a], mem := true } (fun c =>
    let v := c.f.s a
    match s.handleFault c v true with
    | some sub => s.trapScalar c fltRecord sub
    | none => s.bind c n off 3 v 0 0)

/-- ARM of kind addr: the word read is the reference value V (R191, R288). -/
def execArmAddr (n : BitVec 4) (a : BitVec 6) (off : BitVec 11) (s : State) : Out :=
  scalarRun s { regs := [a], reads := [a], mem := true } (fun c =>
    s.armWord c (c.f.s a) (fun c v => s.bind c n off 4 (c.f.s a) 0 v))

/-- ARM of kind reply: field a must be 0 (R287). -/
def execArmReply (n : BitVec 4) (a : BitVec 6) (off : BitVec 11) (s : State) : Out :=
  scalarRun s { regs := [a], bad := fun _ => if a = 0 then none else some 0x01, mem := true } (fun c =>
    s.bind c n off 5 0 0 0)

/-- ARM of kind timer: the period in cycles, 64 at least (R191, R287). -/
def execArmTimer (n : BitVec 4) (a : BitVec 6) (off : BitVec 11) (s : State) : Out :=
  scalarRun s { regs := [a], reads := [a], mem := true } (fun c =>
    let v := c.f.s a
    if v.extractLsb' 32 32 ≠ 0 then s.trapScalar c fltIllegal 0x01 else s.bind c n off 6 v 0 0)

/-- ARM of kind baton: field a must be 0, the role in baton mode (R287). -/
def execArmBaton (n : BitVec 4) (a : BitVec 6) (off : BitVec 11) (s : State) : Out :=
  scalarRun s { regs := [a], bad := fun _ => if a = 0 then none else some 0x01, mem := true } (fun c =>
    if c.batonMode then s.bind c n off 7 0 0 0 else s.trapScalar c fltBaton 0x04)

/-- AWAIT (R193, R289). -/
def execAwait (slots : BitVec 16) (s : State) : Out :=
  scalarRun s { bad := fun _ => if slots = 0 then some 0x0A else none, mem := true } (fun c =>
    let l := slots &&& c.w.armed
    let r := c.w.pev &&& l &&& ~~~c.w.evmask
    if l = 0 then s.trapScalar c fltIllegal 0x0B
    else if r = 0 then
      let (o, s1) := s.nextSerial
      s1.park c (.await slots o)
    else s.resumeAwait c r)

/-- DISARM (R192, R307). -/
def execDisarm (n : BitVec 4) (s : State) : Out :=
  scalarRun s {} (fun c =>
    let armed := c.w.armed.getLsbD n.toNat
    let w := if armed then
        { c.w with pev := c.w.pev &&& ~~~(1#16 <<< n.toNat)
                   evslots := c.w.evslots.zipIdx.map (fun p => if p.2 = n.toNat then { p.1 with armed := false } else p.1) }
      else c.w
    ((s.setWave w).setFrag c.f.next).settle c.w.ref)

/-- The membership check of R32, then BROKEN: the barrier and the membership of an operation on constellation `k`. -/
def withBarrier (s : State) (c : Cur) (k : BitVec 8) (eff : Barrier → Member → State) : State :=
  match c.j.barrier? k, c.w.member? k with
  | some b, some m => eff b m
  | _, _ => s.trapScalar c fltBarrier 0x01

/-- BARINIT restores a broken barrier; on another it does nothing (R189, R292). -/
def execBarinit (k : BitVec 8) (s : State) : Out :=
  scalarRun s { mem := true } (fun c =>
    withBarrier s c k (fun b _ =>
      if b.broken then
        ((s.setFrag c.f.next).setBarrier c.j.ref
          { b with broken := false, pending := 0, arrived := 0, phase := b.phase + 1 }).clearArrivals c.j.ref k
      else s.setFrag c.f.next))

/-- BARARRIVE (R189, R292). -/
def execBararrive (a : BitVec 6) (k : BitVec 8) (s : State) : Out :=
  scalarRun s { regs := [a], reads := [a], mem := true } (fun c =>
    withBarrier s c k (fun b m =>
      if b.broken then s.trapScalar c fltBarrier 0x03
      else
        let n := b.pending + (c.f.s a).toInt
        if n < -(2 ^ 31) ∨ 2 ^ 31 - 1 < n then (s.breakBarrier c.j.ref b).trapScalar c fltBarrier 0x02
        else
          let b1 := { b with pending := n, arrived := if m.arrived then b.arrived else b.arrived + 1 }
          let w := if m.arrived then c.w
            else c.w.setMember k (fun x => { x with arrived := true, target := b.phase + 1 })
          (((s.setWave w).setFrag c.f.next).setBarrier c.j.ref b1).checkBarrier c.j.ref k))

/-- BARWAIT (R189, R292). -/
def execBarwait (k : BitVec 8) (s : State) : Out :=
  scalarRun s { mem := true } (fun c =>
    withBarrier s c k (fun b m =>
      if b.broken then s.trapScalar c fltBarrier 0x03
      else if (b.phase - m.target).slt 0 then s.park c (.barwait k)
      else s.setFrag c.f.next))

/-- BATON TAKE (R29, R295). -/
def execBatonTake (s : State) : Out :=
  scalarRun s { mem := true } (fun c =>
    if !c.batonMode then s.trapScalar c fltBaton 0x03
    else if c.g.baton.contains c.w.ref.wave then s.setFrag c.f.next
    else s.park c .baton)

/-- BATON PASS (R29, R295). -/
def execBatonPass (s : State) : Out :=
  scalarRun s { mem := true } (fun c =>
    if !c.batonMode then s.trapScalar c fltBaton 0x03
    else if !c.g.baton.contains c.w.ref.wave then s.trapScalar c fltBaton 0x02
    else (s.setFrag c.f.next).passBaton c.g.ref c.w.ref.wave c.w.role)

/-- The period of a timer slot (R191). -/
def EvSlot.period (e : EvSlot) : Nat := max 64 (e.arg.extractLsb' 0 32).toNat

/-- TIMER_TOKEN_FIRE: an armed timer slot whose period has passed fires, and its next period begins (R191). -/
def execTimerTokenFire (w : WaveRef) (slot : BitVec 4) (s : State) : Out :=
  .next (
    match s.wave? w with
    | none => s
    | some x =>
      match x.evslots[slot.toNat]? with
      | none => s
      | some e =>
        if e.armed && e.kind == 6 && decide (e.start + e.period ≤ s.cycle) then
          let y := x.fire slot.toNat 0
          (s.setWave { y with evslots := y.evslots.zipIdx.map (fun p =>
            if p.2 = slot.toNat then { p.1 with start := e.start + e.period } else p.1) }).settle w
        else s)

end Sys2Proof.Machine
end

