-- ==== Sys2Proof/Machine/Service.lean ====
section
/-! DEFINITION. Verdicts and replies: the fault queue's and the service queue's windows (R163, R260 to R262), trap
verdicts (R235, R236), SVC and SVCRET (R259, R261), and posted stores' translation (R164). -/

namespace Sys2Proof.Machine

open Sys2Proof

/-! ## Trap verdicts (R235) -/

/-- RPTC with no repeat in progress: LEFT is 0 (R65). -/
def clearLeft (r : Word64) : Word64 := r &&& ~~~(0x7F0000 : Word64)

/-- A SKIP verdict: the remaining repeats of a prefixed instruction are discarded (R232). -/
def Frag.skipTo (f : Frag) (t : TrapCtx) : Frag :=
  let f1 := { f.goTo t.skip with waiting := none, callSeq := none }
  match t.retry.queue with
  | q :: _ => if t.cause.getLsbD 17 && 0 < q.left && t.skip.queue.length < t.retry.queue.length then
      { f1 with rptc := clearLeft f.rptc } else f1
  | [] => f1

/-- HANDLER: the fragment goes on at the handler with the record's values, its trap in progress (R236). -/
def Frag.handler (f : Frag) (t : TrapCtx) (spc lpc : Word64) : Frag :=
  { f.goTo { spc := spc, lpc := lpc } with
    waiting := none, inTrap := some t, callSeq := none, trapcause := t.cause, trapaddr := t.addr, traplpc := t.lpc }

/-- Applies a verdict word to a fragment's trap (R235 to R237); ignored where the fragment no longer waits. -/
def State.verdict (s : State) (r : FragRef) (v : Word64) : State :=
  match s.look r with
  | none => s
  | some c =>
    match c.f.waiting with
    | none => s
    | some t =>
      let hspc := (v.extractLsb' 32 32).toNat
      let hlpc := 12 * (v.extractLsb' 8 24).toNat
      let s1 := s.noteWake c.j.ref
      if v.extractLsb' 2 6 ≠ 0 then s1.killWave c.w.ref
      else
        match (v.extractLsb' 0 2).toNat with
        | 1 => s1.setFrag { c.f.goTo t.retry with waiting := none }
        | 2 => s1.setFrag (c.f.skipTo t)
        | 3 =>
          if t.nested || decide (hspc % 4 ≠ 0 ∨ c.j.scalarSize ≤ hspc ∨ c.j.laneSize ≤ hlpc) then s1.killWave c.w.ref
          else s1.setFrag (c.f.handler t (c.j.scalarBase + BitVec.ofNat 64 hspc) (c.j.laneBase + BitVec.ofNat 64 hlpc))
        | _ => s1.killWave c.w.ref

/-- SERVICE_FAULT_VERDICT: Bilgil's verdict on a service wave's fault; the slot takes the next record (R258). -/
def execServiceFaultVerdict (d : BitVec 2) (v : Word64) (s : State) : Out :=
  .next (
    match (s.die? d.toNat).bind (fun x => x.svcFault.head?) with
    | none => s
    | some (r, _) => (s.modDie d.toNat (fun x => { x with svcFault := x.svcFault.tail })).verdict r v)

/-! ## The fault queue (R163) -/

/-- FQTAIL. -/
def State.fqTail (s : State) (d : Nat) (v : BitVec 32) : State :=
  s.modDie d (fun x => { x with fq := { x.fq with tail := v } })

/-- A fragment whose posted stores no longer wait for a verdict executes its instruction again (R164). -/
def Frag.storesSettled (f : Frag) : Frag :=
  if f.slot = .parked .store ∧ (f.posted.all (fun p => p.fault.isNone || p.killed)) then f.wake else f

/-- The verdict a posted store waits for: it translates again, by a fresh walk, or is killed (R163, R164). -/
def Posted.settleFault (tok : Nat) (kill : Bool) (p : Posted) : Posted :=
  match p.fault with
  | some (t, _) => if t = tok then (if kill then { p with killed := true } else { p with fault := none, afresh := true }) else p
  | none => p

/-- Whether a posted store waits for the verdict of a token; after a merge it is the parent that holds it (R25, R164). -/
def Posted.waitsFor (p : Posted) (tok : Nat) : Bool := match p.fault with | some (t, _) => t == tok | none => false

/-- A command's kill verdict (R185). -/
def State.killCmd (s : State) (c : Cmd) (cause : BitVec 8) : State :=
  let pointersDone := (tmplSrcRing c.tmpl == 0 || c.tailDone) && (tmplDstRing c.tmpl == 0 || c.headDone)
  if c.error.isSome || (c.allLanded && pointersDone) then s.cmdDone c
  else
    let due := match c.bitDue with | some i => chunkSize c.tmpl i | none => 0
    let s1 := s.setCmd { c with fault := none, bitDue := none, error := some (0x02, cause) }
    if tmplBaren c.tmpl then s1.subtractBytes c.wg.job (tmplBarrier c.tmpl) (c.unlanded + due) else s1

/-- Answers one waiter (R163): it executes its access again, walking afresh, or traps, or ends with an error. The cause that a killed command's
completion word names is the entry's, which is its first waiter's where its own fault had another (R185, log 113). -/
def State.answer (s : State) (kill : Bool) (cause : BitVec 8) : Waiter → State
  | .frag r tok =>
    match s.frag? r with
    | none => s
    | some f =>
      match f.slot with
      | .parked (.page t ctx) =>
        if t ≠ tok then s
        else if kill then (s.noteWake r.wave.wg.job).raise r ctx
        else (s.setFrag { f.wake with afresh := true, walked := [] }).noteWake r.wave.wg.job
      | _ => s
  | .store r tok =>
    let hit (f : Frag) : Bool := f.ref.wave == r.wave && f.posted.any (fun p => p.waitsFor tok)
    let go (f : Frag) : Frag := { f with posted := f.posted.map (Posted.settleFault tok kill) }.storesSettled
    let woken := s.frags.any (fun f => hit f && (go f).slot != f.slot)
    let s1 : State := { s with frags := s.frags.map (fun f => if hit f then go f else f) }
    if woken then s1.noteWake r.wave.wg.job else s1
  | .cmd i tok =>
    match s.cmd? i with
    | none => s
    | some c =>
      if c.fault ≠ some tok then s else if kill then s.killCmd c cause else s.setCmd { c with fault := none, afresh := true, walked := [] }

/-- FQDONE: the verdict closes the entry and answers its waiters; ignored where the entry is not open (R163). -/
def State.fqDone (s : State) (d : Nat) (seq : BitVec 32) (kill : Bool) : State :=
  match (s.die? d).bind (fun x => x.fq.entries.find? (fun e => e.opened && e.seq == seq)) with
  | none => s
  | some e =>
    let s1 := s.modDie d (fun x => { x with fq := { x.fq with
      entries := x.fq.entries.map (fun y => if y.seq = seq then { y with opened := false, who := [] } else y) } })
    e.who.foldl (fun acc w => acc.answer kill e.cause w) s1

/-- FQTAIL, a store of the service. -/
def execFqtail (d : BitVec 2) (v : BitVec 32) (s : State) : Out := .next (s.fqTail d.toNat v)
/-- FQDONE with KILL clear. -/
def execFqdoneRetry (d : BitVec 2) (seq : BitVec 32) (s : State) : Out := .next (s.fqDone d.toNat seq false)
/-- FQDONE with KILL set. -/
def execFqdoneKill (d : BitVec 2) (seq : BitVec 32) (s : State) : Out := .next (s.fqDone d.toNat seq true)

/-- FAULT_QUEUE_WRITE: a fault that waits at its walker merges or is written, once it can; which one is free (R163). -/
def execFaultQueueWrite (d : BitVec 2) (s : State) : Out :=
  .next (s.modDie d.toNat (fun x =>
    match x.fq.late with
    | [] => x
    | l =>
      let i := if l.length = 1 then 0 else s.choose 0 l.length
      match l[i]? with
      | none => x
      | some n =>
        match mergeFault n x.fq.entries with
        | some es => { x with fq := { x.fq with entries := es, late := l.eraseIdx i } }
        | none => if x.fq.room then { x with fq := { x.fq.write n with late := l.eraseIdx i } } else x))

/-! ## The service queue (R260 to R262) -/

/-- SQTAIL. -/
def State.sqTail (s : State) (d : Nat) (v : BitVec 32) : State :=
  s.modDie d (fun x => { x with sq := { x.sq with tail := v } })

/-- Writes one lane's reply into v0 to v3 (R259). -/
def Wave.putReply (w : Wave) (l : Nat) (status : Byte) (result : Word64) : Wave :=
  (((w.setV 0 l (status.setWidth 32)).setV 1 l 0).setV 2 l (result.extractLsb' 0 32)).setV 3 l (result.extractLsb' 32 32)

/-- The reply of the i-th active lane in a slot: status and result (R260). -/
def SvcQ.reply (q : SvcQ) (seq : BitVec 32) (i : Nat) : Byte × Word64 :=
  let base := 4096 * (seq.toNat % 2048) + 2048 + 16 * i
  (q.bytes.get (base + 8), BitVec.ofNat 64 (q.bytes.bytesNat base 8))

/-- Delivers a reply to a caller that still waits: each lane's status and result, and it goes on (R259, R261). -/
def State.deliver (s : State) (q : SvcQ) (r : SqRec) : State :=
  match s.look r.caller with
  | none => s
  | some c =>
    if c.f.slot ≠ .parked (.svc r.callSeq) then s
    else
      let lanes := lanesOf 64 r.lanes
      let rs := lanes.zipIdx.map (fun p => (p.1, q.reply r.seq p.2))
      s.logged c (rs.map (fun x => { lane := x.1, kind := 10, value := x.2.2 })) (fun s1 vs =>
        let w := (rs.zip vs).foldl (fun acc x => acc.putReply x.1.1 x.1.2.1 x.2) c.w
        ((s1.setWave w).setFrag { c.f.wake.next with callSeq := none }).noteWake c.j.ref)

/-- The reply token of the calling wave fires with EVINFO = CALLSEQ (R261). -/
def State.fireReply (s : State) (r : SqRec) : State :=
  s.fireWaves (fun w => w.ref == r.caller.wave) (fun e => e.kind == 5) (r.callSeq.setWidth 64)

/-- Answers the open record of a SEQ: a reply for a batch record, a verdict for a trap record (R261). -/
def State.sqDone (s : State) (d : Nat) (seq : BitVec 32) : State :=
  match s.die? d with
  | none => s
  | some x =>
    match x.sq.opened.find? (fun r => r.seq == seq) with
    | none => s
    | some r =>
      let s1 := s.modDie d (fun y => { y with sq := { y.sq with opened := y.sq.opened.filter (fun t => t.seq != seq) } })
      if r.batch then (s1.deliver x.sq r).fireReply r
      else s1.verdict r.caller (BitVec.ofNat 64 (x.sq.bytes.bytesNat (4096 * (seq.toNat % 2048) + 2048) 8))

/-- SQRESTART: every unanswered batch record is posted again in order, with REPOST set and a fresh SEQ (R262). -/
def State.sqRestart (s : State) (d : Nat) : State :=
  match s.die? d with
  | none => s
  | some x =>
    let again := (x.sq.opened.filter (·.batch)).map (fun r =>
      { r with head := (r.head &&& ~~~((0xFFFFFFFF : BitVec 512) <<< 128)) ||| 8, performed := false, replayed := false })
    let s1 := s.modDie d (fun y => { y with sq := { y.sq with opened := y.sq.opened.filter (fun r => !r.batch) } })
    again.foldl (fun acc r => acc.postSvc d r) s1

/-- SQTAIL, a store of the service. -/
def execSqtail (d : BitVec 2) (v : BitVec 32) (s : State) : Out := .next (s.sqTail d.toNat v)
/-- SQDONE, a store of the service. -/
def execSqdone (d : BitVec 2) (seq : BitVec 32) (s : State) : Out := .next (s.sqDone d.toNat seq)
/-- SQRESTART, a store of the service. -/
def execSqrestart (d : BitVec 2) (s : State) : Out := .next (s.sqRestart d.toNat)

/-- SERVICE_QUEUE_POST: the first waiting record is posted once a slot is free (R260). -/
def execServiceQueuePost (d : BitVec 2) (s : State) : Out :=
  .next (s.modDie d.toNat (fun x =>
    match x.sq.late with
    | [] => x
    | r :: rs => if x.sq.room then { x with sq := { x.sq.write r with late := rs } } else x))

/-- SVCRET: exactly a store of s2 to SQDONE of its die (R261, R347). -/
def execSvcret (s : State) : Out :=
  scalarRun s { reads := [2], kernelOnly := true, mem := true } (fun c =>
    (s.setFrag c.f.next).sqDone c.g.die ((c.f.s 2).extractLsb' 0 32))

/-- A batch record's 64 bytes (R260). -/
def batchRecord (c : Cur) (n : BitVec 10) (seq : BitVec 32) : BitVec 512 :=
  c.f.spc ++ c.f.exec ++ seq ++ waveid c.w.ref ++ BitVec.ofNat 32 c.j.ref.id ++ 0#128 ++ 0#32 ++ 0#110 ++ n
    ++ c.j.partBits ++ 0#1 ++ 1#1 ++ BitVec.ofNat 2 c.f.ref.frag

/-- The arguments of the active lanes, 16 bytes each: v0 to v3 (R259, R260). -/
def svcArgs (w : Wave) (lanes : List Nat) : Sparse 8 :=
  lanes.zipIdx.foldl (fun acc p =>
    acc.setBytes (16 * p.2) 16 (w.v 3 p.1 ++ w.v 2 p.1 ++ w.v 1 p.1 ++ w.v 0 p.1).toNat) []

/-- SVC (R259, R347). -/
def execSvc (n : BitVec 10) (s : State) : Out :=
  scalarRun s
    { bad := fun c => if roleVregs c.role < 4 then some 0x03 else if c.j.kernel then some 0x0E else none, mem := true } (fun c =>
    let lanes := lanesOf c.j.width c.f.exec
    if c.f.exec = 0 then s.setFrag { c.f.next with callSeq := none }
    else if lanes.any (fun l => (List.range 4).any (fun r => c.w.vPoisoned r l)) then
      s.trapScalar c fltPoison 0x02
    else
      let seq := c.f.callSeq.getD c.w.seqctr
      let w := if c.f.callSeq.isSome then c.w else { c.w with seqctr := c.w.seqctr + 1 }
      let s1 := (s.setWave w).setFrag
        { c.f with callSeq := some seq, slot := .parked (.svc seq), parkedAt := s.parkTime c.f }
      s1.postSvc c.g.die
        { seq := 0, batch := true, caller := c.f.ref, callSeq := seq, number := n, lanes := c.f.exec
          head := batchRecord c n seq, args := svcArgs c.w lanes })

/-! ## Stores that the queue windows and tables take (R163, R260, R267) -/

/-- A store to a die's queue window. The spec gives FQTAIL and FQDONE no size: a store of any size is taken (log 9). -/
def State.queueStore (s : State) (d off n v : Nat) : State :=
  if off = 0x40008 then s.fqTail d (BitVec.ofNat 32 v)
  else if off = 0x40010 then
    (if v / 2 ^ 33 = 0 then s.fqDone d (BitVec.ofNat 32 v) (v / 2 ^ 32 % 2 == 1) else s)
  else if off = 0x100008 then s.sqTail d (BitVec.ofNat 32 v)
  else if off = 0x100010 then s.sqDone d (BitVec.ofNat 32 v)
  else if off = 0x100018 then s.sqRestart d
  else if 0x800000 ≤ off then s.modDie d (fun x => { x with sq := { x.sq with bytes := x.sq.bytes.setBytes (off - 0x800000) n v } })
  else s

/-- Replaces byte `i` of a table entry; `lo` to `hi` are its read-only bytes. -/
def entryByte {w : Nat} (e : BitVec w) (i lo hi : Nat) (b : Byte) : BitVec w :=
  if lo ≤ i ∧ i < hi then e
  else (e &&& ~~~((0xFF : BitVec w) <<< (8 * i))) ||| (b.setWidth w <<< (8 * i))

/-- A store of one byte to the hub's tables; DROPS and FIRES are read-only (R267). -/
def State.tableStoreByte (s : State) (off : Nat) (b : Byte) : State :=
  if off < 0x10000 then { s with steering := s.steering.set (off / 16) (entryByte (s.steering.get (off / 16)) (off % 16) 0 0 b) }
  else if off < 0x12000 then
    let i := (off - 0x10000) / 32
    { s with rings := s.rings.set i (entryByte (s.rings.get i) (off % 32) 16 24 b) }
  else if 0x20000 ≤ off then
    let i := (off - 0x20000) / 64
    { s with bindings := s.bindings.set i (entryByte (s.bindings.get i) (off % 64) 24 32 b) }
  else s

/-- A store of `n` bytes to the hub's tables. -/
def State.tableStore (s : State) (off : Nat) : Nat → Nat → State
  | 0, _ => s
  | n + 1, v => (s.tableStoreByte off (BitVec.ofNat 8 v)).tableStore (off + 1) n (v / 256)

/-- Performs a store of `n` bytes at its place: plain storage, a queue window or a table. -/
def State.perform (s : State) (g : WgRef) (l : Loc) (n v : Nat) : State :=
  match l with
  | .scratch _ => s.storePlain g l n v
  | .phys p =>
    match regionOf p.pa with
    | .queues d off => s.queueStore d off n v
    | .tables off => s.tableStore off n v
    | _ => s.storePlain g l n v

/-! ## Posted stores (R153, R164) -/

/-- The place of an element of a store, and the address that a fault names. -/
def State.pieceLoc (s : State) (w : Who) (g : Wg) (e : Piece) (u : Use) : Except (PageFault × Word64) Loc :=
  if e.scratch then
    match s.locScratch w g e.addr.toNat u with
    | .ok l => .ok l
    | .error x => .error (x, (g.stashAddr e.addr.toNat).getD 0)
  else
    match s.locGlobal w e.addr u with
    | .ok l => .ok l
    | .error x => .error (x, e.addr)

/-- An element as its instruction reads it: as it was read ahead, or as it stands (R141, R168). -/
def State.readPiece (s : State) (w : Who) (g : Wg) (e : Piece) (l : Loc) : Nat :=
  (List.range e.size).foldr (fun i acc => (w.seenByte e.scratch (e.addr.toNat + i) (s.locByte w g l i)).toNat + 256 * acc) 0

/-- The places of all elements, or the first fault with its address. -/
def State.pieceLocs (s : State) (w : Who) (g : Wg) (u : Use) :
    List Piece → Except (PageFault × Word64) (List (Loc × Piece))
  | [] => .ok []
  | e :: es =>
    match s.pieceLoc w g e u with
    | .error x => .error x
    | .ok l =>
      match s.pieceLocs w g u es with
      | .error x => .error x
      | .ok ls => .ok ((l, e) :: ls)

/-- Performs a store's elements in ascending lane order (R168). -/
def State.performAll (s : State) (g : WgRef) : List (Loc × Piece) → State
  | [] => s
  | (l, e) :: es => (s.perform g l e.size e.val.toNat).performAll g es

/-- Whether a physical address lies in a pool's spill region, mapped as the owner job maps it (R208, R210). -/
def State.inSpill (s : State) (p : Pool) (pa : Nat) : Bool :=
  match s.job? p.job with
  | none => false
  | some j => (List.range (p.spillSize / 65536)).any (fun k =>
      match s.translate { j.who with kernel := true } (p.spillBase + BitVec.ofNat 64 (65536 * k)) .write with
      | .ok q => q.pa / 65536 == pa / 65536
      | .error _ => false)

/-- Whether an element of a number stands, for a store, in a 16-byte unit of a spill region: every element has one free place, the same for all that
the store writes, and of several with one place only the first stands there (R210). -/
def standsIn (store : Nat × Nat) (unit num : Nat) : Bool :=
  let place (k : Nat) : Nat := Config.freeNat store.1 (store.2 + 2 * k)
  place num == unit && (List.range num).all (fun k => place k != unit)

/-- The element that a store into a 16-byte unit of a spill region overwrites, if any, is lost, or holds the bytes stored: which of the two is free
(R210). -/
def Pool.overwrite (p : Pool) (store : Nat × Nat) (pa n v : Nat) : Pool :=
  let hit (e : Elem) : Bool := standsIn store (pa / 16) e.num
  let patch (e : Elem) : Elem :=
    let old := e.val.toNat * 2 ^ 64 + e.key.toNat
    let lo := 8 * (pa % 16)
    let m := (2 ^ (8 * n) - 1) * 2 ^ lo
    let x : BitVec 128 := (BitVec.ofNat 128 old &&& ~~~BitVec.ofNat 128 m) ||| (BitVec.ofNat 128 (v * 2 ^ lo) &&& BitVec.ofNat 128 m)
    { e with key := x.extractLsb' 0 64, val := x.extractLsb' 64 64 }
  let lost (e : Elem) : Bool := Config.freeNat store.1 (store.2 + 2 * e.num + 1) % 2 == 1
  let after (es : List Elem) : List Elem := (es.filter (fun e => !(hit e && lost e))).map (fun e => if hit e then patch e else e)
  { p with shards := p.shards.map (fun h => { h with elems := after h.elems }) }

/-- What a kernel-mode store does to pools whose spill region it enters (R210); `store` names the instruction's store for the free choices. -/
def State.spillHit (s : State) (kernel : Bool) (store : Nat × Nat) (l : Loc) (n v : Nat) : State :=
  match l with
  | .scratch _ => s
  | .phys q =>
    if !kernel then s
    else { s with pools := s.pools.map (fun p => if p.live && s.inSpill p q.pa then p.overwrite store q.pa n v else p) }

/-- The free choices of a posted store in a spill region. -/
def Posted.store (p : Posted) : Nat × Nat := (p.id, 2 ^ 61)

/-- The writer that a posted store of a fragment is: the fragments that follow it in program order are the one that holds it and those that stand
behind it (R28). -/
def State.writerOf (s : State) (r : FragRef) (p : Posted) : Writer :=
  let follows (f : Frag) : Bool := f.ref.wave == r.wave && (f.behind.contains p.id || f.posted.any (fun q => q.id == p.id))
  { wg := r.wave.wg, wave := r.wave.wave, owners := (s.frags.filter follows).map (fun f => f.ref.frag), src := some p.id }

/-- Performs a job's store of several elements; in host and peer memory one may arrive later (R177). -/
def State.performJob (s : State) (j : Job) (x : Writer) (store : Nat × Nat) : List (Loc × Piece) → State
  | [] => s
  | (l, e) :: es =>
    let v := e.val.toNat
    (if s.arrivesLate l then s.sendLate x l e.size v
      else (s.perform x.wg l e.size v).spillHit j.kernel store l e.size v).performJob j x store es

/-- A posted store's translation faulted: its entry is posted and the store waits for the verdict (R164). In an exit
routine the fallback starts (R246); a service wave traps at once (R258). -/
def State.storeFault (s : State) (c : Cur) (p : Posted) (e : PageFault) (va : Word64) : State :=
  if c.f.exiting then s.exitOverrun c
  else if c.j.kernel then s.raise c.f.ref (c.f.storeTrap { p with fault := some (0, e.cause, va) })
  else
    let (tok, s1) := s.nextSerial
    let s2 := s1.setFrag { c.f with walked := [], posted := c.f.posted.map (fun q =>
      if q.id = p.id then { q with fault := some (tok, e.cause, va) } else q) }
    let n := faultEntry c e va p.pc (if p.lane then 0 else 1) .write [.store c.f.ref tok]
    s2.modDie c.g.die (fun d => { d with fq := d.fq.post n })

/-- A store whose fragment has ended is dropped: an entry with ISSUER_GONE says so, and the job's GONE is set (R164). No verdict is awaited, and the
entry is written closed: one that names it is ignored (log 114). -/
def State.dropStore (s : State) (r : FragRef) (g : Wg) (j : Job) (p : Posted) (e : PageFault) (va : Word64) : State :=
  let s1 := s.modJob j.ref (fun x => { x with gone := true })
  if j.kernel then s1
  else
    let n : FqEntry :=
      { vaddr := va, ipa := BitVec.ofNat 64 e.ipa, pc := p.pc, job := j.ref, waveid := waveid r.wave, waiters := 1
        seq := 0, issuer := if p.lane then 0 else 1, gone := true, write := true, fetch := false, kmode := false
        cause := e.cause, opened := false, who := [] }
    s1.modDie g.die (fun d => { d with fq := d.fq.post n })

/-- The fragment without a posted store. -/
def Frag.without (f : Frag) (p : Posted) : Frag := { f with walked := [], posted := f.posted.filter (fun q => q.id != p.id) }.storesSettled

/-- An SST whose address only now translates, to a channel word, is the CPSTART now: it waits while the buffer is full, and a check
that fails traps with the SST's address (R178, R179, R301, R343; log 83). -/
def State.lateCpstart (s : State) (c : Cur) (p : Posted) (chan : Nat) (e : Piece) : State :=
  match cmdFault s c e.val with
  | some (flt, sub) =>
    let f := c.f.without p
    (s.setFrag f).raise f.ref { f.scalarTrap flt sub e.addr with addr := p.pc, skip := f.here }
  | none =>
    if 32 ≤ (s.chanQueue c.g.coreId chan).length then s
    else (s.accept c chan e.addr e.val (c.j.tmpls.getD (cmdTmpl e.val) 0)).setFrag (c.f.without p)

/-- The channel that a scalar store's one piece starts a command on (R178). -/
def Posted.channel (p : Posted) : List (Loc × Piece) → Option (Nat × Piece)
  | [(.phys q, e)] => if p.lane then none else (chanOf q.pa).map (fun k => (k, e))
  | _ => none

/-- The places of a posted store's elements: those it has had since the first of them was performed (R168). -/
def State.postedLocs (s : State) (w : Who) (g : Wg) (p : Posted) : Except (PageFault × Word64) (List (Loc × Piece)) :=
  if p.placed.isEmpty then s.pieceLocs w g .write p.elems else .ok p.placed

/-- Translates and performs a store of a fragment (R164). -/
def State.translateStore (s : State) (c : Cur) (p : Posted) : State :=
  match s.postedLocs { s.who c (!p.lane) with afresh := p.afresh } c.g p with
  | .error (e, va) => s.storeFault c p e va
  | .ok ls =>
    match p.channel ls with
    | some (k, e) => s.lateCpstart c p k e
    | none => (s.setFrag (c.f.without p)).performJob c.j (s.writerOf c.f.ref p) p.store ls

/-- Translates a store whose fragment has ended: performed or dropped (R164). -/
def State.translateOrphan (s : State) (r : FragRef) (g : Wg) (j : Job) (p : Posted) : State :=
  let s1 := s.modWg g.ref (fun x => { x with orphans := x.orphans.filter (fun y => y.2.id != p.id) })
  match s.postedLocs { j.who with wg := some g.ref, afresh := p.afresh } g p with
  | .error (e, va) => s1.dropStore r g j p e va
  | .ok ls => s1.performJob j (s.writerOf r p) p.store ls

/-- Performs one element of a fragment's posted store ahead of the others, once all of them have translated: in any order, but one element's stores in
ascending lane order (R153, R168). -/
def State.storePiece (s : State) (r : FragRef) (k : Nat) : State :=
  match (s.look r).bind (fun c => (c.f.posted.find? (fun p => p.fault.isNone && !p.killed)).map (fun p => (c, p))) with
  | none => s
  | some (c, p) =>
    match s.postedLocs { s.who c (!p.lane) with afresh := p.afresh } c.g p with
    | .error _ => s
    | .ok ls =>
      match ls[k]? with
      | none => s
      | some x =>
        if (p.channel ls).isSome || ls.length ≤ 1 || (ls.take k).any (fun y => y.1 == x.1) then s
        else
          let q := { p with placed := ls.eraseIdx k }
          (s.setFrag { c.f with posted := c.f.posted.map (fun y => if y.id = p.id then q else y) }).performJob c.j (s.writerOf r p) p.store [x]

/-- POSTED_STORE_TRANSLATION of a fragment's first store that waits for no verdict, or of one it left at its end: the
store is performed, or faults (R164). -/
def execPostedStoreTranslation (r : FragRef) (s : State) : Out :=
  .next (
    match (s.look r).bind (fun c => (c.f.posted.find? (fun p => p.fault.isNone && !p.killed)).map (fun p => (c, p))) with
    | some (c, p) => s.translateStore c p
    | none =>
      match s.wg? r.wave.wg, s.job? r.wave.wg.job with
      | some g, some j =>
        match g.orphans.find? (fun x => x.1 == r) with
        | none => s
        | some (_, p) => s.translateOrphan r g j p
      | _, _ => s)

end Sys2Proof.Machine
end

