-- ==== Sys2Proof/Machine/LaneMem.lean ====
section
/-! DEFINITION. Lane memory: loads and stores through records, by address, in blocks and of the scratchpad; atomics; ragged
loads (R89, R136, R137, R151, R153, R168, R195 to R201, R337, R364 to R370). -/

namespace Sys2Proof.Machine

open Sys2Proof

/-! ## Buffer records (R89, R151) -/

def recBase (r : BitVec 256) : Word64 := r.extractLsb' 192 64
def recSize (r : BitVec 256) : Nat := (r.extractLsb' 128 64).toNat
def recRo (r : BitVec 256) : Bool := r.getLsbD 1
def recScratch (r : BitVec 256) : Bool := r.getLsbD 0

/-- A record of a job. -/
def Job.record? (j : Job) (i : Nat) : Option (BitVec 256) := j.recs[i]?

/-- Row 3 of R151: a scratch record beyond the allocation. -/
def recordBeyond (c : Cur) (r : BitVec 256) : Bool :=
  recScratch r && decide (c.j.scratchSize < (recBase r).toNat + recSize r)

/-- Rows 1 to 3 of R151: the fault, if one fails. Reserved bits of a record have no consequence, and SIZE counts as it stands (R89,
log 92). -/
def recordFault (c : Cur) (i : Nat) (store : Bool) : Option (BitVec 8 × BitVec 8) :=
  match c.j.record? i with
  | none => some (fltRecord, 0x01)
  | some r =>
    if store && recRo r then some (fltRecord, 0x03) else if recordBeyond c r then some (fltScratch, 0x01) else none

/-- Rows 1 and 3 of R151 on two records, row by row (R337). -/
def recordsFault (c : Cur) (i k : Nat) : Option (BitVec 8 × BitVec 8) :=
  match c.j.record? i, c.j.record? k with
  | some r, some t => if recordBeyond c r || recordBeyond c t then some (fltScratch, 0x01) else none
  | _, _ => some (fltRecord, 0x01)

/-- The element that an active lane's offset names in a record. -/
def recordPiece (r : BitVec 256) (off size : Nat) : Piece :=
  { scratch := recScratch r, addr := recBase r + BitVec.ofNat 64 off, size := size, val := 0 }

/-- A fault of a lane instruction that a check of its lanes finds, with the data address (R234, log 35). -/
structure LaneFault where
  flt : BitVec 8
  sub : BitVec 8
  addr : Word64
  deriving DecidableEq, Repr

/-- Row 4 of R151, over the lanes' offsets. -/
def extentFault (r : BitVec 256) (size : Nat) (offs : List Nat) : Option LaneFault :=
  if offs.any (fun o => decide (recSize r < o + size)) then some { flt := fltRecord, sub := 0x02, addr := 0 } else none

/-- An element not naturally aligned: FLT_ALIGN (R151, R365). -/
def alignFault : List Piece → Option LaneFault
  | [] => none
  | p :: ps => if p.addr.toNat % p.size ≠ 0 then some { flt := fltAlign, sub := 0, addr := p.addr } else alignFault ps

/-- The lane's offset: the low word of A (R195, R365). -/
def Lane.off (x : Lane) (l : Nat) : Nat := ((x.raw (x.opA x.f.ty) l).extractLsb' 0 32).toNat

/-- The data a store or an atomic takes from B or C. -/
def Lane.dataB (x : Lane) (l : Nat) : Word64 := x.raw (x.opB x.f.ty) l
def Lane.dataC (x : Lane) (l : Nat) : Word64 := x.raw (x.opC x.f.ty) l

/-- Whether a source register is poisoned in an active lane: A, then B, then C where used. -/
def Lane.dataPoisoned (x : Lane) (useB useC : Bool) : Bool :=
  x.lanes.any (fun l => x.rawPoisoned (x.opA x.f.ty) l || (useB && x.rawPoisoned (x.opB x.f.ty) l)
    || (useC && x.rawPoisoned (x.opC x.f.ty) l))

/-- The record index and the address-form bit of an operation word (R364). -/
def memRecord (f : LaneOps) : Nat := (f.w2.extractLsb' 20 12).toNat
def memAddrForm (f : LaneOps) : Bool := f.w2.getLsbD 19
/-- DISP (R364). -/
def memDisp (f : LaneOps) : Nat := (f.w2.extractLsb' 0 19).toNat

/-! ## The addresses of the forms (R365) -/

/-- What a form says of its lanes: elements, or the first fault of its checks 1, 3 and 4; check 2, poison, stands
between. -/
inductive LaneForm where
  | recordForm | addrForm | blocked | scratch
  deriving DecidableEq, Repr

/-- The element of an active lane (R365). -/
def Lane.piece (x : Lane) (form : LaneForm) (r : BitVec 256) (l : Nat) : Piece :=
  let n := tyBytes x.f.ty
  let plain (a : Word64) : Piece := { scratch := false, addr := a, size := n, val := 0 }
  match form with
  | .recordForm => recordPiece r (x.off l) n
  | .addrForm => plain (x.q.c + BitVec.ofNat 64 (x.off l))
  | .blocked => plain (x.q.a + BitVec.ofNat 64 (memDisp x.f + l * n))
  | .scratch => { scratch := true, addr := BitVec.ofNat 64 (x.off l + memDisp x.f), size := n, val := 0 }

/-- The checks of R365 in order, up to alignment: rows of R151, poison, the scratchpad's end, alignment. -/
def Lane.check (x : Lane) (form : LaneForm) (store : Bool) : Except LaneFault (List (Nat × Piece)) :=
  let n := tyBytes x.f.ty
  let r := (x.c.j.record? (memRecord x.f)).getD 0
  let ps := x.lanes.map (fun l => (l, x.piece form r l))
  let aligned : Except LaneFault (List (Nat × Piece)) :=
    match alignFault (if form = .blocked then (x.piece form r 0) :: [] else ps.map (·.2)) with
    | some e => .error e
    | none => .ok ps
  let poisoned := x.dataPoisoned store false
  let bad (e : LaneFault) : Except LaneFault (List (Nat × Piece)) := .error e
  let poison : LaneFault := { flt := fltPoison, sub := 0x02, addr := 0 }
  match form with
  | .recordForm =>
    match recordFault x.c (memRecord x.f) store with
    | some (flt, sub) => bad { flt := flt, sub := sub, addr := 0 }
    | none =>
      match extentFault r n (x.lanes.map x.off) with
      | some e => bad e
      | none =>
        match aligned with
        | .error e => .error e
        | .ok ps => if poisoned then bad poison else .ok ps
  | .scratch =>
    if poisoned then bad poison
    else if x.lanes.any (fun l => decide (x.c.j.scratchSize < x.off l + memDisp x.f + n)) then
      bad { flt := fltScratch, sub := 0x05, addr := 0 }
    else aligned
  | _ => if poisoned then bad poison else aligned

/-- Completes an instruction that touched no memory. -/
def State.laneSkip (s : State) (x : Lane) : State := s.laneEnd x.c x.c.w x.c.f

/-- Raises what a check found. -/
def State.laneFault (s : State) (x : Lane) (e : LaneFault) : State := s.trapLane x.c x.act e.flt e.sub e.addr

/-- A lane memory instruction (R164, R365): it waits for the fragment's posted stores; with no active lane it does nothing
more; then `k`. -/
def laneMemRun (s : State) (op : BitVec 10) (f : LaneOps) (k : State → Lane → State) : Out :=
  laneRun s op f (fun _ => none) (fun s1 x => if x.act = 0 then s1.laneSkip x else k s1 x) true

/-! ## Lanes ahead of others (R168) -/

/-- The places of the active lanes' elements: those they have had since the first lane was performed. -/
def State.laneLocs (s : State) (w : Who) (x : Lane) (u : Use) (ps : List Piece) :
    Except (PageFault × Word64) (List (Loc × Piece)) :=
  match x.c.f.flight with
  | none => s.pieceLocs w x.c.g u ps
  | some fl => .ok (fl.places.zip ps)

/-- What a lane that is performed already has read. -/
def Lane.got (x : Lane) (l : Nat) : Option Nat :=
  match x.c.f.flight with
  | none => none
  | some fl => (fl.got.find? (fun y => y.1 == l)).map (fun y => y.2)

/-- The lanes of a list that are still to be performed. -/
def Lane.todo {α : Type} (x : Lane) (ps : List (Nat × α)) : List (Nat × α) :=
  match x.c.f.flight with
  | none => ps
  | some fl => ps.filter (fun p => !fl.got.any (fun y => y.1 == p.1))

/-- A loaded element, placed in its lane (R104, R366). -/
def loaded (t : BitVec 5) (v : Nat) : Word64 :=
  if tyIsSigned t ∧ tyBits t < 32 ∧ 2 ^ (tyBits t - 1) ≤ v then BitVec.ofNat 64 (v + 2 ^ 32 - 2 ^ tyBits t)
  else BitVec.ofNat 64 v

/-- A load: every active lane translates before any lane is performed (R153, R366). -/
def laneLoad (s : State) (op : BitVec 10) (f : LaneOps) (form : LaneForm) : Out :=
  laneMemRun s op f (fun s1 x =>
    match x.check form false with
    | .error e => s1.laneFault x e
    | .ok ps =>
      let who := s1.who x.c false
      match s1.laneLocs who x .read (ps.map (·.2)) with
      | .error (e, va) => s1.pageLane x.c x.act e va .read
      | .ok ls =>
        let vs := ((ps.map (·.1)).zip ls).map (fun p =>
          (p.1, loaded f.ty ((x.got p.1).getD (s1.readLoc who x.c.g p.2.1 p.2.2.size))))
        s1.laneEnd x.c (vs.foldl (fun w v => w.put f.ty f.dest v.1 v.2) x.c.w)
          { x.c.f with peeks := ls.foldl (fun ps y => s1.takePeek y.1 ps) x.c.f.peeks })

/-- The low bytes of a value. -/
def lowBytes (n : Nat) (v : Word64) : Word64 := BitVec.ofNat 64 (v.toNat % 2 ^ (8 * n))

/-- A store (R367): posted once its checks pass; one to the plain scratchpad, which translates nothing, is performed
at once. In an exit routine every element lies in the save slot, and the record form is an overrun with no active lane too
(R369). -/
def laneStore (s : State) (op : BitVec 10) (f : LaneOps) (form : LaneForm) : Out :=
  laneRun s op f (fun _ => none) (mem := true) (fun s1 x =>
    let r := (x.c.j.record? (memRecord f)).getD 0
    if x.c.f.exiting && (form == .recordForm
        || x.lanes.any (fun l => !s1.inSaveSlot x.c (x.piece form r l).addr (tyBytes f.ty))) then s1.exitOverrun x.c
    else if x.act = 0 then s1.laneSkip x
    else
      match x.check form true with
      | .error e => s1.laneFault x e
      | .ok ps =>
        let es := ps.map (fun p => { p.2 with val := lowBytes p.2.size (x.dataB p.1) })
        if es.all (fun e => e.scratch && (x.c.g.stashAddr e.addr.toNat).isNone) then
          (s1.performAll x.c.g.ref ((x.todo ((ps.map (·.1)).zip es)).map (fun e => (Loc.scratch e.2.addr.toNat, e.2)))).laneSkip x
        else
          let pc := match x.c.f.queue with | q :: _ => q.addr | [] => x.c.f.lpc
          (s1.laneSkip x).modFrag x.c.f.ref (fun fr => { fr with posted := fr.posted ++
            [{ id := s1.serial, elems := es, pc := pc, lane := true, lanes := x.act, fault := none, killed := false }] })
            |> fun s2 => { s2 with serial := s1.serial + 1 })

/-- VLD: the record form or the address form (R364). -/
def execVld (f : LaneOps) (s : State) : Out := laneLoad s 0x200 f (if memAddrForm f then .addrForm else .recordForm)
/-- VST: the record form or the address form (R364). -/
def execVst (f : LaneOps) (s : State) : Out := laneStore s 0x201 f (if memAddrForm f then .addrForm else .recordForm)
/-- VLDB (R364). -/
def execVldb (f : LaneOps) (s : State) : Out := laneLoad s 0x202 f .blocked
/-- VSTB (R364). -/
def execVstb (f : LaneOps) (s : State) : Out := laneStore s 0x203 f .blocked
/-- VLDS (R364). -/
def execVlds (f : LaneOps) (s : State) : Out := laneLoad s 0x204 f .scratch
/-- VSTS (R364). -/
def execVsts (f : LaneOps) (s : State) : Out := laneStore s 0x205 f .scratch

/-- VPREF faults on poison only and changes nothing (R368). -/
def execVpref (f : LaneOps) (s : State) : Out :=
  laneRun s 0x207 f (fun x => if x.dataPoisoned false false then some 0x02 else none) (fun s1 x => s1.laneSkip x)

/-! ## Atomics (R195 to R201) -/

/-- What an atomic writes over an old value, and its flags; nothing where a comparison fails (R196, R197). -/
def atomNew (t : BitVec 5) (op : Nat) (rm : RM) (subn : Bool) (old b c : Nat) : Option Nat × BitVec 7 :=
  let n := tyBits t
  let a := elemInt t (BitVec.ofNat 64 old)
  let k := elemInt t (BitVec.ofNat 64 b)
  match op with
  | 0 => if t = 0x0C then let r := fmtF32.add rm subn false old b; (some r.1, r.2) else (some ((old + b) % 2 ^ n), 0)
  | 1 => (some (if a ≤ k then old else b), 0)
  | 2 => (some (if k ≤ a then old else b), 0)
  | 3 => (some (Nat.land old b), 0)
  | 4 => (some (Nat.lor old b), 0)
  | 5 => (some (Nat.xor old b), 0)
  | 6 => (some b, 0)
  | _ => (if old = c then some b else none, 0)

/-- Performs atomics one after another, given the old value of each or reading it; the old values come back (R168). Remote writes to the
word of one arrive before it (R177). -/
def State.atomPass (s : State) (w : Who) (g : WgRef) (store : Nat × Nat) (n : Nat) (h : Nat → Nat → Option Nat) :
    List (Nat × Loc × Option Nat) → List (Nat × Nat) × State
  | [] => ([], s)
  | (l, p, given) :: ps =>
    match s.wg? g with
    | none => ([], s)
    | some x =>
      let s0 := s.landAt p
      let old := given.getD (s0.readLoc { w with peeks := [] } x p n)
      let s1 := match h l old with | some v => (s0.perform g p n v).spillHit w.kernel store p n v | none => s0.touchLoc p
      let r := s1.atomPass w g store n h ps
      ((l, old) :: r.1, r.2)

/-- Whether a place is host memory (R201). -/
def Loc.isHost : Loc → Bool
  | .phys p => match regionOf p.pa with | .host => true | _ => false
  | .scratch _ => false

/-- The checks of VATOM up to poison, in order (R151, R199). -/
def Lane.atomCheck (x : Lane) : Except LaneFault (List Piece) :=
  let n := tyBytes x.f.ty
  match recordFault x.c (memRecord x.f) true with
  | some (flt, sub) => .error { flt := flt, sub := sub, addr := 0 }
  | none =>
    let r := (x.c.j.record? (memRecord x.f)).getD 0
    let ps := x.lanes.map (fun l => recordPiece r (x.off l) n)
    match extentFault r n (x.lanes.map x.off) with
    | some e => .error e
    | none =>
      match alignFault ps with
      | some e => .error e
      | none =>
        if x.dataPoisoned true (x.f.flags == 7) then .error { flt := fltPoison, sub := 0x02, addr := 0 } else .ok ps

/-- What a lane's atomic writes over an old value, and its flags. -/
def Lane.atomVal (x : Lane) (l old : Nat) : Option Nat × BitVec 7 :=
  let n := tyBytes x.f.ty
  atomNew x.f.ty x.f.flags.toNat (rmOf x.f.rnd x.q.fmode) (subnOf x.q.fmode) old
    ((x.dataB l).toNat % 2 ^ (8 * n)) ((x.dataC l).toNat % 2 ^ (8 * n))

/-- The old values of all lanes: of those performed ahead and of those performed now. -/
def Lane.olds (x : Lane) {α : Type} (ps : List (Nat × α)) (now : List (Nat × Nat)) : List (Nat × Nat) :=
  match x.c.f.flight with
  | none => now
  | some _ => ps.map (fun p => (p.1, (x.got p.1).getD ((now.find? (fun y => y.1 == p.1)).elim 0 (fun y => y.2))))

/-- The free choices of an atomic's stores in a spill region (R210): they stand for the whole instruction. -/
def Lane.store (x : Lane) (now : Nat) : Nat × Nat :=
  ((match x.c.f.flight with | some fl => fl.since | none => now), 2 ^ 62)

/-- An operation that has no PCIe AtomicOp (R201). -/
def noAtomicOp (op : Nat) (t : BitVec 5) : Bool := !((op == 0 && t != 0x0C) || op == 6 || op == 7)

/-- The entries of a log that a VATOM's old values fill (R257). -/
def atomEntries (olds : List (Nat × Nat)) : List Logged := olds.map (fun o => { lane := o.1, kind := 0, value := BitVec.ofNat 64 o.2 })

/-- The old value that a log holds for a lane of a VATOM. -/
def Lane.logOld (x : Lane) (vs : Option (List Word64)) (l : Nat) : Option Nat :=
  vs.bind (fun v => ((x.lanes.zip v).find? (fun y => y.1 == l)).map (fun y => y.2.toNat % 2 ^ (8 * tyBytes x.f.ty)))

/-- VATOM: translated in every lane under W, then performed in lane order; its old values are results of the log
(R199, R257). An AtomicOp that the host refuses to carry faults first; one that the host answers with an error, which
is free, leaves the lanes before it performed (R201). -/
def execVatom (f : LaneOps) (s : State) : Out :=
  laneMemRun s 0x206 f (fun s1 x =>
    let t := f.ty
    let op := f.flags.toNat
    let n := tyBytes t
    match x.atomCheck with
    | .error e => s1.laneFault x e
    | .ok ps =>
      let who := s1.who x.c false
      match s1.laneLocs who x .write ps with
      | .error (e, va) => s1.pageLane x.c x.act e va .write
      | .ok ls =>
        let h (l old : Nat) := (x.atomVal l old).1
        let pairs := x.lanes.zip (ls.map (·.1))
        if pairs.any (fun p => p.2.isHost) && noAtomicOp op t then
          s1.trapLane x.c x.act fltRecord 0x04
        else
          let good := pairs.takeWhile (fun p => !(p.2.isHost && (x.got p.1).isNone && s1.choose p.1 2 == 1))
          let pass := s1.atomPass who x.c.g.ref (x.store s1.fresh) n h ((x.todo good).map (fun p => (p.1, p.2, none)))
          if good.length < pairs.length then pass.2.trapLane x.c x.act fltRecord 0x05
          else
            let olds := x.olds good pass.1
            s1.logged x.c (atomEntries olds) (fun s2 vs =>
              let given := (pairs.zip vs).map (fun p => (p.1.1, p.1.2, some (p.2.toNat % 2 ^ (8 * n))))
              let s3 := (s2.atomPass who x.c.g.ref (x.store s1.fresh) n h (x.todo given)).2
              let w := if f.w2.getLsbD 19 then x.c.w
                else given.foldl (fun w v => w.put t f.dest v.1 (BitVec.ofNat 64 (v.2.2.getD 0))) x.c.w
              s3.laneEnd x.c w
                (x.c.f.flag (given.foldl (fun acc v => acc ||| (x.atomVal v.1 (v.2.2.getD 0)).2) 0))))

/-! ## One lane ahead of the others (R168) -/

/-- The flight of an instruction, begun at a step where none of its lanes had been performed; `log` are the entries that it then keeps. -/
def Lane.flight (x : Lane) (places : List Loc) (now : Nat) (log : Option (BitVec 2 × Nat) := none) : Flight :=
  x.c.f.flight.getD { places := places, got := [], since := now, log := log }

/-- The fragment once a lane has been performed ahead. -/
def Lane.flown (x : Lane) (places : List Loc) (now l v : Nat) (log : Option (BitVec 2 × Nat) := none) : Frag :=
  let fl := x.flight places now log
  { x.c.f with flight := some { fl with got := fl.got ++ [(l, v)] } }

/-- The log past the entries that the first lane ahead of an instruction keeps for it. -/
def State.logFirst (s : State) (x : Lane) (n : Nat) : State :=
  if x.c.f.flight.isNone && x.c.logKeep.isSome then s.logPast x.c n else s

/-- A load's lane reads. -/
def State.loadAhead (s : State) (x : Lane) (form : LaneForm) (l : Nat) : State :=
  match x.check form false with
  | .error _ => s
  | .ok ps =>
    let who := s.who x.c false
    match s.laneLocs who x .read (ps.map (·.2)) with
    | .error _ => s
    | .ok ls =>
      match (x.todo ((ps.map (·.1)).zip ls)).find? (fun p => p.1 == l) with
      | none => s
      | some p => s.setFrag (x.flown (ls.map (·.1)) s.fresh l (s.readLoc who x.c.g p.2.1 p.2.2.size))

/-- A lane of a store to the plain scratchpad is performed, unless a lower one to its element is still to be. -/
def State.storeAhead (s : State) (x : Lane) (form : LaneForm) (l : Nat) : State :=
  match x.check form true with
  | .error _ => s
  | .ok ps =>
    let es := x.todo (ps.map (fun p => (p.1, { p.2 with val := lowBytes p.2.size (x.dataB p.1) })))
    match es.find? (fun p => p.1 == l) with
    | none => s
    | some p =>
      if !(ps.all (fun e => e.2.scratch && (x.c.g.stashAddr e.2.addr.toNat).isNone))
          || es.any (fun e => decide (e.1 < l) && e.2.addr == p.2.addr) then s
      else (s.performAll x.c.g.ref [(Loc.scratch p.2.addr.toNat, p.2)]).setFrag (x.flown [] s.fresh l 0)

/-- A lane of an atomic is performed, unless a lower one to its element is still to be; in replay over the value that the log holds
(R257). Under a log an atomic on host memory, which may end in a fault, is performed as a whole (log 117). -/
def State.atomAhead (s : State) (x : Lane) (l : Nat) : State :=
  match x.atomCheck with
  | .error _ => s
  | .ok ps =>
    let who := s.who x.c false
    match s.laneLocs who x .write ps, s.logAhead x.c (atomEntries (x.lanes.map (fun k => (k, 0)))) with
    | .ok ls, some vs =>
      let pairs := x.todo (x.lanes.zip (ls.map (·.1)))
      match pairs.find? (fun p => p.1 == l) with
      | none => s
      | some p =>
        if (ls.any (fun y => y.1.isHost) && (noAtomicOp x.f.flags.toNat x.f.ty || x.c.logKeep.isSome))
            || pairs.any (fun y => decide (y.1 < l) && y.2 == p.2) then s
        else
          let n := tyBytes x.f.ty
          let r := s.atomPass who x.c.g.ref (x.store s.fresh) n (fun l old => (x.atomVal l old).1) [(l, p.2, x.logOld vs l)]
          (r.2.logFirst x x.lanes.length).setFrag
            (x.flown (ls.map (·.1)) s.fresh l ((r.1.head?).elim 0 (fun y => y.2)) x.c.logKeep)
    | _, _ => s

/-- The fields of a queue entry's instruction in its present repeat (R64). -/
def QEntry.fields (q : QEntry) : LaneOps :=
  if q.left = 0 then laneFields q.word else repFields q.rep (repCount q.rep - q.left) (laneFields q.word)

/-- The lane instruction at the head of a queue. -/
def QEntry.instr (q : QEntry) : Option Instr := laneInstr (laneOpcode q.word) q.fields

/-- A queue entry's instruction as it issues. -/
def QEntry.lane (q : QEntry) (c : Cur) : Lane :=
  { c := c, f := q.fields, q := q, act := c.active q.fields.msel, width := c.j.width }

/-- A VATOM of a fragment that is gone, under way in some of its lanes, is performed in the others: it is performed in all or in none
(R199), and the entries that a log keeps for it hold its old values (R257). -/
def State.finishAtom (s : State) (c : Cur) : State :=
  match c.f.flight, c.f.queue with
  | some fl, q :: _ =>
    match q.instr with
    | some (.vatom _) =>
      let x := q.lane c
      let pairs := x.lanes.zip fl.places
      let vs := (s.logAhead c (atomEntries (x.lanes.map (fun k => (k, 0))))).getD none
      let r := s.atomPass (s.who c false) c.g.ref (x.store s.fresh) (tyBytes x.f.ty) (fun l old => (x.atomVal l old).1)
        ((x.todo pairs).map (fun p => (p.1, p.2, x.logOld vs p.1)))
      if c.j.log.mode = 1 ∧ c.logKept.isSome then r.2.logWrite c (atomEntries (x.olds pairs r.1)) else r.2
    | _ => s
  | _, _ => s

/-- The VATOMs under way of fragments that a workgroup has lost are performed to their end (R199). -/
def State.finishHalfway (s : State) (r : WgRef) : State :=
  match s.wg? r with
  | none => s
  | some g =>
    let s0 := s.modWg r (fun x => { x with halfway := [] })
    g.halfway.foldl (fun acc f =>
      match acc.wave? f.ref.wave, acc.wg? r, acc.job? r.job with
      | some w, some g1, some j => acc.finishAtom { f := f, w := w, g := g1, j := j }
      | _, _, _ => acc) s0

/-! ## Ragged loads (R136, R137, R337) -/

/-- How an RLOAD's walk ends early. -/
inductive RagStop where
  | fault (sub : BitVec 8)
  | page (e : PageFault) (va : Word64)
  deriving DecidableEq, Repr

/-- Entry `i` of a row-length table. -/
def State.rowLen (s : State) (w : Who) (g : Wg) (r : BitVec 256) (i : Nat) : Except RagStop Nat :=
  match s.pieceLoc w g (recordPiece r (4 * i) 4) .read with
  | .error (e, va) => .error (.page e va)
  | .ok l => .ok (s.readPiece w g (recordPiece r (4 * i) 4) l)

/-- Walks the row number forward for element `q`: past every entry at most `q`; an entry below its predecessor faults. -/
def State.rowWalk (s : State) (w : Who) (g : Wg) (rec : BitVec 256) (q : Nat) : Nat → Nat → Except RagStop Nat
  | 0, r => .ok r
  | n + 1, r =>
    match s.rowLen w g rec r with
    | .error e => .error e
    | .ok v =>
      if q < v then .ok r
      else
        match (if r = 0 then Except.ok 0 else s.rowLen w g rec (r - 1)) with
        | .error e => .error e
        | .ok u => if v < u then .error (.fault 0x20) else s.rowWalk w g rec q n (r + 1)

/-- What RLOAD finds for a lane: its element and row, and whether it starts a segment; none past the last row. -/
structure RagLane where
  lane : Nat
  q : Nat
  row : Nat
  seg : Bool
  inRange : Bool
  deriving DecidableEq, Repr

/-- The walk over the lanes from `l` (R137); a row number beyond the table counts as past its last row (log 34). -/
def State.ragLanes (s : State) (w : Who) (g : Wg) (rec : BitVec 256) (act : Word64) (nrows p lo : Nat) :
    List Nat → Nat → Except RagStop (List RagLane × Nat)
  | [], r => .ok ([], r)
  | l :: ls, r =>
    match s.rowWalk w g rec (p + l) (nrows - r) r with
    | .error e => .error e
    | .ok r1 =>
      match (if r1 = 0 ∨ nrows ≤ r1 then Except.ok 0 else s.rowLen w g rec (r1 - 1)) with
      | .error e => .error e
      | .ok start =>
        match s.ragLanes w g rec act nrows p lo ls r1 with
        | .error e => .error e
        | .ok (xs, rEnd) =>
          let x : RagLane := { lane := l, q := p + l, row := r1, seg := decide (r1 < nrows) && (p + l == start || l == lo)
                               inRange := decide (r1 < nrows) }
          .ok (if act.getLsbD l then x :: xs else xs, rEnd)

/-- Raises what stopped an RLOAD. -/
def State.ragStop (s : State) (x : Lane) : RagStop → State
  | .fault sub => s.trapLane x.c x.act fltRecord sub
  | .page e va => s.pageLane x.c x.act e va .read

/-- The writes of an RLOAD: elements, rows, the segment mask and the next cursor (R137). -/
def State.ragWrite (s : State) (x : Lane) (xs : List RagLane) (vals : List (Nat × Word64)) (q r : Nat) : State :=
  let f := x.f
  let w1 := vals.foldl (fun w v => w.put f.ty f.dest v.1 v.2) x.c.w
  let w2 := xs.foldl (fun w y => if y.inRange then w.setV f.b.toNat y.lane (BitVec.ofNat 32 y.row) else w) w1
  let w3 := x.lanes.foldl (fun w l =>
    (w.setV f.a.toNat l (BitVec.ofNat 32 q)).setV (f.a.toNat + 1) l (BitVec.ofNat 32 r)) w2
  let seg := xs.foldl (fun acc y => if y.seg then acc ||| (1#64 <<< y.lane) else acc) 0
  s.laneEnd x.c (w3.setM (f.w2.extractLsb' 5 3).toNat x.act seg) x.c.f

/-- RLOAD (R136, R137, R337). -/
def execRload (f : LaneOps) (s : State) : Out :=
  laneMemRun s 0x2E0 f (fun s1 x =>
    let di := (f.w2.extractLsb' 20 12).toNat
    let li := (f.w2.extractLsb' 8 12).toNat
    match recordsFault x.c di li with
    | some (flt, sub) => s1.trapLane x.c x.act flt sub
    | none =>
      let d := (x.c.j.record? di).getD 0
      let t := (x.c.j.record? li).getD 0
      let nrows := recSize t / 4
      let lo := x.lanes.headD 0
      if x.c.w.vPoisoned f.a.toNat lo || x.c.w.vPoisoned (f.a.toNat + 1) lo then s1.trapLane x.c x.act fltPoison 0x02
      else
        let p := (x.c.w.v f.a.toNat lo).toNat
        let r := (x.c.w.v (f.a.toNat + 1) lo).toNat
        let who := s1.who x.c false
        let ahead : Except RagStop Bool :=
          if r = 0 ∨ nrows < r then .ok false
          else match s1.rowLen who x.c.g t (r - 1) with | .error e => .error e | .ok v => .ok (decide (p < v))
        match ahead with
        | .error e => s1.ragStop x e
        | .ok true => s1.trapLane x.c x.act fltRecord 0x21
        | .ok false =>
          match s1.ragLanes who x.c.g t x.act nrows p lo (List.range x.width) r with
          | .error e => s1.ragStop x e
          | .ok (xs, r1) =>
            match s1.rowWalk who x.c.g t (p + x.width) (nrows - r1) r1 with
            | .error e => s1.ragStop x e
            | .ok rEnd =>
              let n := tyBytes f.ty
              let ins := xs.filter (·.inRange)
              let ps := ins.map (fun y => recordPiece d (y.q * n) n)
              match extentFault d n (ins.map (fun y => y.q * n)) with
              | some e => s1.laneFault x e
              | none =>
                match alignFault ps with
                | some e => s1.laneFault x e
                | none =>
                  match s1.pieceLocs who x.c.g .read ps with
                  | .error (e, va) => s1.pageLane x.c x.act e va .read
                  | .ok ls =>
                    let vals := (ins.map (·.lane)).zip
                      (ls.map (fun q => loaded f.ty (s1.readPiece who x.c.g q.2 q.1)))
                    s1.ragWrite x xs vals (p + x.width) rEnd)

end Sys2Proof.Machine
end

