-- ==== Sys2Proof/Machine/Pool.lean ====
section
/-! DEFINITION. The Nadir pools: PINIT, PPUT, PTAKE, PSTAT, summaries and censuses (R205 to R219, R328, R329). -/

namespace Sys2Proof.Machine

open Sys2Proof

/-- Status codes (R209). -/
def stOk : Word64 := 0
def stEmpty : Word64 := 1
def stFull : Word64 := 2
def stAged : Word64 := 3

/-- Writes a 64-bit value to a pair in every active lane. -/
def Lane.pairAll (x : Lane) (w : Wave) (r : BitVec 8) (v : Word64) : Wave := x.write w 0x01 r (fun _ => v)

/-! ## Creating and destroying (R208, R209) -/

/-- The value of a descriptor field, its default where it holds zero. -/
def poolField (d : BitVec 512) (lo n dflt : Nat) : Nat :=
  let v := (d.extractLsb' lo n).toNat
  if v = 0 then dflt else v

def poolSpillBase (d : BitVec 512) : Word64 := d.extractLsb' 448 64
def poolSpillSize (d : BitVec 512) : Nat := (d.extractLsb' 384 64).toNat
def poolSumm (d : BitVec 512) : Nat := poolField d 352 32 512
def poolBound (d : BitVec 512) : Nat := poolField d 336 16 8
def poolStarve (d : BitVec 512) : Nat := poolField d 320 16 64
def poolDepth (d : BitVec 512) : Nat := poolField d 312 8 4
def poolDies (d : BitVec 512) : BitVec 4 := BitVec.ofNat 4 (poolField d 308 4 15)
def poolJob (d : BitVec 512) : JobRef := { part := (d.extractLsb' 0 4).toNat, id := (d.extractLsb' 32 16).toNat }

/-- A malformed pool descriptor (R208, R209): a reserved bit or a range; the partition is checked apart. -/
def poolBad (d : BitVec 512) : Bool :=
  d.extractLsb' 296 12 != 0 || d.extractLsb' 48 240 != 0 || d.extractLsb' 4 28 != 0
    || decide ((poolSpillBase d).toNat % 65536 ≠ 0) || (poolSpillBase d).extractLsb' 57 7 != 0
    || (poolSpillSize d == 0 && poolSpillBase d != 0)
    || decide (poolSpillSize d % 65536 ≠ 0) || decide (2 ^ 40 < poolSpillSize d)
    || decide (poolSumm d < 64 ∨ 65536 < poolSumm d) || decide (1024 < poolBound d) || decide (16 < poolDepth d)

/-- The lowest pool number that no live pool has. -/
def State.freePool (s : State) : Option Nat := (List.range 64).find? (fun n => !s.pools.any (fun p => p.num == n && p.live))

/-- The generation of a pool number: 0 before its first creation. -/
def State.poolGen (s : State) (n : Nat) : BitVec 16 := match s.pool? n with | some p => p.gen | none => 0

/-- A new pool from a descriptor; its shards stand on the dies of its mask that are not lost (R205, R220). -/
def State.newPool (s : State) (n : Nat) (d : BitVec 512) : Pool :=
  let dies := (List.range 4).filter (fun i => (poolDies d).getLsbD i
    && s.dies.any (fun x => x.id == i && !x.lost))
  { num := n, gen := s.poolGen n + 1, live := !dies.isEmpty, job := poolJob d, psumm := poolSumm d, pbound := poolBound d
    pstarve := poolStarve d, pdepth := poolDepth d, dies := maskOf dies (fun _ => true) |>.setWidth 4, dies0 := maskOf dies (fun _ => true) |>.setWidth 4
    spillBase := poolSpillBase d, spillSize := poolSpillSize d
    shards := dies.map (fun i => { die := i, elems := [], steals := 0, summaries := [] })
    puts := 0, fulls := 0, ageds := 0, censuses := 0, lastCensus := none, takes := [] }

/-- A pool handle (R206). -/
def Pool.handle (p : Pool) : Word64 := (0#32 ++ p.gen ++ 0#10 ++ BitVec.ofNat 6 p.num)

/-- Creates a pool where a number is free (R209). -/
def State.createPool (s : State) (d : BitVec 512) : Option (Word64 × State) :=
  match s.freePool with
  | none => none
  | some n =>
    let p := s.newPool n d
    some (p.handle, { s with pools := s.pools.filter (fun x => x.num != n) ++ [p] })

/-- Destroys a pool: its elements are discarded and its number is free (R209). -/
def Pool.destroyed (p : Pool) : Pool := { p with live := false, shards := [] }

/-- A pool instruction (R207): it waits for the fragment's posted stores; with no active lane it does nothing more. -/
def poolRun (s : State) (op : BitVec 10) (f : LaneOps) (k : State → Lane → State) : Out := laneMemRun s op f k

/-- What the lanes of a pool instruction that are performed already gave (R212), and the lanes that are still to be. -/
def Lane.took (x : Lane) : List (Nat × Word64 × Word64 × Word64) := match x.c.f.flight with | none => [] | some fl => fl.took
def Lane.poolTodo (x : Lane) : List Nat := x.lanes.filter (fun l => !x.took.any (fun t => t.1 == l))

/-- The fragment once the next lane of a pool instruction has been performed ahead of the others. -/
def Lane.tookOne (x : Lane) (now : Nat) (t : Nat × Word64 × Word64 × Word64) (log : Option (BitVec 2 × Nat) := none) : Frag :=
  let fl := x.flight [] now log
  { x.c.f with flight := some { fl with took := fl.took ++ [t] } }

/-- The handle that C names, once the checks of R207 pass. -/
def withPool (s : State) (x : Lane) (k : Pool → State) : State :=
  match s.handleFault x.c x.q.c false with
  | some sub => s.trapLane x.c x.act fltRecord sub
  | none =>
    match s.poolOf x.q.c with
    | none => s.trapLane x.c x.act fltRecord 0x40
    | some p => k p

/-- PINIT that creates a pool (R209). -/
def execPinitCreate (f : LaneOps) (s : State) : Out :=
  poolRun s 0x2D0 f (fun s1 x =>
    let va := x.q.c
    if va.toNat % 64 ≠ 0 then s1.trapLane x.c x.act fltAlign 0 va
    else
      let who := s1.who x.c false
      match s1.locGlobal who va .read with
      | .error e => s1.pageLane x.c x.act e va .read
      | .ok l =>
        let d : BitVec 512 := BitVec.ofNat 512 (s1.readLoc who x.c.g l 64)
        if poolBad d || (!x.c.j.kernel && decide ((poolJob d).part ≠ x.c.j.ref.part)) then
          s1.trapLane x.c x.act fltRecord 0x42
        else
          match s1.createPool d with
          | none => s1.laneEnd x.c (x.pairAll x.c.w f.dest stFull) x.c.f
          | some (h, s2) => s2.laneEnd x.c (x.pairAll (x.pairAll x.c.w f.a h) f.dest stOk) x.c.f)

/-- PINIT that destroys a pool (R209). -/
def execPinitDestroy (f : LaneOps) (s : State) : Out :=
  poolRun s 0x2D0 f (fun s1 x => withPool s1 x (fun p =>
    (s1.setPool p.destroyed).laneEnd x.c (x.pairAll x.c.w f.dest stOk) x.c.f))

/-! ## Putting (R211) -/

/-- Elements that a die holds for all pools. -/
def State.onDie (s : State) (die : Nat) : Nat :=
  (s.pools.map (fun p => ((p.shards.filter (fun h => h.die == die)).map (fun h => h.elems.length)).sum)).sum

/-- A shard's spill share in elements (R211): a share among the dies the pool was created on, which the loss of one leaves
unchanged (R220). -/
def Pool.share (p : Pool) : Nat := p.spillSize / (16 * laneCount (p.dies0.setWidth 64))

/-- The elements of a shard that cannot stand in its spill share. -/
def Pool.forcedOnDie (p : Pool) (die : Nat) : Nat :=
  ((p.shards.filter (fun h => h.die == die)).map (fun h => h.elems.length - p.share)).sum

/-- Whether a put finds both shares full (R211). Which elements stand on the die is open, so between the case where
no placement has room and the case where one that fills both exists, the answer is free. -/
def State.putFull (s : State) (p : Pool) (h : Shard) (i : Nat) : Bool :=
  let n := h.elems.length
  let others := (s.pools.map (fun q => if q.num = p.num then 0 else q.forcedOnDie h.die)).sum
  let must := decide (262144 + p.share < n + 1 + others)
  let may := decide (p.share ≤ n ∧ 262144 + p.share ≤ s.onDie h.die)
  must || (may && s.choose i 2 == 1)

/-- Puts an element into a shard. -/
def Pool.put (p : Pool) (die : Nat) (key val : Word64) (cycle : Nat) : Pool :=
  { p with puts := p.puts + 1
           shards := p.shards.map (fun h => if h.die = die then
             { h with elems := h.elems ++ [{ key := key, val := val, put := cycle, num := p.puts }] } else h) }

/-- The puts of the lanes, ascending; the status of each comes back (R211, R212). -/
def State.putAll (s : State) (num die : Nat) : List (Nat × Word64 × Word64) → List (Nat × Word64) × State
  | [] => ([], s)
  | (l, key, val) :: rest =>
    match s.pool? num with
    | none => ([], s)
    | some p =>
      match p.home die with
      | none => ([], s)
      | some h =>
        if s.putFull p h l then
          let r := (s.setPool { p with fulls := p.fulls + 1 }).putAll num die rest
          ((l, stFull) :: r.1, r.2)
        else
          let r := (s.setPool (p.put h.die key val s.cycle)).putAll num die rest
          ((l, stOk) :: r.1, r.2)

/-- Whether an element that an active lane puts is poisoned (R329). -/
def Lane.putPoisoned (x : Lane) : Bool := x.lanes.any (fun l => x.rawPoisoned (x.opA 0x01) l || x.rawPoisoned (x.opB 0x01) l)

/-- What lanes put: their keys and values. -/
def Lane.puts (x : Lane) (ls : List Nat) : List (Nat × Word64 × Word64) :=
  ls.map (fun l => (l, x.raw (x.opA 0x01) l, x.raw (x.opB 0x01) l))

/-- The end of a PPUT: the status of each lane. -/
def State.putEnd (s : State) (x : Lane) (sts : List (Nat × Word64)) : State :=
  s.laneEnd x.c (sts.foldl (fun w v => w.put 0x01 x.f.dest v.1 v.2) x.c.w) x.c.f

/-- What the lanes performed already were told. -/
def Lane.putDone (x : Lane) : List (Nat × Word64) := x.took.map (fun t => (t.1, t.2.1))

/-- PPUT (R211, R329): one that has been performed in every lane completes, whatever has become of the pool since (R209). -/
def execPput (f : LaneOps) (s : State) : Out :=
  poolRun s 0x2D1 f (fun s1 x =>
    if x.poolTodo.isEmpty then s1.putEnd x x.putDone
    else withPool s1 x (fun p =>
      if x.putPoisoned then s1.trapLane x.c x.act fltPoison 0x02
      else
        let (sts, s2) := s1.putAll p.num x.c.g.die (x.puts x.poolTodo)
        s2.putEnd x (x.putDone ++ sts)))

/-- The next lane of a PPUT is performed: other parties' accesses may fall between it and the one after it (R212). -/
def State.putAhead (s : State) (x : Lane) (l : Nat) : State :=
  match s.poolOf x.q.c with
  | none => s
  | some p =>
    if (s.handleFault x.c x.q.c false).isSome || x.putPoisoned || x.poolTodo.head? != some l then s
    else
      let (sts, s1) := s.putAll p.num x.c.g.die (x.puts [l])
      s1.setFrag (x.tookOne s.fresh (l, (sts.head?).elim 0 (fun v => v.2), 0, 0))

/-! ## Emptiness tokens (R217) -/

/-- Elements present in all shards. -/
def Pool.total (p : Pool) : Nat := (p.shards.map (fun h => h.elems.length)).sum

/-- An armed emptiness token of a pool (R206, R217). -/
def EvSlot.watches (e : EvSlot) (p : Pool) : Bool := e.armed && e.kind == 3 && e.arg == (p.handle ||| 0x100)

/-- An emptiness token's next occurrence is due: at first, and after a put that followed the last (R217). -/
def EvSlot.agreeDue (e : EvSlot) (p : Pool) : Bool := e.watches p && (e.val == 0 || decide (e.val.toNat ≤ p.puts))

/-- Whether the pool's own census rounds leave room for one more in this period (R217). -/
def Pool.roundDue (p : Pool) (cycle : Nat) : Bool :=
  match p.lastCensus with | none => true | some c => decide (c + p.psumm ≤ cycle)

/-- Fires a wave's emptiness tokens of a pool (R217). -/
def Wave.agree (w : Wave) (p : Pool) : Wave :=
  w.evslots.zipIdx.foldl (fun acc x =>
    if x.1.agreeDue p then
      let a := acc.fire x.2 1
      { a with evslots := a.evslots.zipIdx.map (fun y => if y.2 = x.2 then { y.1 with val := BitVec.ofNat 64 (p.puts + 1) } else y.1) }
    else acc) w

/-- A census has agreed on emptiness: where the pool holds no element, the tokens that are due fire (R214, R217). -/
def State.agreed (s : State) (num : Nat) : State :=
  match s.pool? num with
  | none => s
  | some p =>
    if p.live && p.total == 0 then
      ((s.waves.filter (fun w => w.evslots.any (fun e => e.agreeDue p))).map (·.ref)).foldl (fun acc r => acc.settle r)
        { s with waves := s.waves.map (fun w => w.agree p) }
    else s

/-! ## Taking (R211 to R215) -/

/-- The aged element that stands longest in a shard (R215). -/
def Pool.oldestAged (p : Pool) (h : Shard) (cycle : Nat) : Option Elem :=
  (h.elems.filter (fun e => decide (p.pstarve * p.psumm < cycle - e.put))).foldl (fun best e =>
    match best with
    | none => some e
    | some b => if e.put < b.put then some e else some b) none

/-- Settled elements with a key strictly below (R213). -/
def Pool.settledBelow (p : Pool) (key : Word64) (cycle : Nat) : Nat :=
  (p.shards.map (fun h => (h.elems.filter (fun e =>
    decide (2 * p.psumm ≤ cycle - e.put) && e.key.ult key)).length)).sum

/-- The elements that a take may return, with their dies (R213). -/
def Pool.allowed (p : Pool) (cycle : Nat) : List (Nat × Elem) :=
  p.shards.flatMap (fun h => (h.elems.filter (fun e => decide (p.settledBelow e.key cycle < p.pbound))).map (fun e => (h.die, e)))

/-- Removes the element of a number from the shard of a die. -/
def Pool.remove (p : Pool) (die num : Nat) : Pool :=
  { p with shards := p.shards.map (fun h => if h.die = die then { h with elems := h.elems.filter (fun e => e.num != num) } else h) }

/-- Counts a steal of a shard (R216). -/
def Pool.stole (p : Pool) (die : Nat) : Pool :=
  { p with shards := p.shards.map (fun h => if h.die = die then { h with steals := h.steals + 1 } else h) }

/-- Counts a take for each constellation of the wave, where the wave is one of the pool's job (R218). -/
def Pool.countTake (p : Pool) (w : Wave) : Pool :=
  if w.ref.wg.job ≠ p.job then p
  else { p with takes := w.members.foldl (fun t m => Sparse.set t m.con.toNat (Sparse.get t m.con.toNat + 1)) p.takes }

/-- What a take gives: status, key and value. -/
abbrev Taken := Word64 × Word64 × Word64

/-- One take at a shard: the oldest aged element, else one that R213 allows, else EMPTY after a census (R211, R214). -/
def Pool.take (s : State) (p : Pool) (h : Shard) (w : Wave) (i : Nat) : Taken × Pool :=
  match p.oldestAged h s.cycle with
  | some e => ((stAged, e.key, e.val), ({ p.remove h.die e.num with ageds := p.ageds + 1 }).countTake w)
  | none =>
    let ok := p.allowed s.cycle
    match ok[s.choose i ok.length]? with
    | none => ((stEmpty, 0, 0), { p with censuses := p.censuses + 1 })
    | some (d, e) =>
      let q := (p.remove d e.num).countTake w
      ((stOk, e.key, e.val), if d = h.die then q else q.stole h.die)

/-- The takes of the lanes, ascending (R212). -/
def Pool.takeAll (s : State) (w : Wave) (die : Nat) : Pool → List Nat → List (Nat × Taken) × Pool
  | p, [] => ([], p)
  | p, l :: ls =>
    match p.home die with
    | none => ([], p)
    | some h =>
      let (t, q) := p.take s h w l
      let r := Pool.takeAll s w die q ls
      ((l, t) :: r.1, r.2)

/-- A replayed take removes an element that holds what the log says, if one is present (R257, log 36). -/
def Pool.replayTake (p : Pool) (w : Wave) (t : Taken) : Pool :=
  if t.1 = stEmpty then p
  else
    match (p.shards.flatMap (fun h => h.elems.map (fun e => (h.die, e)))).find? (fun x => x.2.key == t.2.1 && x.2.val == t.2.2) with
    | none => p
    | some (d, e) => (p.remove d e.num).countTake w

/-- Groups logged values three by three. -/
def threes : List Word64 → List Taken
  | a :: b :: c :: rest => (a, b, c) :: threes rest
  | _ => []

/-- The entries of a log that a lane's take fills (R257). -/
def takeEntries (ts : List (Nat × Taken)) : List Logged :=
  ts.flatMap (fun t => [{ lane := t.1, kind := 1, value := t.2.1 }, { lane := t.1, kind := 2, value := t.2.2.1 },
    { lane := t.1, kind := 3, value := t.2.2.2 }])

/-- The end of a PTAKE: status, key and value of each lane; of one that got EMPTY the status alone. -/
def State.takeEnd (s : State) (x : Lane) (got : List (Nat × Taken)) : State :=
  s.laneEnd x.c (got.foldl (fun w t =>
    let w1 := if t.2.1 = stEmpty then w else (w.put 0x01 x.f.a t.1 t.2.2.1).put 0x01 x.f.b t.1 t.2.2.2
    w1.put 0x01 x.f.dest t.1 t.2.1) x.c.w) x.c.f

/-- PTAKE (R211, R329): its results are results of the log, three entries a lane (R257); one that has been performed in every lane completes,
whatever has become of the pool since (R209). -/
def execPtake (f : LaneOps) (s : State) : Out :=
  poolRun s 0x2D2 f (fun s1 x =>
    if x.poolTodo.isEmpty then s1.logged x.c (takeEntries x.took) (fun s2 vs => s2.takeEnd x (x.lanes.zip (threes vs)))
    else withPool s1 x (fun p =>
      let (now, q) := Pool.takeAll s1 x.c.w x.c.g.die p x.poolTodo
      s1.logged x.c (takeEntries (x.took ++ now)) (fun s2 vs =>
        let got := x.lanes.zip (threes vs)
        let q1 := if x.c.j.log.mode = 2 then
            (got.filter (fun t => x.poolTodo.contains t.1)).foldl (fun acc t => acc.replayTake x.c.w t.2) p else q
        let s3 := (s2.setPool q1).takeEnd x got
        if now.any (fun t => t.2.1 = stEmpty) then s3.agreed p.num else s3)))

/-- The next lane of a PTAKE is performed, in replay with what the log holds (R212, R257). -/
def State.takeAhead (s : State) (x : Lane) (l : Nat) : State :=
  match s.poolOf x.q.c, s.logAhead x.c (takeEntries (x.lanes.map (fun k => (k, 0, 0, 0)))) with
  | some p, some vs =>
    if (s.handleFault x.c x.q.c false).isSome || x.poolTodo.head? != some l then s
    else
      let r := Pool.takeAll s x.c.w x.c.g.die p [l]
      let (t, q) : Taken × Pool := match vs.bind (fun v => (x.lanes.zip (threes v)).find? (fun y => y.1 == l)) with
        | some y => (y.2, p.replayTake x.c.w y.2)
        | none => ((r.1.head?).elim (stEmpty, 0, 0) (fun y => y.2), r.2)
      let s1 := ((s.setPool q).logFirst x (3 * x.lanes.length)).setFrag (x.tookOne s.fresh (l, t) x.c.logKeep)
      if t.1 = stEmpty then s1.agreed p.num else s1
  | _, _ => s

/-! ## Statistics, summaries, censuses (R216, R217) -/

/-- The least key of a shard, all ones where it holds none. -/
def Shard.least (h : Shard) : Word64 :=
  h.elems.foldl (fun m e => if e.key.ult m then e.key else m) (BitVec.allOnes 64)

/-- The bounds of a shard's elements in its pool's spill region: at least those for which the other pools' elements can leave
no room on the die, and at most the shard's spill share (R211). -/
def State.spilledLow (s : State) (p : Pool) (h : Shard) : Nat :=
  h.elems.length + (s.pools.map (fun q => if q.num = p.num then 0 else q.forcedOnDie h.die)).sum - 262144
def Pool.spilledHigh (p : Pool) (h : Shard) : Nat := min h.elems.length p.share

/-- A shard's elements in the spill region: how many is not architectural, a free number within its bounds (R210). -/
def State.spilled (s : State) (p : Pool) (h : Shard) : Nat :=
  s.spilledLow p h + s.choose h.die (p.spilledHigh h - s.spilledLow p h + 1)

/-- The total of a count over a pool's shards, those read ahead as they were then: it is no snapshot of one instant (R216). -/
def Pool.sum (p : Pool) (ahead : Nat → Option Nat) (count : Shard → Nat) : Word64 :=
  BitVec.ofNat 64 ((p.shards.map (fun h => (ahead h.die).getD (count h))).sum)

/-- A PSTAT value, with what `ahead` says was read of a die's shard before (R216). -/
def Pool.stat (s : State) (p : Pool) (die n con : Nat) (ahead : Nat → Option Nat) : Word64 :=
  let home : Shard := (p.home die).getD { die := die, elems := [], steals := 0, summaries := [] }
  match n with
  | 0 => p.sum ahead (fun h => h.elems.length)
  | 1 => BitVec.ofNat 64 home.elems.length
  | 2 => p.sum ahead (s.spilled p)
  | 3 => BitVec.ofNat 64 p.fulls
  | 4 => BitVec.ofNat 64 p.ageds
  | 5 => BitVec.ofNat 64 home.steals
  | 6 => BitVec.ofNat 64 p.censuses
  | 7 => BitVec.ofNat 16 p.pstarve ++ BitVec.ofNat 16 p.pbound ++ BitVec.ofNat 8 p.pdepth ++ p.dies ++ 0#3 ++ BitVec.ofNat 17 p.psumm
  | 8 => home.least
  | _ => p.takes.get con

/-- PSTAT (R216); its value is a result of the log in every active lane (R257). -/
def execPstat (f : LaneOps) (s : State) : Out :=
  poolRun s 0x2D3 f (fun s1 x => withPool s1 x (fun p =>
    let v := p.stat s1 x.c.g.die (f.w2.extractLsb' 0 4).toNat (f.w2.extractLsb' 4 8).toNat x.got
    s1.logged x.c (x.lanes.map (fun l => { lane := l, kind := 4, value := v })) (fun s2 vs =>
      s2.laneEnd x.c ((x.lanes.zip vs).foldl (fun w t => w.put 0x01 f.dest t.1 t.2) x.c.w) x.c.f)))

/-- A PSTAT of a total reads the count of one die's shard before it completes (R216). -/
def State.statAhead (s : State) (x : Lane) (die : Nat) : State :=
  match s.poolOf x.q.c with
  | none => s
  | some p =>
    let n := (x.f.w2.extractLsb' 0 4).toNat
    if (s.handleFault x.c x.q.c false).isSome || (n != 0 && n != 2) || (x.got die).isSome then s
    else
      match p.shards.find? (fun h => h.die == die) with
      | none => s
      | some h => s.setFrag (x.flown [] s.fresh die (if n = 0 then h.elems.length else s.spilled p h))

/-- Inserts into an ascending list of keys. -/
def insertKey (k : Word64) : List Word64 → List Word64
  | [] => [k]
  | x :: xs => if k.ult x then k :: x :: xs else x :: insertKey k xs

/-- What a shard reports: its count and its PDEPTH least keys (R217). -/
def Shard.report (h : Shard) (depth : Nat) : Nat × List Word64 :=
  (h.elems.length, (h.elems.foldl (fun acc e => insertKey e.key acc) []).take depth)

/-- POOL_SUMMARY: a shard's report reaches every other shard of its pool. -/
def execPoolSummary (pool : BitVec 6) (d : BitVec 2) (s : State) : Out :=
  .next (s.modPool pool.toNat (fun p =>
    match p.shards.find? (fun h => h.die == d.toNat) with
    | none => p
    | some h =>
      let r := h.report p.pdepth
      { p with shards := p.shards.map (fun g => if g.die = h.die then g else
          { g with summaries := g.summaries.filter (fun x => x.1 != h.die) ++ [(h.die, r.1, r.2)] }) }))

/-- POOL_CENSUS: while an emptiness token is armed and the pool holds no element, the pool runs a census round, at most one in a
period, which agrees (R214, R217). -/
def execPoolCensus (pool : BitVec 6) (s : State) : Out :=
  .next (
    match s.pool? pool.toNat with
    | none => s
    | some p =>
      if p.live && p.total == 0 && p.roundDue s.cycle && s.waves.any (fun w => w.evslots.any (fun e => e.watches p)) then
        (s.setPool { p with censuses := p.censuses + 1, lastCensus := some s.cycle }).agreed p.num
      else s)

/-! ## Lanes and reads ahead of their instruction (R141, R168, R212) -/

/-- Whether the instruction at the head of a fragment's lane queue may have accesses before it issues as a whole: those before it in program
order are performed; in an exit routine it is a VLDS (R74). -/
def State.mayRunAhead (s : State) (x : Lane) (i : Instr) : Bool :=
  (!x.c.f.exiting || (match i with | .vlds _ => true | _ => false)) && x.c.f.posted.isEmpty && !s.behindStores x.c.f && !x.c.w.mPoisoned x.f.msel.toNat x.c.f.exec

/-- One lane of the instruction at the head of a fragment's lane queue is performed ahead of the others; of a PSTAT, the read of one die's shard. -/
def State.aheadOf (s : State) (x : Lane) (i : Instr) (l : Nat) : State :=
  if x.act = 0 || !s.mayRunAhead x i then s
  else
    match i with
    | .vld f => s.loadAhead x (if memAddrForm f then .addrForm else .recordForm) l
    | .vldb _ => s.loadAhead x .blocked l
    | .vlds _ => s.loadAhead x .scratch l
    | .vst f => s.storeAhead x (if memAddrForm f then .addrForm else .recordForm) l
    | .vstb _ => s.storeAhead x .blocked l
    | .vsts _ => s.storeAhead x .scratch l
    | .vatom _ => s.atomAhead x l
    | .pput _ => s.putAhead x l
    | .ptake _ => s.takeAhead x l
    | .pstat _ => s.statAhead x l
    | _ => s

/-- An RLOAD, BLOAD, MMA or MVSTREAM at the head of a fragment's lane queue reads an 8-byte unit before it issues as a whole: its reads fall
anywhere relative to one another (R141, R167, R168). -/
def State.readAhead (s : State) (x : Lane) (i : Instr) (sp : Bool) (addr : Nat) : State :=
  let a := addr / 8 * 8
  let reads := match i with | .rload _ | .bload _ | .mma _ | .mvstream _ => true | _ => false
  if !reads || !s.mayRunAhead x i || (sp && decide (x.c.j.scratchSize < a + 8)) then s
  else
    match s.sideBytes (s.who x.c false) x.c.g (fun o => (sp, a + o)) 0 8 with
    | none => s
    | some xs => s.setFrag { x.c.f with seen := freshen xs x.c.f.seen }

end Sys2Proof.Machine
end

