-- ==== Sys2Proof/Machine/Matrix.lean ====
section
/-! DEFINITION. The matrix engine and the B-store: format blocks (R105 to R109), dot products (R117, R118), MMA, MVSTREAM,
BLOAD and the accumulator moves (R138 to R148, R283, R284, R299, R325, R326). -/

namespace Sys2Proof.Machine

open Sys2Proof

/-! ## Format blocks -/

/-- An operand descriptor's fields (R108). -/
def descOe (d : BitVec 192) : Word64 := d.extractLsb' 128 64
def descScale (d : BitVec 192) : Word64 := d.extractLsb' 64 64
def descOeSp (d : BitVec 192) : Bool := d.getLsbD 15
def descScSp (d : BitVec 192) : Bool := d.getLsbD 14
def descKind (d : BitVec 192) : Nat := (d.extractLsb' 10 2).toNat
def descBlk (d : BitVec 192) : Nat := 16 * 2 ^ (d.extractLsb' 8 2).toNat
def descFmt (d : BitVec 192) : BitVec 5 := d.extractLsb' 0 5

/-- The element width of a matrix format. -/
def matBits (t : BitVec 5) : Nat := tyBits t

/-- The formats an operand may have (R108). -/
def matFormats : List Nat := [0x0A, 0x0B, 0x0D, 0x0E, 0x0F, 0x10]

/-- Bits of an address beyond its space's form. -/
def addrForm (sp : Bool) (a : Word64) : Bool := if sp then decide (2 ^ 19 ≤ a.toNat) else decide (2 ^ 57 ≤ a.toNat)

/-- A malformed descriptor (R108, R109). -/
def descBad (d : BitVec 192) : Bool :=
  d.extractLsb' 16 48 != 0 || d.extractLsb' 12 2 != 0 || d.extractLsb' 5 3 != 0 || descKind d == 3
    || !matFormats.contains (descFmt d).toNat
    || (descFmt d != 0x10 && descOe d != 0) || (descKind d == 0 && descScale d != 0)
    || addrForm (descOeSp d) (descOe d) || addrForm (descScSp d) (descScale d)

/-- A format block's descriptors. -/
def blockA (b : BitVec 512) : BitVec 192 := b.extractLsb' 0 192
def blockB (b : BitVec 512) : BitVec 192 := b.extractLsb' 192 192

/-- A malformed format block (R107, R109). -/
def blockBad (b : BitVec 512) : Bool :=
  b.extractLsb' 389 123 != 0 || b.extractLsb' 384 5 != 0x0C || descBad (blockA b) || descBad (blockB b)

/-- K of a pair of formats (R108). -/
def blockK (b : BitVec 512) : Nat := min (2048 / matBits (descFmt (blockA b))) (2048 / matBits (descFmt (blockB b)))

/-! ## Reading spans of memory -/

/-- How a matrix instruction's reads stop it. -/
inductive MatStop where
  | fault (flt sub : BitVec 8) (addr : Word64)
  | page (e : PageFault) (va : Word64)
  deriving DecidableEq, Repr

/-- The `n` bytes from an address, line by line, each as it was read ahead or as it stands (R141); `fuel` bounds the lines. -/
def State.spanRead (s : State) (w : Who) (g : Wg) (scratch : Bool) : Nat → Nat → Nat → Except MatStop (List Byte)
  | 0, _, _ => .ok []
  | k + 1, a, n =>
    if n = 0 then .ok []
    else
      let m := min n (128 - a % 128)
      match s.pieceLoc w g { scratch := scratch, addr := BitVec.ofNat 64 a, size := m, val := 0 } .read with
      | .error (e, va) => .error (.page e va)
      | .ok l =>
        match s.spanRead w g scratch k (a + m) (n - m) with
        | .error e => .error e
        | .ok bs => .ok ((List.range m).map (fun i => w.seenByte scratch (a + i) (s.locByte w g l i)) ++ bs)

/-- Bytes as a little-endian number. -/
def bytesNum (bs : List Byte) : Nat := bs.foldr (fun b acc => b.toNat + 256 * acc) 0

/-- The bytes of a scale or OE array, those of row or column `i` from `base + i · nb` (R108); beyond the allocation of the
scratchpad: FLT_SCRATCH_RANGE, SUB 0x02. -/
def State.blockBytes (s : State) (w : Who) (c : Cur) (sp : Bool) (base n : Nat) : Except MatStop (List Nat) :=
  if sp && decide (c.j.scratchSize < base + n) then .error (.fault fltScratch 0x02 0)
  else
    match s.spanRead w c.g sp (n / 128 + 2) base n with
    | .error e => .error e
    | .ok bs => .ok (bs.map (·.toNat))

/-- The scale bytes of row or column `i` over `nb` blocks (R105, R108). -/
def State.scaleBytes (s : State) (w : Who) (c : Cur) (d : BitVec 192) (nb i : Nat) : Except MatStop (List Nat) :=
  match descKind d with
  | 0 => .ok (List.replicate nb 0x7F)
  | 1 => s.blockBytes w c (descScSp d) ((descScale d).toNat + i * nb) nb
  | _ =>
    match s.blockBytes w c (descScSp d) (descScale d).toNat 1 with
    | .error e => .error e
    | .ok bs => .ok (List.replicate nb (bs.headD 0))

/-- The OE bytes of row or column `i`; a non-zero high nibble is a malformed format block (R106). -/
def State.oeBytes (s : State) (w : Who) (c : Cur) (d : BitVec 192) (nb i : Nat) : Except MatStop (List Nat) :=
  if descFmt d ≠ 0x10 then .ok (List.replicate nb 0)
  else
    match s.blockBytes w c (descOeSp d) ((descOe d).toNat + i * nb) nb with
    | .error e => .error e
    | .ok bs => if bs.any (fun b => decide (16 ≤ b)) then .error (.fault fltRecord 0x10 0) else .ok bs

/-- The scale and OE bytes of a list of rows or columns. Which of several faults is raised the spec leaves open: the first in the list's order,
scale before OE (log 106). -/
def State.operandBytes (s : State) (w : Who) (c : Cur) (d : BitVec 192) (nb : Nat) :
    List Nat → Except MatStop (List (Nat × List Nat × List Nat))
  | [] => .ok []
  | i :: is =>
    match s.scaleBytes w c d nb i with
    | .error e => .error e
    | .ok sc =>
      match s.oeBytes w c d nb i with
      | .error e => .error e
      | .ok oe =>
        match s.operandBytes w c d nb is with
        | .error e => .error e
        | .ok rest => .ok ((i, sc, oe) :: rest)

/-! ## Elements and dot products -/

/-- A finite value times the scale 2^(e − 127); a NaN where the scale marks its block so (R105). -/
def scaled (sc : Nat) (v : FVal) : FVal :=
  if sc = 0xFF then .nan false
  else match v with | .fin n m e => .fin n m (e + sc - 127) | x => x

/-- An integer as a value; zero is +0. -/
def intVal (i : Int) : FVal := .fin (decide (i < 0)) i.natAbs 0

/-- Element `k` of a row or column whose bits are given, with its block's bytes; whether it is a bad q4e code (R106,
R139). -/
def element (t : BitVec 5) (blk : Nat) (bits : Nat) (sc oe : List Nat) (k : Nat) : FVal × Bool :=
  let s := sc.getD (k / blk) 0x7F
  if t = 0x10 then
    let i := k / 2 * 2
    let r := q4eDecode (bits / 2 ^ (4 * i) % 16) (bits / 2 ^ (4 * i + 4) % 16) (oe.getD (k / blk) 0)
    (scaled s (intVal (if k % 2 = 0 then r.1 else r.2.1)), r.2.2)
  else
    let w := matBits t
    match fmtOf t with
    | none => (.nan false, false)
    | some f => (scaled s (f.decode false (bits / 2 ^ (w * k) % 2 ^ w)), false)

/-- A product of two elements; ∞ × 0 is a NaN (R117, R118). -/
def prodVal (x y : FVal) : FVal :=
  match x, y with
  | .nan _, _ | _, .nan _ => .nan false
  | .inf n, .inf k => .inf (xor n k)
  | .inf n, .fin k m _ => if m = 0 then .nan false else .inf (xor n k)
  | .fin n m _, .inf k => if m = 0 then .nan false else .inf (xor n k)
  | .fin n1 m1 e1, .fin n2 m2 e2 => .fin (xor n1 n2) (m1 * m2) (e1 + e2)

/-- The exponent of a finite value. -/
def FVal.exp : FVal → Int | .fin _ _ e => e | _ => 0

/-- How many low zero bits a non-zero number has, up to `fuel`. -/
def lowZeros : Nat → Nat → Nat
  | 0, _ => 0
  | k + 1, n => if n % 2 = 1 then 0 else 1 + lowZeros k (n / 2)

/-- Whether every partial sum of integers, in any order, keeps 27 significand bits (R117). -/
def sumsExact (ps : List Int) : Bool :=
  let total := (ps.map Int.natAbs).sum
  let low := ps.foldl (fun acc p => Nat.lor acc p.natAbs) 0
  total == 0 || decide (total < 2 ^ (27 + lowZeros (Nat.log2 low + 1) low))

/-- A number cut to `p` significant bits, towards zero or away from it. -/
def cutTo (p : Nat) (up : Bool) (z : Int) : Int :=
  let d := Nat.log2 z.natAbs + 1 - p
  let q := z.natAbs / 2 ^ d + (if up && z.natAbs % 2 ^ d != 0 then 1 else 0)
  z.sign * (q * 2 ^ d : Nat)

/-- The sum of products in an order that the implementation chooses, each partial sum carrying at least 27 significant bits (R117); `fuel` is how
many products there are. -/
def sumChosen (choose : Nat → Nat) : Nat → List Int → Int
  | 0, ps => ps.sum
  | k + 1, ps =>
    if ps.length ≤ 1 then ps.sum
    else
      let i := choose (4 * k) % ps.length
      let rest := ps.eraseIdx i
      let j := choose (4 * k + 1) % rest.length
      sumChosen choose k
        (cutTo (27 + choose (4 * k + 2)) (choose (4 * k + 3) % 2 == 1) (ps.getD i 0 + rest.getD j 0) :: rest.eraseIdx j)

/-- An exact sum at the power of two `lo`, rounded RNE to f32; a sum of zero is +0 (R110, R117). -/
def dotRound (x lo : Int) : Nat :=
  if x = 0 then 0 else (fmtF32.encode .rne false false (decide (x < 0)) x.natAbs lo false).1

/-- Whether an f32 may stand for an exact sum by the bound of R117: finite, and within 2^−22 of the sum of magnitudes, and where the exact sum is
zero no −0. `x` is the exact sum and `mags` the sum of magnitudes at exponent `lo`. -/
def dotBound (r : Nat) (x : Int) (mags : Nat) (lo : Int) : Bool :=
  match fmtF32.decode false r with
  | .fin n m e =>
    let b := min lo e
    let k (e1 : Int) : Int := (2 ^ (e1 - b).toNat : Nat)
    let d := (if n then -(m : Int) else m) * k e - x * k lo
    !(x == 0 && n && m == 0) && decide ((d.natAbs : Int) * 2 ^ 22 ≤ mags * k lo)
  | _ => false

/-- c + Σ products (R117, R118): the products are summed in an order and with a precision that the implementation chooses, and that sum is added to
c with one RNE rounding; a result beyond the bound gives way to the exact sum, rounded once. The choices depend on the instruction and on the
element's place, which `key` names, and on the element's inputs (log 39). -/
def dot (key : List Nat) (c : Word32) (ps : List FVal) : Nat :=
  let cv := fmtF32.decode false c.toNat
  let terms := cv :: ps
  if terms.any FVal.isNan then fmtF32.nan
  else
    let infs := terms.filter (fun x => match x with | .inf _ => true | _ => false)
    match infs with
    | x :: xs => if xs.all (fun y => y.neg == x.neg) then fmtF32.infCode x.neg else fmtF32.nan
    | [] =>
      let lo := terms.foldl (fun acc x => min acc x.exp) cv.exp
      let is := ps.map (FVal.scaled lo)
      let ci := cv.scaled lo
      let x := ci + is.sum
      if x = 0 && terms.all (fun t => t.isZero) then fmtF32.signed (terms.all (fun t => t.neg)) 0
      else
        if sumsExact is then dotRound x lo
        else
          let r := dotRound (ci + sumChosen (Config.freeDot key c is lo) is.length is) lo
          if dotBound r x (ci.natAbs + (is.map Int.natAbs).sum) lo then r else dotRound x lo

/-! ## Matrix instructions -/

/-- A matrix instruction: it waits for the fragment's posted stores, then the baton decides (R143, R164). -/
def matrixRun (s : State) (op : BitVec 10) (f : LaneOps) (lanes : Word64) (k : State → Lane → State) : Out :=
  laneRun s op f (fun _ => none) (fun s1 x0 =>
    let x := { x0 with act := x0.act &&& lanes }
    if x.c.batonMode && !x.c.g.baton.contains x.c.w.ref.wave then s1.trapLane x.c x.act fltBaton 0x01
    else if x.act = 0 then s1.laneSkip x
    else k s1 x) true

/-- Raises what stopped a matrix instruction. -/
def State.matStop (s : State) (x : Lane) : MatStop → State
  | .fault flt sub a => s.trapLane x.c x.act flt sub a
  | .page e va => s.pageLane x.c x.act e va .read

/-- The key of a byte of a panel. -/
def panelKey (n col : Nat) : Nat := 32768 * n + 256 * col

/-- The cells of a block as a number, keys counting bytes. -/
def cellsNum (m : Sparse 8) : Nat := m.foldl (fun acc c => acc + c.2.toNat * 256 ^ c.1) 0

/-- The bits of A's row: registers v(A) on (R139). -/
def rowBits (w : Wave) (a l n : Nat) : Nat :=
  (List.range n).foldl (fun acc j => acc + (w.v (a + j) l).toNat * 2 ^ (32 * j)) 0

/-- Writes a tile row and clears its poison. -/
def Wave.setRow (w : Wave) (t l : Nat) (vs : List Nat) : Wave :=
  (vs.zipIdx.foldl (fun acc v => acc.setT t l v.2 (BitVec.ofNat 32 v.1)) w).cleanT t l

/-- Poisoned sources of a matrix product: registers v(A) to v(A + 63), then the tile's rows (R326). -/
def Lane.matPoison (x : Lane) : Option (BitVec 8) :=
  if x.lanes.any (fun l => (List.range 64).any (fun j => x.c.w.vPoisoned (x.f.a.toNat + j) l)) then some 0x02
  else if x.lanes.any (fun l => x.c.w.tPoisoned x.f.dest.toNat l) then some 0x04
  else none

/-- The format block at F, checked (R107, R109). -/
def State.formatBlock (s : State) (x : Lane) (w : Who) : Except MatStop (BitVec 512) :=
  let va := x.q.b
  if va.toNat % 64 ≠ 0 then .error (.fault fltAlign 0 va)
  else
    match s.locGlobal w va .read with
    | .error e => .error (.page e va)
    | .ok l =>
      let b : BitVec 512 := BitVec.ofNat 512 (s.readPiece w x.c.g { scratch := false, addr := va, size := 64, val := 0 } l)
      let masked (t : BitVec 5) : Bool := match tyFeature t with | some n => !x.c.j.features.getLsbD n | none => false
      if blockBad b then .error (.fault fltRecord 0x10 0)
      else if masked (descFmt (blockA b)) || masked (descFmt (blockB b)) then .error (.fault fltIllegal 0x06 0)
      else .ok b

/-- The operands of a product but for B's elements: of each active row its bits, scales and OE bytes, of each column its scales and OE bytes; A's
are checked before B's (R108, R109; log 106). -/
def State.operands (s : State) (x : Lane) (who : Who) (b : BitVec 512) :
    Except MatStop (List (Nat × Nat × List Nat × List Nat) × List (List Nat × List Nat)) :=
  let k := blockK b
  let da := blockA b
  let db := blockB b
  match s.operandBytes who x.c da (k / descBlk da) x.lanes with
  | .error e => .error e
  | .ok as =>
    match s.operandBytes who x.c db (k / descBlk db) (List.range 128) with
    | .error e => .error e
    | .ok bs =>
      .ok (as.map (fun r => (r.1, rowBits x.c.w x.f.a.toNat r.1 (k * matBits (descFmt da) / 32), r.2.1, r.2.2)), bs.map (fun c => c.2))

/-- The product of rows of A with 128 columns of B, given by their bits, into tile `t` of a wave (R142), and whether an element was a bad q4e
code (R106); `word` is the instruction's lane word. -/
def Wave.product (w : Wave) (word : LaneWord) (b : BitVec 512) (t : Nat) (rows : List (Nat × Nat × List Nat × List Nat))
    (cols : List (List Nat × List Nat)) (bits : List Nat) : Wave × Bool :=
  let k := blockK b
  let da := blockA b
  let db := blockB b
  let bv := (bits.zip cols).map (fun p => (List.range k).map (element (descFmt db) (descBlk db) p.1 p.2.1 p.2.2))
  let av := rows.map (fun r => (r.1, (List.range k).map (element (descFmt da) (descBlk da) r.2.1 r.2.2.1 r.2.2.2)))
  let bad := bv.any (fun c => c.any (·.2)) || av.any (fun r => r.2.any (·.2))
  (av.foldl (fun w r => w.setRow t r.1 (bv.zipIdx.map (fun c =>
    dot [word.toNat, t, r.1, c.2] (w.t t r.1 c.2) ((r.2.zip c.1).map (fun p => prodVal p.1.1 p.2.1))))) w, bad)

/-- The columns of a panel from byte `boff`, as numbers. -/
def Wg.panelCols (g : Wg) (panel boff : Nat) : List Nat :=
  (List.range 128).map (fun c => cellsNum (g.panels.slice (panelKey panel c) 256) / 256 ^ boff)

/-- The end of a product: its tile rows and BADCODE. -/
def State.productEnd (s : State) (x : Lane) (b : BitVec 512) (rows : List (Nat × Nat × List Nat × List Nat))
    (cols : List (List Nat × List Nat)) (bits : List Nat) : State :=
  let (w, bad) := x.c.w.product x.q.word b x.f.dest.toNat rows cols bits
  s.laneEnd x.c w (x.c.f.flag (if bad then flBADCODE else 0))

/-- Whether work is a fragment's. -/
def MatWork.isOf (m : MatWork) (r : FragRef) : Bool := m.wave == r.wave.wave && m.frag == r.frag

/-- Whether a panel has lost its contents for a fragment's MMA: a BLOAD of its own that has not entered the engine yet comes before it
(R140, R143, R148). -/
def Cur.lostPanel (c : Cur) (panel : Nat) : Bool :=
  c.g.lost.contains panel && !c.g.engine.any (fun m => m.isOf c.f.ref && m.load.isSome && m.panel == panel)

/-- MMA's checks and reads (R142, R143); `k` gets the format block and the operands. -/
def mmaRun (f : LaneOps) (s : State)
    (k : State → Lane → BitVec 512 → List (Nat × Nat × List Nat × List Nat) → List (List Nat × List Nat) → State) : Out :=
  matrixRun s 0x2C0 f (BitVec.allOnes 64) (fun s1 x =>
    if x.c.lostPanel (f.w2.extractLsb' 25 7).toNat then s1.trapLane x.c x.act fltPoison 0x10
    else
      match x.matPoison with
      | some sub => s1.trapLane x.c x.act fltPoison sub
      | none =>
        let who := s1.who x.c false
        match s1.formatBlock x who with
        | .error e => s1.matStop x e
        | .ok b =>
          if 2048 < 8 * (f.w2.extractLsb' 17 8).toNat + blockK b * matBits (descFmt (blockB b)) then s1.trapLane x.c x.act fltRecord 0x11
          else
            match s1.operands x who b with
            | .error e => s1.matStop x e
            | .ok (rows, cols) => k s1 x b rows cols)

/-- MMA (R142 to R144, R325, R326). -/
def execMma (f : LaneOps) (s : State) : Out :=
  mmaRun f s (fun s1 x b rows cols =>
    s1.productEnd x b rows cols (x.c.g.panelCols (f.w2.extractLsb' 25 7).toNat (f.w2.extractLsb' 17 8).toNat))

/-- The columns of a streamed weight matrix (R146). -/
def State.streamCols (s : State) (w : Who) (g : Wg) (r : BitVec 256) (o st n : Nat) : List Nat → Except MatStop (List Nat)
  | [] => .ok []
  | c :: cs =>
    match s.spanRead w g (recScratch r) (n / 128 + 2) ((recBase r).toNat + o + c * st) n with
    | .error e => .error e
    | .ok bs =>
      match s.streamCols w g r o st n cs with
      | .error e => .error e
      | .ok rest => .ok (bytesNum bs :: rest)

/-- MVSTREAM: lanes 0 to 7 take part (R146, R325, R326). Of several checks that fail the spec names no first: the model makes those of the format
block, of the scales and the operands, of the record, of the offset's alignment and of the extent, in that order (log 106). -/
def execMvstream (f : LaneOps) (s : State) : Out :=
  matrixRun s 0x2C1 f 0xFF (fun s1 x =>
    match x.matPoison with
    | some sub => s1.trapLane x.c x.act fltPoison sub
    | none =>
      let who := s1.who x.c false
      match s1.formatBlock x who with
      | .error e => s1.matStop x e
      | .ok b =>
        let n := blockK b * matBits (descFmt (blockB b)) / 8
        let o := (x.q.c.extractLsb' 0 32).toNat
        let unit := (f.w2.extractLsb' 4 16).toNat
        let st := if unit = 0 then n else 16 * unit
        match s1.operands x who b with
        | .error e => s1.matStop x e
        | .ok (rows, cols) =>
          match recordFault x.c (memRecord f) false with
          | some (flt, sub) => s1.trapLane x.c x.act flt sub
          | none =>
            let r := (x.c.j.record? (memRecord f)).getD 0
            if o % 16 ≠ 0 then s1.trapLane x.c x.act fltAlign 0
            else if recSize r < o + 127 * st + n then s1.trapLane x.c x.act fltRecord 0x12
            else
              match s1.streamCols who x.c.g r o st n (List.range 128) with
              | .error e => s1.matStop x e
              | .ok bits => s1.productEnd x b rows cols bits)

/-- The bytes of a panel from 128 columns in memory, as cells. -/
def State.panelBytes (s : State) (w : Who) (g : Wg) (r : BitVec 256) (o st : Nat) : List Nat → Except MatStop (Sparse 8)
  | [] => .ok []
  | c :: cs =>
    match s.spanRead w g (recScratch r) 4 ((recBase r).toNat + o + c * st) 256 with
    | .error e => .error e
    | .ok bs =>
      match s.panelBytes w g r o st cs with
      | .error e => .error e
      | .ok rest => .ok (Sparse.setList rest (256 * c) bs)

/-- BLOAD's checks and reads (R145), where a lane is active; `k` gets the panel's number and its new bytes. -/
def bloadRun (f : LaneOps) (s : State) (k : State → Lane → Nat → Sparse 8 → State) : Out :=
  matrixRun s 0x2C2 f (BitVec.allOnes 64) (fun s1 x =>
    match recordFault x.c (memRecord f) false with
    | some (flt, sub) => s1.trapLane x.c x.act flt sub
    | none =>
      let r := (x.c.j.record? (memRecord f)).getD 0
      let o := (x.q.a.extractLsb' 0 32).toNat
      let st0 := (x.q.b.extractLsb' 0 32).toNat
      let st := if st0 = 0 then 256 else st0
      if o % 16 ≠ 0 ∨ st0 % 16 ≠ 0 then s1.trapLane x.c x.act fltAlign 0
      else if recSize r < o + 127 * st + 256 then s1.trapLane x.c x.act fltRecord 0x12
      else
        match s1.panelBytes (s1.who x.c false) x.c.g r o st (List.range 128) with
        | .error e => s1.matStop x e
        | .ok m => k s1 x (f.w2.extractLsb' 13 7).toNat m)

/-- A panel takes its new bytes. -/
def Wg.setPanel (g : Wg) (n : Nat) (m : Sparse 8) : Wg :=
  { g with panels := g.panels.paste (panelKey n 0) 32768 m, lost := g.lost.filter (· != n) }

/-- BLOAD (R145, R299): once, where a lane is active. -/
def execBload (f : LaneOps) (s : State) : Out :=
  bloadRun f s (fun s1 x n m => (s1.laneSkip x).modWg x.c.g.ref (fun g => g.setPanel n m))

/-! ## Matrix work that enters the engine later than its instruction issues (R140; log 107) -/

/-- Work that an instruction hands on to the engine. -/
def State.handOn (s : State) (x : Lane) (m : MatWork) : State :=
  (s.laneSkip x).modWg x.c.g.ref (fun g => { g with engine := g.engine ++
    [{ m with wave := x.c.w.ref.wave, frag := x.c.f.ref.frag }] })

/-- A BLOAD or an MMA issues, with its checks and its reads, and its step in engine order comes later. -/
def matrixLater (i : Instr) (s : State) : Out :=
  match i with
  | .bload f => bloadRun f s (fun s1 x n m => s1.handOn x { wave := 0, frag := 0, panel := n, load := some m })
  | .mma f => mmaRun f s (fun s1 x b rows cols => s1.handOn x
      { wave := 0, frag := 0, panel := (f.w2.extractLsb' 25 7).toNat, load := none, word := x.q.word, block := b, tile := f.dest.toNat
        boff := (f.w2.extractLsb' 17 8).toNat, rows := rows, cols := cols })
  | _ => .next s

/-- The step of matrix work in engine order: a BLOAD writes its panel, an MMA reads it and writes its rows. -/
def State.enter (s : State) (g : Wg) (m : MatWork) : State :=
  match m.load with
  | some p => s.modWg g.ref (fun x => x.setPanel m.panel p)
  | none =>
    let r : FragRef := { wave := { wg := g.ref, wave := m.wave }, frag := m.frag }
    match s.wave? r.wave with
    | none => s
    | some w =>
      let (w1, bad) := w.product m.word m.block m.tile m.rows m.cols (g.panelCols m.panel m.boff)
      (s.setWave w1).modFrag r (fun f => if bad then f.flag flBADCODE else f)

/-- The `k`-th work of a workgroup enters the engine, unless work of its fragment stands before it (R140). -/
def State.enterEngine (s : State) (r : WgRef) (k : Nat) : State :=
  match s.wg? r with
  | none => s
  | some g =>
    match g.engine[k]? with
    | none => s
    | some m =>
      if (g.engine.take k).any (fun y => y.wave == m.wave && y.frag == m.frag) then s
      else (s.modWg r (fun x => { x with engine := x.engine.eraseIdx k })).enter g m

/-- All work of a workgroup that a test accepts enters the engine, in its order. -/
def State.enterIf (s : State) (r : WgRef) (test : MatWork → Bool) : State :=
  match s.wg? r with
  | none => s
  | some g =>
    if g.engine.any test then
      (g.engine.filter test).foldl (fun acc m => match acc.wg? r with | some x => acc.enter x m | none => acc)
        (s.modWg r (fun x => { x with engine := x.engine.filter (fun m => !test m) }))
    else s

/-- The instructions that wait until their fragment's matrix work has entered the engine: those ordered with it in engine order, by the tiles, or by
FFLAGS (R140, R144, R147), those that wait for every earlier lane instruction (R259, R355), and those that end the fragment, merge it or make
another of it. -/
def afterMatrix (i : Instr) : Bool :=
  match i with
  | .mma _ | .mvstream _ | .bload _ | .acczero _ | .accread _ | .accwrite _ | .extensionOpcode _ _ => true
  | .efence _ | .batonPass | .trap _ | .svc _ => true
  | .endFrag | .split _ _ _ | .reconv _ | .sysrd _ _ | .syswrFflags _ | .entrydone | .exitdone => true
  | _ => false

/-- The matrix work that enters the engine before an instruction of a fragment issues: the fragment's own, and before a PASS all of its wave's
(R29). -/
def State.enterBefore (s : State) (r : FragRef) (i : Instr) : State :=
  if afterMatrix i then s.enterIf r.wave.wg (fun m => m.isOf r || (i == .batonPass && m.wave == r.wave.wave)) else s

/-- The columns that ACCREAD and ACCWRITE move: the first, and how many (R147). -/
def accCol (f : LaneOps) : Nat := (f.w2.extractLsb' 0 7).toNat

/-- ACCZERO (R147, R284). -/
def execAcczero (f : LaneOps) (s : State) : Out :=
  laneRun s 0x2C3 f (fun _ => none) (fun s1 x =>
    s1.laneEnd x.c (x.lanes.foldl (fun w l => w.setRow f.dest.toNat l (List.replicate 128 0)) x.c.w) x.c.f)

/-- ACCREAD (R147, R284). -/
def execAccread (f : LaneOps) (s : State) : Out :=
  laneRun s 0x2C4 f (fun x => if x.lanes.any (fun l => x.c.w.tPoisoned f.c.toNat l) then some 0x04 else none) (fun s1 x =>
    s1.laneEnd x.c (x.lanes.foldl (fun w l =>
      (List.range (accCount f)).foldl (fun w i => w.setV (f.dest.toNat + i) l (x.c.w.t f.c.toNat l (accCol f + i))) w) x.c.w)
      x.c.f)

/-- ACCWRITE (R147, R284). -/
def execAccwrite (f : LaneOps) (s : State) : Out :=
  laneRun s 0x2C5 f (fun x =>
      if x.lanes.any (fun l => (List.range (accCount f)).any (fun i => x.c.w.vPoisoned (f.a.toNat + i) l)) then some 0x02
      else none)
    (fun s1 x =>
      s1.laneEnd x.c (x.lanes.foldl (fun w l =>
        ((List.range (accCount f)).foldl (fun w i => w.setT f.dest.toNat l (accCol f + i) (x.c.w.v (f.a.toNat + i) l)) w).cleanT
          f.dest.toNat l) x.c.w) x.c.f)

/-! ## Extension opcodes (R62, R277; log 96) -/

/-- The registers and masks that an extension opcode writes, within the wave's allotment and in the active lanes, as every lane
instruction does (R51, R61); it reads and writes no tile (R147). -/
def Wave.extWrites (w : Wave) (x : Lane) (e : Config.ExtEffect) : Wave :=
  let on (l : Nat) : Bool := x.lanes.contains l
  let w1 := e.regs.foldl (fun acc v => if on v.2.1 && decide (v.1 < roleVregs x.c.role) then acc.setV v.1 v.2.1 v.2.2 else acc) w
  e.masks.foldl (fun acc v => if v.1 < 8 then acc.setM v.1 x.act v.2 else acc) w1

/-- The words that an extension opcode stores, posted as one store, as a lane store's are. -/
def Frag.extStores (f : Frag) (x : Lane) (id : Nat) (e : Config.ExtEffect) : Frag :=
  if e.stores.isEmpty then f
  else { f with posted := f.posted ++ [{ id := id, pc := x.q.addr, lane := true, lanes := x.act, fault := none, killed := false
                                         elems := e.stores.map (fun v => { scratch := false, addr := v.1 &&& ~~~7, size := 8, val := v.2 }) }] }

/-- An extension opcode: a trap with EXT where no microcode is loaded (R62); loaded microcode says what it does (R277), and its effect on the lane
state, or its fault, is a free value (log 96). -/
def execExtensionOpcode (op : BitVec 10) (f : LaneOps) (s : State) : Out :=
  laneRun s op f (fun _ => none) (fun s1 x =>
    match s.microcode with
    | none => s1.raise x.c.f.ref { x.c.f.laneTrap fltIllegal 0x00 0 x.act with cause := causeWord true true 0x00 fltIllegal }
    | some d =>
      let e := Config.extension d x.q.word s.fresh
      match e.fault with
      | some (flt, sub) => s1.raise x.c.f.ref { x.c.f.laneTrap flt sub 0 x.act with cause := causeWord true true sub flt }
      | none =>
        let s2 := s1.laneEnd x.c (x.c.w.extWrites x e) (x.c.f.flag e.flags)
        { s2.modFrag x.c.f.ref (fun fr => fr.extStores x s2.serial e) with serial := s2.serial + 1 }) s.microcode.isSome

end Sys2Proof.Machine
end

