-- ==== Sys2Proof/Machine/Image.lean ====
section
/-! DEFINITION. How a fragment and a wave stand in memory: the hardware part of a frame with its resume record, join
stack, queue extension and event slots (R243, R244), and the layout of a full dump (R246). -/

namespace Sys2Proof.Machine

open Sys2Proof

/-- The low `n` bytes of a number, little-endian. -/
def leBytes (v n : Nat) : List Byte := (List.range n).map (byteOf v)

/-- The number that `n` bytes from `o` make. -/
def numAt (read : Nat → Byte) (o n : Nat) : Nat :=
  (List.range n).foldr (fun i acc => (read (o + i)).toNat + 256 * acc) 0

/-- Rounds up to a multiple. -/
def roundUp (n k : Nat) : Nat := (n + k - 1) / k * k

/-! ## The points of fragments (R242) -/

/-- Whether a fragment is parked, in one of the waits of R33 or for a verdict, and not at the point that a save or a freeze gave it. -/
def Frag.inWait (f : Frag) : Bool :=
  match f.slot with
  | .parked .trap => f.waiting.isSome
  | .parked _ => true
  | _ => false

/-- The fragment stopped at its point: a trap that waits is withdrawn, and a REP without its LISSUE executes again
(R242, R335). One that was parked, or has issued nothing since a denial found it so, keeps since when, in case its pre-emption is denied (R37). -/
def Frag.stop (f : Frag) : Frag :=
  let f1 := match f.waiting with
    | none => f
    | some t =>
      { f with waiting := none, lpc := t.retry.lpc, queue := t.retry.queue, lissue := t.retry.lissue, rep := t.retry.rep
               spc := if t.cause.extractLsb' 0 8 = fltTrap then f.spc else t.retry.spc }
  { f1 with spc := if f1.rep.isSome then f1.spc - 4 else f1.spc, rep := none, slot := .ready, seen := []
            parkedAt := if f.inWait || f.repark then f.parkedAt else 0, repark := f.inWait || f.repark }

/-- What a stopped fragment resumes with. -/
def Frag.resumeAt (f : Frag) (region : Nat) : Resume :=
  { spc := f.spc, lpc := f.lpc, exec := f.exec, fmode := f.fmode, fflags := f.fflags, rptc := f.rptc, region := region, queue := f.queue, lissue := f.lissue
    trap := f.inTrap, verified := none, callSeq := f.callSeq }

/-- LANESET of a saved fragment (R128, R244). -/
def Frag.lanesetOf (f : Frag) (r : Resume) : Word64 := r.exec ||| savedLanes f.join

/-! ## The hardware part of a frame (R243, R244) -/

/-- The code of a join-stack entry's kind (R243). -/
def JoinKind.code (k : JoinKind) : Nat := match k with | .parent => 0 | .detached => 1 | .deferred => 2 | .second => 3

/-- The join stack's bytes from 256, as (offset, value, size); a partner that has ended shows index 0. -/
def joinFields (j : Job) (js : List JoinEntry) : List (Nat × Nat × Nat) :=
  js.zipIdx.flatMap (fun p =>
    let e := p.1
    let o := 256 + 24 * p.2
    let half := e.kind == .deferred || e.kind == .second
    let bare := e.kind == .second && !e.hasLpc
    [(o, e.token.toNat + 64 * e.kind.code + 256 * (if half || e.partner = 4 then 0 else e.partner) + (if bare then 65536 else 0), 8),
     (o + 8, e.lanes.toNat, 8), (o + 16, if half then (e.spc - j.scalarBase).toNat else 0, 4),
     (o + 20, if half && !bare then (e.lpc - j.laneBase).toNat else 0, 4)])

/-- The queue extension's bytes from 640. -/
def queueFields (q : List QEntry) : List (Nat × Nat × Nat) :=
  q.zipIdx.flatMap (fun p =>
    let e := p.1
    let o := 640 + 48 * p.2
    [(o, e.word.toNat, 12), (o + 12, e.a.toNat, 8), (o + 20, e.b.toNat, 8), (o + 28, e.c.toNat, 8), (o + 36, e.fmode.toNat, 1)])

/-- The event slots' bytes from 1408. -/
def eventFields (j : Job) (w : Wave) : List (Nat × Nat × Nat) :=
  w.evslots.zipIdx.map (fun p =>
    let e := p.1
    (1408 + 16 * p.2,
      e.kind.toNat + (if e.armed then 8 else 0) + (if w.evmask.getLsbD p.2 then 16 else 0)
        + 2 ^ 32 * ((e.handler - j.scalarBase).toNat % 2 ^ 32) + 2 ^ 64 * (if e.kind = 4 then e.val.toNat else e.arg.toNat), 16))

/-- The fields of the resume record that hold the wave's state (R244). -/
def waveRecord (w : Wave) : List (Nat × Nat × Nat) :=
  [(56, w.pev.toNat, 2), (58, w.evmask.toNat, 2), (64, (waveid w.ref).toNat, 4), (72, w.seqctr.toNat, 8)]
    ++ w.members.zipIdx.map (fun p =>
        (80 + 8 * p.2, p.1.con.toNat + 256 + (if p.1.arrived then 512 else 0) + 2 ^ 32 * p.1.target.toNat, 8))

/-- The resume record's fields (R244). -/
def recordFields (w : Wave) (g : Wg) (f : Frag) (r : Resume) : List (Nat × Nat × Nat) :=
  [(0, r.spc.toNat, 8), (8, r.lpc.toNat, 8), (16, r.exec.toNat, 8), (24, (f.lanesetOf r).toNat, 8), (32, r.rptc.toNat, 8),
   (40, r.fflags.toNat, 8), (48, r.fmode.toNat, 8), (60, r.region, 2), (62, f.join.length, 1), (63, r.queue.length, 1), (68, f.ref.frag, 1),
   (69, (if g.baton.contains w.ref.wave then 1 else 0) + (if r.trap.isSome then 2 else 0), 1)] ++ waveRecord w

/-- The 2 KiB hardware part; the layout of the trap state, which a trap in progress or the count of a LISSUE that faulted fills, is not given, and its
bytes are free (R243, R321, log 16). -/
def hwPart (s : State) (c : Cur) (f : Frag) (r : Resume) : List Byte :=
  let m : Sparse 8 := (recordFields c.w c.g f r ++ joinFields c.j f.join ++ queueFields r.queue
      ++ (if f.ref.frag = 0 then eventFields c.j c.w else [])).foldl (fun acc x => Sparse.setBytes acc x.1 x.2.2 x.2.1) []
  (List.range 2048).map (fun i =>
    if 1664 ≤ i ∧ (r.trap.isSome ∨ r.lissue.isSome) then Config.freeByte s.fresh i else Sparse.get m i)

/-- What index 0's hardware part holds where fragment 0 has ended: the wave's own state and its event slots (log 16). -/
def waveFields0 (j : Job) (w : Wave) (g : Wg) : List (Nat × Nat × Nat) :=
  (69, if g.baton.contains w.ref.wave then 1 else 0, 1) :: waveRecord w ++ eventFields j w

/-- The join-stack kind of a code. -/
def joinKindOf (n : Nat) : JoinKind := match n with | 0 => .parent | 1 => .detached | 2 => .deferred | _ => .second

/-- Reads the join stack of a frame, its lanes within the fragment's lane set (R128); a partner that is no fragment of the wave has
ended, and an offset that is no multiple of its instruction's size leaves the counter of the entry that stood there (R40, log 16). -/
def readJoin (j : Job) (frags : List Nat) (old : List JoinEntry) (set : Word64) (read : Nat → Byte) (n : Nat) : List JoinEntry :=
  (List.range n).map (fun i =>
    let o := 256 + 24 * i
    let v := numAt read o 8
    let k := joinKindOf (v / 64 % 4)
    let p := v / 256 % 4
    let so := numAt read (o + 16) 4
    let lo := numAt read (o + 20) 4
    let was (pick : JoinEntry → Word64) (base : Word64) : Word64 := match old[i]? with | some e => pick e | none => base
    { token := BitVec.ofNat 6 v, kind := k, partner := if frags.contains p then p else 4
      lanes := BitVec.ofNat 64 (numAt read (o + 8) 8) &&& set, spc := if so % 4 = 0 then j.scalarBase + BitVec.ofNat 64 so else was (fun e => e.spc) j.scalarBase
      lpc := if lo % 12 = 0 then j.laneBase + BitVec.ofNat 64 lo else was (fun e => e.lpc) j.laneBase
      hasLpc := k == .deferred || (k == .second && v / 65536 % 2 == 0)
      flags := match old[i]? with | some e => e.flags | none => 0
      behind := match old[i]? with | some e => e.behind | none => []
      cmds := match old[i]? with | some e => e.cmds | none => []
      fenced := match old[i]? with | some e => e.fenced | none => 0 })

/-- Reads the queue extension of a frame: an entry's address and repeat count, which the layout does not hold, are
kept where the instruction is the one that stood there (log 16). -/
def readQueue (old : List QEntry) (lpc : Word64) (read : Nat → Byte) (n : Nat) : List QEntry :=
  (List.range n).map (fun i =>
    let o := 640 + 48 * i
    let word := BitVec.ofNat 96 (numAt read o 12)
    let was : QEntry := match old[i]? with
      | some e => if e.word = word then e else { addr := lpc - BitVec.ofNat 64 (12 * (n - i)) }
      | none => { addr := lpc - BitVec.ofNat 64 (12 * (n - i)) }
    { was with word := word, a := BitVec.ofNat 64 (numAt read (o + 12) 8), b := BitVec.ofNat 64 (numAt read (o + 20) 8)
               c := BitVec.ofNat 64 (numAt read (o + 28) 8), fmode := BitVec.ofNat 3 (numAt read (o + 36) 1) })

/-- The bits of RPTC that are not reserved (R5, R65). -/
def rptcMask : Word64 := 0x7F3FFF

/-- Loads a fragment's hardware part (R243, R244): its point, EXEC within its lane set (R128), RPTC, FFLAGS, FMODE, join stack and lane
queue; a counter keeps its value where the record's is misaligned (R40, log 16), and the trap in progress stays where the record
says that there is one. -/
def Frag.loadHw (f : Frag) (j : Job) (frags : List Nat) (read : Nat → Byte) : Frag :=
  let set := f.exec ||| savedLanes f.join
  let spc := numAt read 0 8
  let lpc := if numAt read 8 8 % 12 = 0 then BitVec.ofNat 64 (numAt read 8 8) else f.lpc
  { f with
    spc := if spc % 4 = 0 then BitVec.ofNat 64 spc else f.spc, lpc := lpc, exec := BitVec.ofNat 64 (numAt read 16 8) &&& set
    rptc := BitVec.ofNat 64 (numAt read 32 8) &&& rptcMask, fflags := BitVec.ofNat 7 (numAt read 40 1), fmode := BitVec.ofNat 3 (numAt read 48 1)
    join := readJoin j frags f.join set read (min 16 (numAt read 62 1))
    queue := readQueue f.queue lpc read (min 16 (numAt read 63 1))
    inTrap := if numAt read 69 1 / 2 % 2 = 1 then f.inTrap else none }

/-- What a saved fragment resumes with, as a frame's bytes say (R244); what the frame does not hold is kept. -/
def Resume.load (r : Resume) (f : Frag) (j : Job) (frags : List Nat) (read : Nat → Byte) : Resume :=
  let y := ({ f with spc := r.spc, lpc := r.lpc, exec := f.lanesetOf r, queue := r.queue, inTrap := r.trap } : Frag).loadHw j frags read
  { r with spc := y.spc, lpc := y.lpc, exec := y.exec, fmode := y.fmode, fflags := y.fflags, rptc := y.rptc, queue := y.queue
           trap := y.inTrap, region := numAt read 60 2 }

/-- Loads what a resume record holds of its wave: PEV, EVMASK, SVCSEQ and memberships (R244). -/
def Wave.loadRecord (w : Wave) (read : Nat → Byte) : Wave :=
  { w with
    pev := BitVec.ofNat 16 (numAt read 56 2), evmask := BitVec.ofNat 16 (numAt read 58 2), seqctr := BitVec.ofNat 32 (numAt read 72 4)
    members := w.members.zipIdx.map (fun p =>
      let v := numAt read (80 + 8 * p.2) 8
      { p.1 with arrived := v / 512 % 2 == 1, target := BitVec.ofNat 32 (v / 2 ^ 32) }) }

/-- Loads what fragment 0's hardware part holds of its wave: its record, and the event slots, a handler that is no multiple of 4 apart
(R40, log 16). -/
def Wave.loadHw (w : Wave) (j : Job) (read : Nat → Byte) : Wave :=
  { w.loadRecord read with
    evslots := w.evslots.zipIdx.map (fun p =>
      let v := numAt read (1408 + 16 * p.2) 16
      let k := BitVec.ofNat 3 v
      let x := BitVec.ofNat 64 (v / 2 ^ 64)
      let off := v / 2 ^ 32 % 2 ^ 32
      { p.1 with armed := v / 8 % 2 == 1, kind := k
                 handler := if off % 4 = 0 then j.scalarBase + BitVec.ofNat 64 off else p.1.handler
                 arg := if k = 4 then p.1.arg else x, val := if k = 4 then x else p.1.val }) }

/-- Loads a wave from its dump at a resume: an event that fired while it was saved stays pending, and an arrival whose phase has
completed meanwhile is none (R189, R194). -/
def Wave.resumeHw (w : Wave) (j : Job) (read : Nat → Byte) : Wave :=
  let y := w.loadHw j read
  { y with pev := y.pev ||| w.pev
           members := (y.members.zip w.members).map (fun p => { p.1 with arrived := p.1.arrived && p.2.arrived }) }

/-! ## The layout of a wave (R246) -/

/-- The role of wave `i` of a workgroup (R15), and how many waves it has. -/
def Job.waveRoles (j : Job) : List Nat :=
  (List.range j.nroles).flatMap (fun k => List.replicate (roleWaves (j.role k)) k)
def Job.nwaves (j : Job) : Nat := j.waveRoles.length

/-- Offsets within a wave's part: tiles, masks, and fragment `i`'s scalar registers and hardware part. -/
def Job.tilesAt (j : Job) (r : BitVec 192) : Nat := roleVregs r * j.width * 4
def Job.masksAt (j : Job) (r : BitVec 192) : Nat := j.tilesAt r + roleTiles r * j.width * 512
def scalarBytes (r : BitVec 192) : Nat := roundUp (8 * roleSregs r) 64
def Job.scalarsAt (j : Job) (r : BitVec 192) (i : Nat) : Nat := j.masksAt r + 64 + i * (scalarBytes r + 2048)
def Job.hwAt (j : Job) (r : BitVec 192) (i : Nat) : Nat := j.scalarsAt r i + scalarBytes r
def Job.waveBytes (j : Job) (r : BitVec 192) : Nat := j.scalarsAt r 4

/-- Where wave `i` stands in a dump slot, where the scratchpad stands, and the slot's size (R246). -/
def Job.waveAt (j : Job) (i : Nat) : Nat := ((j.waveRoles.take i).map (fun k => j.waveBytes (j.role k))).sum
def Job.scratchAt (j : Job) : Nat := j.waveAt j.nwaves
def Job.slotSize (j : Job) : Nat := roundUp (j.scratchAt + j.scratchSize) 4096

/-- The registers of a wave as (offset, value, size) (R246). -/
def waveFields (j : Job) (w : Wave) : List (Nat × Nat × Nat) :=
  let r := j.role w.role
  (List.range (roleVregs r)).flatMap (fun v => (List.range j.width).map (fun l => (4 * (v * j.width + l), (w.v v l).toNat, 4)))
    ++ (List.range (roleTiles r)).flatMap (fun t => (List.range j.width).flatMap (fun l => (List.range 128).map (fun c =>
        (j.tilesAt r + 512 * (t * j.width + l) + 4 * c, (w.t t l c).toNat, 4))))
    ++ (List.range 7).map (fun k => (j.masksAt r + 8 * k, (w.masks.get (k + 1)).toNat, 8))

/-- The scalar registers of a fragment as (offset, value, size). -/
def fragFields (j : Job) (r : BitVec 192) (f : Frag) : List (Nat × Nat × Nat) :=
  (List.range (roleSregs r)).map (fun i => (j.scalarsAt r f.ref.frag + 8 * i, (f.s (BitVec.ofNat 6 i)).toNat, 8))

/-- Loads a wave's registers from the layout; what is written loses its poison (R246, R255). -/
def Wave.loadRegs (w : Wave) (j : Job) (read : Nat → Byte) : Wave :=
  let r := j.role w.role
  let w1 := (List.range (roleVregs r)).foldl (fun acc v => (List.range j.width).foldl (fun a l =>
    a.setV v l (BitVec.ofNat 32 (numAt read (4 * (v * j.width + l)) 4))) acc) w
  let w2 := (List.range (roleTiles r)).foldl (fun acc t => (List.range j.width).foldl (fun a l =>
    ((List.range 128).foldl (fun b c => b.setT t l c
      (BitVec.ofNat 32 (numAt read (j.tilesAt r + 512 * (t * j.width + l) + 4 * c) 4))) a).cleanT t l) acc) w1
  (List.range 7).foldl (fun acc k => acc.setM (k + 1) (widthMask j.width)
    (BitVec.ofNat 64 (numAt read (j.masksAt r + 8 * k) 8))) w2

/-- Loads a fragment's scalar registers. -/
def Frag.loadRegs (f : Frag) (j : Job) (r : BitVec 192) (read : Nat → Byte) : Frag :=
  (List.range (roleSregs r)).foldl (fun acc i =>
    acc.setS (BitVec.ofNat 6 i) (BitVec.ofNat 64 (numAt read (j.scalarsAt r f.ref.frag + 8 * i) 8))) f

/-! ## Writing and reading (R239, R246) -/

/-- Writes a list of bytes at a virtual address; a byte whose address does not translate is not written (log 16). -/
def State.writeVa (s : State) (w : Who) (g : WgRef) (va : Word64) : List Byte → State
  | [] => s
  | b :: bs =>
    (match s.translate w va .write with
      | .ok p => s.storePlain g (.phys p) 1 b.toNat
      | .error _ => s).writeVa w g (va + 1) bs

/-- Writes fields at their offsets. -/
def State.writeFields (s : State) (w : Who) (g : WgRef) (base : Word64) (xs : List (Nat × Nat × Nat)) : State :=
  xs.foldl (fun acc x => acc.writeVa w g (base + BitVec.ofNat 64 x.1) (leBytes x.2.1 x.2.2)) s

/-- A byte at a virtual address; 0 where it does not translate. -/
def State.byteVa (s : State) (w : Who) (va : Word64) : Byte :=
  match s.translate w va .read with | .ok p => s.physByte w p 0 | .error _ => 0

/-- The hardware's access to frame `n` of the save window (R239). -/
def State.frameBase (s : State) (part n : Nat) : Word64 :=
  match s.part? part with
  | none => 0
  | some p => BitVec.ofNat 64 (p.saveWindow.1 + n * 0x4800)
def State.frameWho (s : State) (j : Job) (n : Nat) : Who :=
  { j.who with own := some ((s.frameBase j.ref.part n).toNat, 0x4800) }

/-- Takes a frame: it is cleared (R243). -/
def State.clearFrame (s : State) (j : Job) (g : WgRef) (n : Nat) : State :=
  s.writeVa (s.frameWho j n) g (s.frameBase j.ref.part n) (List.replicate 0x4800 0)

/-- Writes bytes into device memory; an address elsewhere takes none. -/
def State.writeBack (s : State) (pa : Nat) : List Byte → State
  | [] => s
  | b :: bs => (match regionOf pa with | .device => s.storeDevice { pa := pa, key := none } 1 b.toNat | _ => s).writeBack (pa + 1) bs

/-- Bytes of device memory, list after list of the given lengths. -/
def State.readLists (s : State) (pa : Nat) : List Nat → List (List Byte)
  | [] => []
  | n :: ns => (List.range n).map (fun i => s.deviceByte { pa := pa, key := none } i) :: s.readLists (pa + n) ns

/-- Where a workgroup's dump slot stands, and a byte of it. -/
def Job.dumpAt (j : Job) (slot : Nat) : Word64 := j.dumpBase + BitVec.ofNat 64 (slot * j.slotSize)
def State.dumpByte (s : State) (j : Job) (slot o : Nat) : Byte := s.byteVa j.who (j.dumpAt slot + BitVec.ofNat 64 o)

end Sys2Proof.Machine
end

