-- ==== Sys2Proof/Machine/Preempt.lean ====
section
/-! DEFINITION. Pre-emption: requests, points, exit and entry routines, saves, full dumps, flushes, denials and resumes
(R238 to R252, R310, R375). -/

namespace Sys2Proof.Machine

open Sys2Proof

/-! ## Fields -/

def Part.drainlim (p : Part) : Nat := (p.preemptcfg.extractLsb' 32 32).toNat
def Part.exitdl (p : Part) : Nat := let n := (p.preemptcfg.extractLsb' 16 16).toNat; if n = 0 then 65536 else n
def Part.drainthr (p : Part) : Nat := (p.preemptcfg.extractLsb' 8 8).toNat
def Part.restartthr (p : Part) : Nat := (p.preemptcfg.extractLsb' 0 8).toNat

/-- Region-table fields (R97). -/
def regionStart (r : BitVec 256) : Nat := (r.extractLsb' 224 32).toNat
def regionEnd (r : BitVec 256) : Nat := (r.extractLsb' 192 32).toNat
/-- The routines' scalar offsets: multiples of 4, as the load has checked (R40, log 60). -/
def regionExit (r : BitVec 256) : BitVec 32 := r.extractLsb' 162 30 ++ 0#2
def regionEntry (r : BitVec 256) : BitVec 32 := r.extractLsb' 130 30 ++ 0#2
def regionSave (r : BitVec 256) : Nat := (r.extractLsb' 80 16).toNat
def regionLives (r : BitVec 256) : Nat := (r.extractLsb' 65 15).toNat
def regionVerify (r : BitVec 256) : Bool := r.getLsbD 64
def regionLiveOff (r : BitVec 256) : Word64 := r.extractLsb' 0 64

/-- A region-table entry, through the kernel's loaded copy (R97). -/
def State.regionAt (s : State) (j : Job) (i : Nat) : Option (BitVec 256) :=
  (s.readVaNat j.who (j.regionsBase + BitVec.ofNat 64 (32 * i)) 32).map (BitVec.ofNat 256)

/-- The region that covers a scalar address (R87, R242); an entry that does not translate covers nothing (log 93). -/
def State.regionOfSpc (s : State) (j : Job) (spc : Word64) : Option (Nat × BitVec 256) :=
  let off := (spc - j.scalarBase).toNat
  (List.range j.nregion).findSome? (fun i =>
    match s.regionAt j i with
    | some r => if regionStart r ≤ off ∧ off < regionEnd r then some (i, r) else none
    | none => none)

/-- The region number of a fragment's point, 0xFFFF in none (R244). -/
def State.regionNo (s : State) (j : Job) (spc : Word64) : Nat :=
  match s.regionOfSpc j spc with | some (i, _) => i | none => 0xFFFF

/-- A routine's lane offset in the header of a live list: 0 the exit routine's, 4 the entry routine's (R245), a multiple of 12 (R40, log 60). -/
def State.routineLane (s : State) (j : Job) (r : BitVec 256) (k : Nat) : Word64 :=
  j.laneBase + BitVec.ofNat 64 ((s.readVaNat j.who (j.regionsBase + regionLiveOff r + BitVec.ofNat 64 k) 4).getD 0 / 12 * 12)

/-- The fragments of a workgroup, in ascending wave and fragment index (R239). -/
def State.wgFrags (s : State) (g : WgRef) : List Frag :=
  (List.range 32).flatMap (fun i => (List.range 4).filterMap (fun k => s.frag? { wave := { wg := g, wave := i }, frag := k }))

/-- The VATOMs under way of a workgroup that is about to lose its fragments are performed to their end (R199). -/
def State.finishAtoms (s : State) (r : WgRef) : State := (s.leaveHalfway (s.wgFrags r)).finishHalfway r

/-- The waves of a workgroup. -/
def State.wgWaves (s : State) (g : WgRef) : List Wave := s.waves.filter (fun w => w.ref.wg == g)

/-- Replaces every fragment of a workgroup. -/
def State.modFrags (s : State) (g : WgRef) (h : Frag → Frag) : State :=
  { s with frags := s.frags.map (fun f => if f.ref.wave.wg = g then h f else f) }

/-! ## Frames and dump slots (R239, R246, R375) -/

/-- The lowest `n` free frames of a partition. -/
def State.freeFrames (s : State) (part n : Nat) : Option (List Nat) :=
  match s.part? part with
  | none => none
  | some p =>
    let free := (List.range (p.savewin.extractLsb' 0 16).toNat).filter (fun i => !p.frames.contains i)
    if n ≤ free.length then some (free.take n) else none

/-- Gives frames back. -/
def State.releaseFrames (s : State) (g : WgRef) (ns : List Nat) : State :=
  (s.modPart g.job.part (fun p => { p with frames := p.frames.filter (fun n => !ns.contains n) })).modWg g
    (fun x => { x with frames := x.frames.filter (fun n => !ns.contains n) })

/-- The frames of a scratchpad allocation (R375). -/
def Job.scratchFrames (j : Job) : Nat := (j.scratchSize + 18431) / 18432

/-- The lowest free dump slot (R246). -/
def Job.freeDump (j : Job) : Option Nat :=
  if j.dumpBase = 0 then none
  else (List.range (j.dumpSize / j.slotSize)).find? (fun i => !j.dumps.contains i)

/-- Takes the workgroup's dump slot, where it has none yet and one is free. -/
def State.takeDump (s : State) (g : WgRef) : State :=
  match s.wg? g, s.job? g.job with
  | some x, some j =>
    match x.dumpSlot, j.freeDump with
    | none, some n => (s.modWg g (fun y => { y with dumpSlot := some n })).modJob g.job (fun y => { y with dumps := y.dumps ++ [n] })
    | _, _ => s
  | _, _ => s

/-- Gives the dump slot back. -/
def State.releaseDump (s : State) (g : WgRef) : State :=
  match (s.wg? g).bind (fun x => x.dumpSlot) with
  | none => s
  | some n =>
    (s.modWg g (fun x => { x with dumpSlot := none, dumped := false })).modJob g.job
      (fun j => { j with dumps := j.dumps.filter (· != n) })

/-! ## Vectoring (R245, R251) -/

/-- The fields of a wave's part of a dump that do not belong to one lane set: those of fragment `f`, and at index 0, where fragment 0
has ended, the wave's own (R246, log 16). -/
def State.fragImage (s : State) (w : Who) (c : Cur) (base : Word64) (r : Resume) : State :=
  let role := c.role
  let s1 := (s.writeFields w c.g.ref base (fragFields c.j role c.f)).writeVa w c.g.ref
    (base + BitVec.ofNat 64 (c.j.hwAt role c.f.ref.frag)) (hwPart s c c.f r)
  if (s.frag? { wave := c.w.ref, frag := 0 }).isSome then s1
  else s1.writeFields w c.g.ref (base + BitVec.ofNat 64 (c.j.hwAt role 0)) (waveFields0 c.j c.w c.g)

/-- A dump slot takes the scratchpad allocation (R246). -/
def State.scratchImage (s : State) (g : Wg) (j : Job) (slot : Nat) : State :=
  s.writeVa j.who g.ref (j.dumpAt slot + BitVec.ofNat 64 j.scratchAt) ((List.range j.scratchSize).map (fun i => g.scratch.get i))

/-- The lanes of a wave whose fragments have vectored: their registers stand in the dump as at their own points (R251). -/
def State.vectoredLanes (s : State) (w : WaveRef) : Word64 :=
  (s.fragsOf w).foldl (fun acc f => match f.routine, f.resume with | .exit _ _ _, some r => acc ||| f.lanesetOf r | _, _ => acc) 0

/-- A wave's registers in a dump, without given lanes, which stay as the dump holds them. -/
def State.lanesImage (s : State) (j : Job) (g : Wg) (w : Wave) (slot : Nat) (kept : Word64) : State :=
  let role := j.role w.role
  let lane (o : Nat) : Nat := if o < j.tilesAt role then o / 4 % j.width else (o - j.tilesAt role) / 512 % j.width
  let masks := (List.range 7).map (fun k =>
    let o := j.masksAt role + 8 * k
    let old := BitVec.ofNat 64 (numAt (fun i => s.dumpByte j slot (j.waveAt w.ref.wave + i)) o 8)
    (o, ((old &&& kept) ||| (w.masks.get (k + 1) &&& ~~~kept)).toNat, 8))
  s.writeFields j.who g.ref (j.dumpAt slot + BitVec.ofNat 64 (j.waveAt w.ref.wave))
    ((waveFields j w).filter (fun x => decide (x.1 < j.masksAt role) && !kept.getLsbD (lane x.1)) ++ masks)

/-- The verification dump at a fragment's point: a full dump, every wave's and every lane's (R246, R251), but for what belongs to fragments that
have vectored already, whose dumps were taken at their own points. -/
def State.verifyDump (s : State) (c : Cur) (slot : Nat) (r : Resume) : State :=
  ((s.wgWaves c.g.ref).foldl (fun acc w =>
    let at' := c.j.dumpAt slot + BitVec.ofNat 64 (c.j.waveAt w.ref.wave)
    ((s.fragsOf w.ref).filter (fun f => !f.exiting)).foldl (fun a f =>
      if f.ref = c.f.ref then a.fragImage c.j.who { c with w := w } at' r
      else a.fragImage c.j.who { f := f, w := w, g := c.g, j := c.j } at' (f.resumeAt (s.regionNo c.j f.spc)))
      (acc.lanesImage c.j c.g w slot (s.vectoredLanes w.ref))) s).scratchImage c.g c.j slot

/-- The dump slot of a save in verification mode: taken with the first fragment that needs it; where none was free then, the whole save
runs unverified (R251). -/
def State.verifySlot (s : State) (g : WgRef) : State × Option Nat :=
  if (s.wgFrags g).any (fun f => match f.resume with | some r => r.verified == some false | none => false) then (s, none)
  else
    let s1 := s.takeDump g
    (s1, (s1.wg? g).bind (fun x => x.dumpSlot))

/-- A fragment at its point vectors into its exit routine, its hardware part written; a point in no region starts the
fallback (R241, R245). -/
def State.vector (s : State) (r : FragRef) : State :=
  match s.look r with
  | none => s
  | some c =>
    let f := c.f.stop
    match s.regionOfSpc c.j f.spc, f.frame with
    | some (i, reg), some n =>
      let verify := regionVerify reg && c.j.features.getLsbD 7
      let (s0, slot) := if verify then s.verifySlot c.g.ref else (s, none)
      let res := { f.resumeAt i with verified := if verify then some slot.isSome else none }
      let s1 := s0.writeVa (s.frameWho c.j n) c.g.ref (s.frameBase c.j.ref.part n) (hwPart s c f res)
      let s3 := match slot with | some k => s1.verifyDump { c with f := f } k res | none => s1
      s3.setFrag { f with
        spc := c.j.scalarBase + (regionExit reg).setWidth 64, lpc := s.routineLane c.j reg 0
        exec := f.lanesetOf res, rptc := 0, queue := [], lissue := none, inTrap := none
        routine := .exit s.cycle (regionSave reg) false, resume := some res, afresh := false, issuedAt := s.cycle, boost := false }
    | _, _ => s.modWg c.g.ref (fun g => g.fallBack s.cycle)

/-- Whether the instruction at the head of a lane queue is between two of its repeats. -/
def Frag.midRepeat (f : Frag) : Bool :=
  match f.queue with | q :: _ => decide (0 < q.left ∧ q.left < repCount q.rep) | [] => false

/-- Whether a fragment has come to its point: it is parked, its lane queue is empty, or its head stands between two repeats (R242). -/
def Frag.atPoint (f : Frag) : Bool :=
  f.queue.isEmpty || (f.midRepeat && f.flight.isNone) || (match f.slot with | .parked _ => true | _ => false)

/-- Vectors a fragment of a workgroup in SAVING that has come to its point. -/
def State.vectorIf (s : State) (r : FragRef) : State :=
  match s.look r with
  | none => s
  | some c => match c.g.state with | .saving _ => if c.saving && c.f.atPoint then s.vector r else s | _ => s

/-- The start of SAVING: the workgroup's matrix work completes, frames are taken, and fragments at their points vector (R144, R239, R241, R242). -/
def State.startSave (t : State) (g : Wg) (j : Job) (k : PreemptKind) (since : Nat) : State :=
  let s := t.enterIf g.ref (fun _ => true)
  let fs := s.wgFrags g.ref
  let engine := if s.cmds.any (fun c => c.wg == g.ref) then 1 else 0
  match s.freeFrames j.ref.part (fs.length + engine + j.scratchFrames) with
  | none => s.modWg g.ref (fun x => { x with state := .fallback since, kind := k, held := none })
  | some ns =>
    let s1 := (s.modPart j.ref.part (fun p => { p with frames := p.frames ++ ns })).modWg g.ref
      (fun x => { x with state := .saving since, kind := k, held := none, frames := ns })
    let s2 := ns.foldl (fun acc n => acc.clearFrame j g.ref n) s1
    let s3 := (fs.zip ns).foldl (fun acc p => acc.modFrag p.1.ref (fun f => { f with frame := some p.2 })) s2
    fs.foldl (fun acc f => acc.vectorIf f.ref) (s3.withdrawTraps g.ref)

/-! ## Flush (R247) -/

/-- Withdraws a wave's arrivals in the current phases (R189, R247). -/
def State.withdrawArrivals (s : State) (w : Wave) : State :=
  w.members.foldl (fun acc m =>
    match (acc.job? w.ref.wg.job).bind (fun j => j.barrier? m.con) with
    | none => acc
    | some b =>
      if m.arrived then
        (acc.setBarrier w.ref.wg.job { b with arrived := b.arrived - 1 }).modWave w.ref
          (fun x => x.setMember m.con (fun y => { y with arrived := false, target := b.phase }))
      else acc) s

/-- Every record of a workgroup is answered to no one: its waves will be new parties (R170, R247). -/
def State.withdrawAll (s : State) (g : WgRef) : State :=
  { s with dies := s.dies.map (fun (d : Die) =>
      let gone (r : SqRec) : SqRec :=
        if r.caller.wave.wg = g then { r with caller := { wave := { wg := g, wave := 32 }, frag := 4 } } else r
      { d with sq := { d.sq with opened := d.sq.opened.map gone, late := d.sq.late.map gone } }) }

/-- Flush: fragments stop, arrivals are withdrawn, unfired commands are discarded, and the workgroup waits in line for a
fresh dispatch (R241, R247). -/
def State.flush (s : State) (g : Wg) (since : Nat) : State :=
  let s1 := (((s.finishAtoms g.ref).releaseDump g.ref).releaseFrames g.ref g.frames).withdrawAll g.ref
  let s2 := (s1.wgWaves g.ref).foldl (fun acc w => acc.withdrawArrivals w) s1
  let left := (s2.wgFrags g.ref).flatMap (fun f => f.leaves)
  let s3 := { s2 with
    frags := s2.frags.filter (fun f => f.ref.wave.wg != g.ref)
    waves := s2.waves.map (fun (w : Wave) =>
      if w.ref.wg = g.ref then { w with pev := 0, evslots := w.evslots.map (fun (e : EvSlot) => { e with armed := false }), fetched := [] }
      else w) }
  let s4 := (s3.discardUnfired g.ref 0x02).modWg g.ref (fun x =>
    { x with state := .waiting since, die := 4, core := 0, baton := [], fired := [], accepted := [], held := none, frozen := false
             orphans := x.orphans ++ left })
  s4.modJob g.ref.job (fun j => { j with line := j.line ++ [g.ref.wg] })

/-! ## Requests (R240, R241) -/

/-- An eviction makes room on the die that its workgroup leaves, for the workgroup next in line (R36, R227). -/
def State.makeRoom (s : State) (g : Wg) (k : PreemptKind) : State :=
  if k = .eviction then s.modJob g.ref.job (fun j => { j with room := j.room.filter (· != g.die) ++ [g.die] }) else s

/-- Lets a request take its path: drain, flush or save. -/
def State.takePath (s : State) (g : Wg) (j : Job) (p : Part) (k : PreemptKind) : State :=
  let done := 256 * g.done
  if k = .controller ∧ j.workest ≠ 0 ∧ p.drainthr * j.workest ≤ done then
    s.modWg g.ref (fun x => { x with state := .draining s.cycle, kind := k, held := none })
  else if j.idemp ∧ j.workest ≠ 0 ∧ done ≤ p.restartthr * j.workest ∧ k ≠ .checkpoint then (s.makeRoom g k).flush g s.cycle
  else s.startSave g j k s.cycle

/-- Of two requests the one that keeps more: a checkpoint does not flush, a stop and an eviction do not drain (R240, R253, R256). -/
def stronger (a b : PreemptKind) : PreemptKind :=
  let rank (k : PreemptKind) : Nat := match k with | .controller => 0 | .eviction => 1 | .stop => 2 | .checkpoint => 3
  if rank b ≤ rank a then a else b

/-- A request for a workgroup on a core: it is held while a fragment runs an entry routine, or while the workgroup is
frozen; service workgroups take none (R241, R254, R258). A stop or a checkpoint, which does not drain, ends a drain under way and
takes over a save under way, and of two held requests the stronger stays (R240, R253, log 94). -/
def State.request (s : State) (r : WgRef) (k : PreemptKind) : State :=
  match s.wg? r, s.job? r.job, s.part? r.job.part with
  | some g, some j, some p =>
    if g.frozen ∨ g.state = .resuming then s.modWg r (fun x => { x with held := some (match x.held with | some h => stronger h k | none => k) })
    else
      match g.state with
      | .running => s.takePath g j p k
      | .draining t => if k = .stop ∨ k = .checkpoint then s.startSave g j k t else s
      | .saving _ | .fallback _ => if k = .stop ∨ k = .checkpoint then s.modWg r (fun x => { x with kind := stronger x.kind k }) else s
      | _ => s
  | _, _, _ => s

/-- A held request takes its course once nothing holds it. -/
def State.applyHeld (s : State) (r : WgRef) : State :=
  match s.wg? r with
  | none => s
  | some g =>
    match g.held with
    | none => s
    | some k => if g.frozen ∨ g.state = .resuming then s else (s.modWg r (fun x => { x with held := none })).request r k

/-- PREEMPTION_REQUEST (R240, R241). -/
def execPreemptionRequest (w : WgRef) (k : PreemptKind) (s : State) : Out := .next (s.request w k)

/-- DRAIN_LIMIT_EXPIRY: a workgroup that has not retired DRAINLIM cycles after the request is saved (R241). -/
def execDrainLimitExpiry (w : WgRef) (s : State) : Out :=
  .next (
    match s.wg? w, s.job? w.job, s.part? w.job.part with
    | some g, some j, some p =>
      match (if g.frozen then WgState.running else g.state) with
      | .draining t => if t + p.drainlim ≤ s.cycle then s.startSave g j g.kind t else s
      | _ => s
    | _, _, _ => s)

/-- Whether the deadline of an exit routine that began at a cycle has passed (R238, R245). -/
def State.exitLate (s : State) (part t : Nat) : Bool :=
  match s.part? part with | some p => decide (t + p.exitdl < s.cycle) | none => false

/-- EXIT_DEADLINE_EXPIRY: an exit routine that has not issued EXITDONE within EXITDL cycles (R245). -/
def execExitDeadlineExpiry (r : FragRef) (s : State) : Out :=
  .next (
    match s.look r with
    | some c =>
      match c.f.routine with
      | .exit t _ false => if s.exitLate c.j.ref.part t then s.exitOverrun c else s
      | _ => s
    | none => s)

/-- The cycle of a workgroup's request, while its copies go on to their squash (R247, R248). -/
def Wg.copySince (g : Wg) : Option Nat :=
  match g.state with | .saving t => some t | .fallback t => some t | .waiting t => some t | _ => none

/-- A squashed command: it waits for no verdict, and its replay reads and writes its chunks anew. -/
def Cmd.unstarted (c : Cmd) : Cmd := { c with fault := none, seen := [], wrote := [], walked := [] }

/-- COPY_SQUASH: DRAINLIM cycles after the request, fired commands that have not completed are squashed; those of a
flushed workgroup complete as discarded (R247, R248). A chunk already started finishes first. -/
def execCopySquash (w : WgRef) (s : State) : Out :=
  .next (
    match s.wg? w, s.part? w.job.part with
    | some g, some p =>
      match g.copySince with
      | none => s
      | some t =>
        if t + p.drainlim ≤ s.cycle then
          let s1 := (s.cmds.filter (fun c => c.wg == w)).foldl (fun acc c => acc.landStarted c.id) s
          (s1.cmds.filter (fun c => c.wg == w && c.fired && c.bitDue.isNone && !c.squashed && c.error.isNone)).foldl
            (fun acc c =>
              match g.state with
              | .waiting _ => let c1 := c.unstarted; (acc.setCmd { c1 with error := some (0x00, 0x02) }).dropBytes c1
              | _ => acc.setCmd { c.unstarted with squashed := true }) s1
        else s
    | _, _ => s)

/-! ## Exit and entry routines (R245, R250, R251, R310) -/

/-- EXITDONE; one that comes after the deadline ends the routine with FLT_EXIT_OVERRUN (R245). -/
def execExitdone (s : State) : Out :=
  scalarRun s { exitOk := true } (fun c =>
    match c.f.routine with
    | .exit t n _ =>
      if s.exitLate c.j.ref.part t then s.exitOverrun c else s.setFrag { c.f.next with routine := .exit t n true }
    | _ => s.trapScalar c fltIllegal 0x0C)

/-- The lanes of a register file that differ from the dump, or are still poisoned, for one live item (R251). -/
def State.liveDiffers (s : State) (c : Cur) (slot : Nat) (set : Word64) (item : Nat) : Bool :=
  let r := c.role
  let n := item % 4096
  let read := fun i => s.dumpByte c.j slot (c.j.waveAt c.w.ref.wave + i)
  let lanes := lanesOf c.j.width set
  match item / 4096 with
  | 0 =>
    let x := BitVec.ofNat 6 n
    c.f.sPoisoned x || c.f.s x != BitVec.ofNat 64 (numAt read (c.j.scalarsAt r c.f.ref.frag + 8 * n) 8)
  | 1 => lanes.any (fun l => c.w.vPoisoned n l || c.w.v n l != BitVec.ofNat 32 (numAt read (4 * (n * c.j.width + l)) 4))
  | 2 => lanes.any (fun l => c.w.tPoisoned n l || (List.range 128).any (fun k =>
      c.w.t n l k != BitVec.ofNat 32 (numAt read (c.j.tilesAt r + 512 * (n * c.j.width + l) + 4 * k) 4)))
  | _ =>
    c.w.mPoisoned n set
      || (c.w.m c.j.width n &&& set) != (BitVec.ofNat 64 (numAt read (c.j.masksAt r + 8 * (n - 1)) 8) &&& set)

/-- The first live item that fails verification, where the fragment's dump was taken at its point (R251). -/
def State.entryMismatch (s : State) (c : Cur) (r : Resume) : Option Nat :=
  match c.g.dumpSlot, s.regionAt c.j r.region with
  | some slot, some reg =>
    if r.verified = some true then
      ((List.range (regionLives reg)).map (fun i =>
        (s.readVaNat c.j.who (c.j.regionsBase + regionLiveOff reg + BitVec.ofNat 64 (8 + 2 * i)) 2).getD 0)).find?
          (fun item => s.liveDiffers c slot (c.f.lanesetOf r) item)
    else none
  | _, _ => none

/-- Once no fragment of a resumed workgroup runs an entry routine, it is RUNNING, its dump slot is free, and a held
request takes its course (R241). -/
def State.resumed (s : State) (r : WgRef) : State :=
  match s.wg? r with
  | none => s
  | some g =>
    if g.state = .resuming ∧ (s.wgFrags r).all (fun f => f.routine != .entry) then
      ((s.modWg r (fun x => { x with state := .running })).releaseDump r).applyHeld r
    else s

/-- ENTRYDONE (R250, R251). -/
def execEntrydone (s : State) : Out :=
  scalarRun s {} (fun c =>
    match c.f.routine, c.f.resume with
    | .entry, some r =>
      match s.entryMismatch c r with
      | some item => s.trapScalar c fltEntry (BitVec.ofNat 8 (item / 4096)) (BitVec.ofNat 64 item)
      | none =>
        let f := { c.f with
          spc := r.spc, lpc := r.lpc, exec := r.exec, rptc := r.rptc, queue := c.f.queue ++ r.queue, lissue := r.lissue
          inTrap := r.trap, callSeq := r.callSeq, routine := .none, resume := none, frame := none }
        ((s.setFrag f).releaseFrames c.g.ref c.f.frame.toList).resumed c.g.ref
    | _, _ => s.trapScalar c fltIllegal 0x0C)

/-! ## The end of a save (R241, R246, R248, R375) -/

/-- LANDED and BASE of an engine-frame entry (R248). -/
def Cmd.landedBase (c : Cmd) : Nat := ((List.range (tmplChunks c.tmpl)).find? (fun i => !c.landed.contains i)).getD (tmplChunks c.tmpl)
def Cmd.landedBits (c : Cmd) : Nat :=
  ((List.range 64).map (fun k => if c.landed.contains (c.landedBase + k) then 2 ^ k else 0)).sum

/-- The commands of a workgroup in channel order and then acceptance order. -/
def State.engineOrder (s : State) (g : WgRef) : List Cmd :=
  (List.range 8).flatMap (fun k => s.cmds.filter (fun c => c.wg == g && c.chan == k))

/-- An engine frame's fields (R248). -/
def engineFields (cs : List Cmd) : List (Nat × Nat × Nat) :=
  cs.zipIdx.flatMap (fun p =>
    let c := p.1
    let o := 32 * p.2
    let w : WaveRef := { wg := c.wg, wave := c.wave }
    [(o, c.word.toNat, 8), (o + 8, c.landedBits, 8), (o + 16, c.landedBase, 4), (o + 20, (waveid w).toNat, 4), (o + 24, c.chan, 1),
     (o + 25, (if c.fired then 1 else 0) + 4 * c.frag, 1)])

/-- Writes the engine frame and the scratchpad frames, which follow the fragments' frames (R239, R248, R375). -/
def State.writeFrames (s : State) (g : Wg) (j : Job) : State :=
  let fn := (s.wgFrags g.ref).length
  let engine := g.frames.length - fn - j.scratchFrames
  let s1 := match (g.frames.drop fn).take engine with
    | n :: _ => s.writeFields (s.frameWho j n) g.ref (s.frameBase j.ref.part n) (engineFields (s.engineOrder g.ref))
    | [] => s
  (g.frames.drop (fn + engine)).zipIdx.foldl (fun acc p =>
    acc.writeVa (s.frameWho j p.1) g.ref (s.frameBase j.ref.part p.1)
      ((List.range (min 18432 (j.scratchSize - 18432 * p.2))).map (fun i => g.scratch.get (18432 * p.2 + i)))) s1

/-- The PHASE of each barrier of a job. -/
def State.phasesOf (s : State) (j : JobRef) : List (BitVec 8 × BitVec 32) :=
  match s.job? j with | some x => x.barriers.map (fun b => (b.k, b.phase)) | none => []

/-- Leaves the core: slots and storage released, commands taken out of the channels, the workgroup in line (R241). -/
def State.leaveCore (t : State) (g : Wg) : State :=
  let s := t.makeRoom g g.kind
  let s1 := { s with cmds := s.cmds.map (fun (c : Cmd) => if c.wg = g.ref then { c with core := 256 } else c) }
  ((s1.modWg g.ref (fun x => { x with state := .saved, die := 4, core := 0, held := none, phases := s.phasesOf g.ref.job })).modFrags g.ref
    (fun f => { f with routine := .none, slot := .ready, parkedAt := 0, repark := false, boost := false })).modJob g.ref.job
      (fun j => { j with line := j.line ++ [g.ref.wg] })

/-- A fragment whose exit routine was stopped stands at its point again (R246). -/
def Frag.restored (f : Frag) : Frag :=
  match f.routine, f.resume with
  | .exit _ _ _, some r =>
    { f with spc := r.spc, lpc := r.lpc, exec := r.exec, rptc := r.rptc, queue := r.queue, lissue := r.lissue, inTrap := r.trap
             routine := .none, resume := none, frame := none, slot := .ready, flight := none, seen := [] }
  | _, _ => if f.slot = .parked .trap then { f.stop with frame := none } else { f with frame := none }

/-- The full dump of a workgroup (R246). -/
def State.fullDump (s : State) (g : Wg) (j : Job) (slot : Nat) : State :=
  ((s.wgWaves g.ref).foldl (fun acc w =>
    let at' := j.dumpAt slot + BitVec.ofNat 64 (j.waveAt w.ref.wave)
    (s.fragsOf w.ref).foldl (fun a f => a.fragImage j.who { f := f, w := w, g := g, j := j } at' (f.resumeAt (s.regionNo j f.spc)))
      (acc.writeFields j.who g.ref at' (waveFields j w))) s).scratchImage g j slot

/-- Whether the copies of a workgroup have settled: every fired command is squashed or complete (R248). -/
def State.copiesSettled (s : State) (g : WgRef) : Bool :=
  s.cmds.all (fun c => c.wg != g || !c.fired || c.squashed)

/-- A denial: the fragments go on from their points (R37, R246); an eviction's is remembered for the park rule, a stop's
for its graph. -/
def State.deny (s : State) (g : Wg) : State :=
  let s1 := { s with cmds := s.cmds.map (fun (c : Cmd) => if c.wg = g.ref then { c with squashed := false } else c) }
  let s2 := s1.modWg g.ref (fun x => { x with state := .running })
  let told : State := { s2 with reports := s2.reports ++ [.preemptDenied g.ref.job] }
  match g.kind with
  | .eviction => s2.modJob g.ref.job (fun j => { j with denied := j.denied ++ [g.ref.wg] })
  | .controller => told
  | .stop | .checkpoint =>
    { told with
      stops := s2.stops.map (fun x => if x.part = g.ref.job.part ∧ x.jobs.contains g.ref.job.id
        then { x with denied := x.denied.filter (· != g.ref.job.id) ++ [g.ref.job.id] } else x) }

/-- The fallback: a full dump once every fragment has come to its point, a flush, or a denial (R241, R242, R246). The dump holds PEV,
and what fires from then on is pending at the resume (R194). Its frames stay the workgroup's until its resume (R239). -/
def State.fallBackEnds (s : State) (g : Wg) (j : Job) (since : Nat) : State :=
  let s1 := (s.modFrags g.ref Frag.restored).withdrawTraps g.ref
  let s2 := s1.takeDump g.ref
  match (s2.wg? g.ref).bind (fun x => x.dumpSlot) with
  | some slot =>
    if !(s.wgFrags g.ref).all (fun f => f.exiting || f.atPoint) || !s.copiesSettled g.ref || (s.wgFrags g.ref).any (fun f => f.posted.any (fun p => !p.killed)) then s
    else
      let s3 := (s2.modFrags g.ref Frag.stop).fullDump g j slot
      let s4 : State := { s3 with waves := s3.waves.map (fun (w : Wave) => if w.ref.wg = g.ref then { w with pev := 0 } else w) }
      (s4.modWg g.ref (fun x => { x with dumped := true })).leaveCore g
  | none => if j.idemp ∧ g.kind ≠ .checkpoint then (s1.makeRoom g g.kind).flush g since else (s1.releaseFrames g.ref g.frames).deny g

/-- Whether a fragment's exit is complete (R245). -/
def Frag.exitComplete (f : Frag) : Bool :=
  (match f.routine with | .exit _ _ d => d | _ => false) && f.queue.isEmpty && f.posted.isEmpty

/-- SAVE_COMPLETION (R241): the end of a save, or of its fallback. A posted store of an exit routine that is killed starts
the fallback. -/
def execSaveCompletion (w : WgRef) (s : State) : Out :=
  .next (
    match s.wg? w, s.job? w.job with
    | some g, some j =>
      match g.state with
      | .saving _ =>
        if (s.wgFrags w).all Frag.exitComplete && s.copiesSettled w then (s.writeFrames g j).leaveCore g
        else if (s.wgFrags w).any (fun f => f.exiting && f.queue.isEmpty && f.posted.any (fun p => p.killed)) then
          s.modWg w (fun x => x.fallBack s.cycle)
        else s
      | .fallback t => s.fallBackEnds g j t
      | _ => s
    | _, _ => s)

/-! ## Frames in a checkpoint's area (R239, R256, log 17) -/

/-- What a checkpoint's area holds, in its order: its number, frames, dump slots, launch records, memory ranges. -/
def Checkpoint.parts (c : Checkpoint) : List (List Byte) :=
  leBytes c.id 8 :: c.frames.map (fun x => x.2) ++ c.dumps.map (fun x => x.2) ++ c.jobs.map (fun j => leBytes j.record.toNat 256)
    ++ c.ranges.map (fun x => x.2)

/-- The checkpoint that an area holds, by the number that stands at its start. -/
def State.checkpointAt (s : State) (part : Nat) (area : Word64) : Option Checkpoint :=
  s.checkpoints.find? (fun c => c.part == part && c.id == s.deviceNat { pa := area.toNat, key := none } 0 8)

/-- A checkpoint with its bytes as an area holds them now. -/
def State.fromArea (s : State) (c : Checkpoint) (area : Word64) : Checkpoint :=
  let bs := (s.readLists area.toNat (c.parts.map (fun x => x.length))).tail
  let nf := c.frames.length
  let nd := nf + c.dumps.length
  let nj := nd + c.jobs.length
  { c with
    frames := (c.frames.zip bs).map (fun x => (x.1.1, x.2))
    dumps := (c.dumps.zip (bs.drop nf)).map (fun x => (x.1.1, x.2))
    jobs := (c.jobs.zip (bs.drop nd)).map (fun x => { x.1 with record := BitVec.ofNat 2048 (numAt (fun i => x.2.getD i 0) 0 256) })
    ranges := (c.ranges.zip (bs.drop nj)).map (fun x => (x.1.1, x.2)) }

/-- The value that a list of pairs gives a number, or the number itself. -/
def renamed (xs : List (Nat × Nat)) (n : Nat) : Nat := match xs.find? (fun p => p.1 == n) with | some p => p.2 | none => n

/-- A job under no JOBID of the partition, for Bilgil's own writes. -/
def nameless (j : Job) : Job := { j with ref := { part := j.ref.part, id := 65536 } }

/-- Fills frames with bytes. -/
def State.fillFrames (s : State) (j : Job) (xs : List (Nat × List Byte)) : State :=
  xs.foldl (fun acc x => acc.writeVa (acc.frameWho (nameless j) x.1) { job := j.ref, wg := 0 } (acc.frameBase j.ref.part x.1) x.2) s

/-- A saved fragment takes what its frame's bytes say (R243, R244): its resume record, its join stack and queue extension, and its wave's
record; fragment 0's holds the event slots too. -/
def State.applyFrame (s : State) (j : Job) (f : Frag) (read : Nat → Byte) : State :=
  let idxs := (s.fragsOf f.ref.wave).map (fun (x : Frag) => x.ref.frag)
  let set := match f.resume with | some r => f.lanesetOf r | none => f.laneSet
  let s1 := s.modFrag f.ref (fun x =>
    { x with join := readJoin j idxs x.join set read (min 16 (numAt read 62 1)), resume := x.resume.map (fun r => r.load x j idxs read) })
  s1.modWave f.ref.wave (fun w => if f.ref.frag = 0 then w.loadHw j read else w.loadRecord read)

/-- The commands of a saved workgroup take what its engine frame's bytes say (R248). -/
def State.applyEngine (s : State) (g : Wg) (j : Job) (read : Nat → Byte) : State :=
  (s.engineOrder g.ref).zipIdx.foldl (fun acc p =>
    let o := 32 * p.2
    let word := BitVec.ofNat 64 (numAt read o 8)
    let base := numAt read (o + 16) 4
    let bits := numAt read (o + 8) 8
    acc.setCmd { p.1 with
      word := word, tmpl := j.tmpls.getD (cmdTmpl word) p.1.tmpl, wave := numAt read (o + 20) 4 % 32, chan := numAt read (o + 24) 1 % 8
      landed := List.range (min base (tmplChunks p.1.tmpl))
        ++ ((List.range 64).filter (fun k => bits / 2 ^ k % 2 = 1)).map (fun k => base + k)
      fired := numAt read (o + 25) 1 % 2 == 1, frag := numAt read (o + 25) 1 / 4 % 4 }) s

/-- A saved workgroup takes what the bytes of its frames say, in the frames' order (R239, R248, R375), where they are others than those the
checkpoint wrote. -/
def State.applyFrames (s : State) (r : WgRef) (was now : List (List Byte)) : State :=
  match s.wg? r, s.job? r.job with
  | some g, some j =>
    if g.dumped || was == now then s
    else
      let fs := s.wgFrags r
      let n := fs.length
      let engine := now.length - n - j.scratchFrames
      let pairs := was.zip now
      let s1 := (fs.zip pairs).foldl (fun acc p => if p.2.1 = p.2.2 then acc else acc.applyFrame j p.1 (fun i => p.2.2.getD i 0)) s
      let s2 := match (pairs.drop n).take engine with
        | b :: _ => if b.1 = b.2 then s1 else s1.applyEngine g j (fun i => b.2.getD i 0)
        | [] => s1
      let sp := (now.drop (n + engine)).flatten.take j.scratchSize
      if sp.isEmpty then s2 else s2.modWg r (fun x => { x with scratch := Sparse.setList [] 0 sp })
  | _, _ => s

/-- The bytes of frames, by their numbers. -/
def framesOf (xs : List (Nat × List Byte)) (ns : List Nat) : List (List Byte) :=
  ns.map (fun n => match xs.find? (fun x => x.1 == n) with | some x => x.2 | none => [])

/-- The frames that a held checkpoint has taken from a workgroup, in their order, and the area. -/
def State.awayFrames (s : State) (g : Wg) : Option (Checkpoint × List Nat) :=
  match g.away.bind (fun a => s.checkpointAt g.ref.job.part a) with
  | none => none
  | some c => (c.wgs.find? (fun x => x.ref == g.ref)).map (fun x => (c, x.frames))

/-- Before its resume a workgroup takes frames anew, filled from the area, and what they say. -/
def State.regain (s : State) (g : Wg) (j : Job) : State :=
  match s.awayFrames g with
  | none => s
  | some (c, old) =>
    match s.freeFrames j.ref.part old.length with
    | none => s
    | some ns =>
      let names := old.zip ns
      let now := s.fromArea c (g.away.getD 0)
      let frameOf (r : FragRef) : Option Nat := ((c.frags.find? (fun f => f.ref == r)).bind (fun f => f.frame)).map (renamed names)
      let s1 := (s.modPart j.ref.part (fun p => { p with frames := p.frames ++ ns })).modWg g.ref
        (fun x => { x with frames := ns, away := none })
      ((s1.modFrags g.ref (fun f => { f with frame := frameOf f.ref })).fillFrames j
        ((now.frames.filter (fun x => old.contains x.1)).map (fun x => (renamed names x.1, x.2)))).applyFrames g.ref
          (framesOf c.frames old) (framesOf now.frames old)

/-- A held checkpoint releases the frames of a workgroup; one that resumes from its dump needs none again. -/
def State.giveAway (s : State) (g : Wg) (area : Word64) : State :=
  if g.frames.isEmpty then s
  else ((s.releaseFrames g.ref g.frames).modWg g.ref (fun x => { x with away := if x.dumped then none else some area })).modFrags g.ref
    (fun f => { f with frame := none })

/-! ## Resume (R194, R249, R250) -/

/-- A wave's registers at resume: every lane register, mask and tile row is poisoned, over zeros (R249, log 18). -/
def Wave.poisoned (w : Wave) (j : Job) : Wave :=
  let r := j.role w.role
  { w with
    vregs := [], tiles := [], masks := []
    vpois := ((List.range (roleVregs r)).flatMap (fun v => (List.range j.width).map (fun l => vkey v l))).foldl
      (fun m k => Sparse.set m k 1) []
    tpois := ((List.range (roleTiles r)).flatMap (fun t => (List.range j.width).map (fun l => 64 * t + l))).foldl
      (fun m k => Sparse.set m k 1) []
    mpois := (List.range 7).foldl (fun m k => Sparse.set m (k + 1) (widthMask j.width)) [] }

/-- The entry routine's start (R250); the call id of an SVC at the point is kept for its re-execution (R242). -/
def State.enterRoutine (s : State) (j : Job) (f : Frag) : Frag :=
  let n := roleSregs (j.role (match s.wave? f.ref.wave with | some w => w.role | none => 0))
  let f1 := { f with
    sregs := Sparse.set [] 1 j.args, spois := widthMask n &&& ~~~(3 : Word64), slot := .ready, issuedAt := s.cycle }
  match f.resume with
  | none => f1
  | some r =>
    match s.regionAt j r.region with
    | none => f1
    | some reg =>
      { f1 with
        spc := j.scalarBase + (regionEntry reg).setWidth 64, lpc := s.routineLane j reg 4
        exec := f.lanesetOf r, rptc := 0, fmode := r.fmode, fflags := r.fflags, queue := [], lissue := none, inTrap := none
        callSeq := none, routine := .entry }

/-- A wave with its barrier tokens fired whose PHASE is another than when its workgroup left its core, with the PHASE of now (R194). -/
def Wave.firePhases (w : Wave) (was now : List (BitVec 8 × BitVec 32)) : Wave :=
  (now.filter (fun p => was.any (fun q => q.1 == p.1 && q.2 != p.2))).foldl (fun acc p =>
    acc.fireIf (fun e => e.kind == 0 && e.arg.extractLsb' 0 8 == p.1) (p.2.setWidth 64)) w

/-- Every armed slot is evaluated again: timers fire, barrier tokens where PHASE has changed, level and address tokens as they stand
(R194). -/
def State.reevaluate (s : State) (g : Wg) (r : WaveRef) : State :=
  (s.modWave r (fun w => (w.firePhases g.phases (s.phasesOf r.wg.job)).fireIf (fun e => e.kind == 6) 0)).refreshWave r

/-- Loads a dumped workgroup from its slot (R246). -/
def State.loadDump (s : State) (g : WgRef) (j : Job) (slot : Nat) : State :=
  let s1 := { s with
    waves := s.waves.map (fun (w : Wave) => if w.ref.wg = g then
      let read := fun (i : Nat) => s.dumpByte j slot (j.waveAt w.ref.wave + i)
      let y := w.loadRegs j read
      if w.ended then y else y.resumeHw j (fun i => read (j.hwAt (j.role w.role) 0 + i)) else w)
    frags := s.frags.map (fun (f : Frag) => if f.ref.wave.wg = g then
      match s.wave? f.ref.wave with
      | none => f
      | some w =>
        let read := fun i => s.dumpByte j slot (j.waveAt w.ref.wave + i)
        let idxs := (s.fragsOf w.ref).map (fun (x : Frag) => x.ref.frag)
        (f.loadRegs j (j.role w.role) read).loadHw j idxs (fun i => read (j.hwAt (j.role w.role) f.ref.frag + i))
    else f) }
  s1.modWg g (fun x => { x with scratch := Sparse.setList [] 0 ((List.range j.scratchSize).map (fun i => s.dumpByte j slot (j.scratchAt + i))) })

/-- A saved workgroup starts again on a core: panels lost, registers poisoned and entry routines ahead, or all of it loaded
from the dump; squashed commands replay first and unfired ones re-enter their channels (R148, R248 to R250). -/
def State.resumeWg (t : State) (g0 : Wg) (j : Job) (die core : Nat) : State :=
  let s := t.regain g0 j
  let g := (s.wg? g0.ref).getD g0
  let mine := s.engineOrder g.ref
  let o := s.nextSerial.1
  let s0 : State := s.nextSerial.2
  let again : List Cmd := mine.map (fun c => { c with core := 64 * die + core, squashed := false })
  let s1 : State := { s0 with cmds := s0.cmds.filter (fun c => c.wg != g.ref) ++ again }
  let keep := (s1.wgFrags g.ref).filterMap (fun f => f.frame)
  let s2 := (s1.releaseFrames g.ref (g.frames.filter (fun n => !keep.contains n))).modWg g.ref (fun x =>
    { x with state := .resuming, die := die, core := core, order := o, lost := List.range j.panels
             replay := (mine.filter (fun c => c.fired)).map (fun c => c.id) })
  let s3 := match g.dumped, g.dumpSlot with
    | true, some slot => (s2.loadDump g.ref j slot).releaseDump g.ref
    | _, _ =>
      let s4 := { s2 with waves := s2.waves.map (fun (w : Wave) =>
        if w.ref.wg = g.ref ∧ w.ended = false then w.poisoned j else w) }
      s4.modFrags g.ref (fun f => s4.enterRoutine j f)
  let s5 := ((s3.wgWaves g.ref).map (fun w => w.ref)).foldl (fun acc r => acc.reevaluate g r) s3
  s5.resumed g.ref

end Sys2Proof.Machine
end

