-- ==== Sys2Proof/Machine/Carve.lean ====
section
/-! DEFINITION. Placing workgroups on cores: what a core can hold, the choice of a core, a fresh dispatch's state, the
waiting line, and retirement (R7, R17, R18, R20, R36, R38, R138, R227, R228, R258). -/

namespace Sys2Proof.Machine

open Sys2Proof

/-! ## Room on a core (R18, R138) -/

/-- Bytes of lane registers and of tiles that a workgroup of a job takes. -/
def Job.vregNeed (j : Job) : Nat := (j.waveRoles.map (fun k => roleVregs (j.role k) * j.width * 4)).sum
def Job.tileNeed (j : Job) : Nat := (j.waveRoles.map (fun k => roleTiles (j.role k) * j.width * 512)).sum

/-- The jobs of the workgroups on a core. -/
def State.coreJobs (s : State) (die core : Nat) : List Job :=
  (s.wgs.filter (fun g => g.die == die && g.core == core)).filterMap (fun g => s.job? g.ref.job)

/-- Whether the workgroups of jobs fit on one core together (R18, R138), their slots apart. -/
def coreHolds (js : List Job) : Bool :=
  decide ((js.map Job.vregNeed).sum ≤ 524288 ∧ (js.map Job.tileNeed).sum ≤ 262144 ∧ (js.map Job.scratchSize).sum ≤ 524288
    ∧ (js.map Job.panels).sum ≤ 128)

/-- Free slots of a core (R18, R33, R38). -/
def State.freeSlots (s : State) (die core : Nat) : Nat := 32 - s.slotsTaken die core

/-- A job core of a partition: of its clusters, no service core, on a die that is not lost (R7, R13, R270). DESIGN CHOICE (log 97): bit 8d + k of
CLUSTERS names cluster k of die d. -/
def State.ownsCore (s : State) (part die core : Nat) : Bool :=
  core != 0
    && (match s.part? part with | some p => p.clusters.getLsbD (8 * die + core / 8) | none => false)
    && (match s.die? die with | some d => !d.lost | none => false)

/-- A job core that takes dispatches now: not gated (R279), its partition not in reset (R271), its cluster not under quarantine
(R273). -/
def State.jobCore (s : State) (part die core : Nat) : Bool :=
  s.ownsCore part die core
    && (match s.part? part with | some p => !p.resetting | none => false)
    && (match s.die? die with | some d => !d.gate.getLsbD core | none => false)
    && !s.contexts.any (fun x => x.tearing && x.clusters.getLsbD (8 * die + core / 8))

/-- Whether a core can hold one more workgroup of a job, which needs `slots` slots. -/
def State.fits (s : State) (j : Job) (slots die core : Nat) : Bool :=
  s.jobCore j.ref.part die core && decide (slots ≤ s.freeSlots die core) && coreHolds (j :: s.coreJobs die core)

/-- The core of a die with the most free slots among those that fit, the lowest among equals (R228). -/
def State.pickCore (s : State) (j : Job) (slots die : Nat) : Option Nat :=
  ((List.range 64).filter (fun c => s.fits j slots die c)).foldl (fun best c =>
    match best with
    | none => some c
    | some b => if s.freeSlots die b < s.freeSlots die c then some c else some b) none

/-! ## A fresh dispatch (R20, R228) -/

/-- A disarmed event slot. -/
def EvSlot.none : EvSlot := { armed := false, kind := 0, arg := 0, arg2 := 0, handler := 0, val := 0, start := 0, info := 0 }

/-- The memberships of a wave, from the constellation table, no arrival made and target phase 0 (R30, R188). -/
def Job.membersOf (j : Job) (w : BitVec 32) : List Member :=
  (j.barriers.filter (fun b => b.members.contains w)).map (fun b => { con := b.k, arrived := false, target := 0 })

/-- A wave at dispatch (R20). -/
def Job.freshWave (j : Job) (g : WgRef) (i role : Nat) : Wave :=
  { ref := { wg := g, wave := i }, role := role, vregs := [], vpois := [], tiles := [], tpois := [], masks := [], mpois := []
    evslots := List.replicate 16 EvSlot.none, pev := 0, evmask := 0, members := j.membersOf (waveid { wg := g, wave := i })
    seqctr := 0, fetched := [], ended := false }

/-- A wave's first fragment at dispatch (R20). -/
def Job.freshFrag (j : Job) (g : WgRef) (i role order now : Nat) : Frag :=
  let r := j.role role
  { ref := { wave := { wg := g, wave := i }, frag := 0 }
    spc := j.scalarBase + (roleSpc r).setWidth 64, lpc := j.laneBase + (roleLpc r).setWidth 64
    sregs := Sparse.set [] 1 j.args, spois := 0, exec := widthMask j.width, fmode := j.fmode0, fflags := 0, rptc := 0, first := true, rep := none
    lissue := none, queue := [], join := [], evslot := 0, evinfo := 0, trapcause := 0, trapaddr := 0, traplpc := 0, slot := .ready
    parkedAt := 0, issuedAt := now, boost := false, order := order, posted := [], behind := [], waiting := none, inTrap := none
    callSeq := none, routine := .none, resume := none, frame := none, steps := none, passPoint := false, repark := false }

/-- The stash windows of workgroup `n` (R154). -/
def Job.windows (j : Job) (n : Nat) : List Stash :=
  (j.stash.filter (fun d => d.getLsbD 0)).map (fun d =>
    { soff := (d.extractLsb' 64 19).toNat, size := (d.extractLsb' 96 32).toNat
      gbase := d.extractLsb' 192 64 + BitVec.ofNat 64 n * d.extractLsb' 128 64 })

/-- The lowest wave of each role in baton mode (R29). -/
def Job.batons (j : Job) : List Nat :=
  (List.range j.nroles).filterMap (fun k => if roleBaton (j.role k) then j.waveRoles.findIdx? (· == k) else none)

/-- A workgroup at dispatch. -/
def Job.freshWg (j : Job) (g : WgRef) (die core order : Nat) : Wg :=
  { ref := g, die := die, core := core, state := .running, order := order, scratch := [], panels := [], lost := []
    stash := j.windows g.wg, baton := j.batons, fired := [], accepted := [], done := 0, orphans := [], frozen := false, held := none
    kind := .controller, frames := [], dumpSlot := none, dumped := false, replay := [], away := none }

/-- The waves of a flushed workgroup that had ended and left their constellations join them again (R32). -/
def State.rejoin (s : State) (g : WgRef) : State :=
  ((s.wgWaves g).filter (fun w => w.ended)).foldl (fun acc w => w.members.foldl (fun a m =>
    match (a.job? g.job).bind (fun j => j.barrier? m.con) with
    | none => a
    | some b => a.setBarrier g.job { b with expect := b.expect + 1 }) acc) s

/-- Carves a workgroup's storage and sets its waves (R228). `done` is the progress of a workgroup that starts again. -/
def State.carve (s : State) (j : Job) (g : WgRef) (die core done : Nat) : State :=
  let n := s.serial
  { s with
    serial := n + 1 + j.nwaves
    wgs := s.wgs.filter (fun x => x.ref != g) ++ [{ j.freshWg g die core n with done := done }]
    waves := s.waves.filter (fun w => w.ref.wg != g) ++ j.waveRoles.zipIdx.map (fun p => j.freshWave g p.2 p.1)
    frags := s.frags.filter (fun f => f.ref.wave.wg != g)
      ++ j.waveRoles.zipIdx.map (fun p => j.freshFrag g p.2 p.1 (n + 1 + p.2) s.cycle) }

/-! ## The waiting line (R36, R227) -/

/-- Undispatched workgroups of a job left in the sub-range of a die. -/
def Job.leftOn (j : Job) (die : Nat) : Nat := ((j.ranges.filter (fun r => r.1 == die)).map (fun r => r.2.2 - r.2.1)).sum

/-- The lowest undispatched workgroup of a die's sub-range, and the lowest of the job. -/
def Job.lowestOn (j : Job) (die : Nat) : Option Nat :=
  ((j.ranges.filter (fun r => r.1 == die && decide (r.2.1 < r.2.2))).map (fun r => r.2.1)).min?
def Job.lowest (j : Job) : Option Nat := ((j.ranges.filter (fun r => decide (r.2.1 < r.2.2))).map (fun r => r.2.1)).min?

/-- The highest undispatched workgroup of the die whose sub-range has the most left, the lower die among equals (R227). -/
def Job.stealFrom (j : Job) : Option Nat :=
  let d := (List.range 4).foldl (fun b d => if j.leftOn b < j.leftOn d then d else b) 0
  ((j.ranges.filter (fun r => r.1 == d && decide (r.2.1 < r.2.2))).map (fun r => r.2.2 - 1)).max?

/-- The die that a workgroup belongs to (R227). -/
def Job.home (j : Job) (n : Nat) : Option Nat := (j.homes.find? (fun r => decide (r.2.1 ≤ n ∧ n < r.2.2))).map (fun r => r.1)

/-- A workgroup of the line that may start: a saved one, whose frames are there or can be taken anew, or a flushed one whose commands
have written their words (R247, R256). -/
def State.lineReady (s : State) (j : Job) (n : Nat) : Bool :=
  match s.wg? { job := j.ref, wg := n } with
  | none => false
  | some g =>
    match g.state with
    | .saved => (match s.awayFrames g with | some (_, ns) => (s.freeFrames j.ref.part ns.length).isSome | none => true)
    | .waiting _ => s.cmds.all (fun c => c.wg != g.ref) && g.orphans.isEmpty
    | _ => false

/-- A workgroup of the line that may start on a die: under PLACE = 1 a flushed one starts on the die it belongs to (R227). -/
def State.lineReadyOn (s : State) (j : Job) (die n : Nat) : Bool :=
  s.lineReady j n && (j.placeMode != 1 || j.home n == some die
    || (match s.wg? { job := j.ref, wg := n } with | some g => g.state == .saved | none => false))

/-- The workgroup that a die dispatches next (R36, R227). -/
def State.candidate (s : State) (j : Job) (die : Nat) : Option Nat :=
  match j.lowestOn die with
  | some n => some n
  | none =>
    match (if j.placeMode = 0 then j.stealFrom else none) with
    | some n => some n
    | none => j.line.find? (fun n => s.lineReadyOn j die n)

/-- The workgroups of a job that wait and may start on a die: one of those never dispatched, and those in line (R228). -/
def State.candidates (s : State) (j : Job) (die : Nat) : List Nat :=
  (match j.lowestOn die with | some n => [n] | none => (if j.placeMode = 0 then j.stealFrom.toList else []))
    ++ j.line.filter (fun n => s.lineReadyOn j die n)

/-- The slots a waiting workgroup needs: one for each wave, and for a saved one also one for each detached fragment (R18). -/
def State.slotsNeeded (s : State) (j : Job) (n : Nat) : Nat :=
  match s.wg? { job := j.ref, wg := n } with
  | some g => j.nwaves + (if g.state = .saved then ((s.wgFrags g.ref).filter (fun f => !f.first)).length else 0)
  | none => j.nwaves

/-- Whether an earlier job of the partition has a workgroup that fits on the die (R228). -/
def State.earlierFits (s : State) (j : Job) (die : Nat) : Bool :=
  s.jobs.any (fun k => k.ref.part == j.ref.part && decide (k.order < j.order) && k.state == .running
    && (s.candidates k die).any (fun n => (s.pickCore k (s.slotsNeeded k n) die).isSome))

/-- Whether the next dispatch of a job on a die may start yet (R228). -/
def State.staggered (s : State) (j : Job) (die : Nat) : Bool :=
  match j.lastDispatch.find? (fun x => x.1 == die) with
  | none => true
  | some x => decide (x.2 + j.stagger ≤ s.cycle)

/-- The workgroup that a die dispatches next: where an eviction has made room, the one next in line of the whole job (R36, R227). -/
def State.nextOn (s : State) (j : Job) (die : Nat) : Option Nat :=
  if j.room.contains die ∧ j.placeMode = 0 then j.lowest.or (s.candidate j die) else s.candidate j die

/-- Whether a workgroup may be dispatched on a core now: the next one on that die (R36, R227, R228). Workgroup d of the service job stands on core 0 of die d (R258). -/
def State.mayDispatch (s : State) (j : Job) (n die core : Nat) : Bool :=
  if j.kernel then
    n == die && core == 0 && j.ranges.any (fun r => decide (r.2.1 ≤ n ∧ n < r.2.2))
      && s.dies.any (fun d => d.id == die && !d.lost && !d.gate.getLsbD 0)
  else
    j.state == .running && s.staggered j die && !s.earlierFits j die
      && s.nextOn j die == some n
      && s.pickCore j (s.slotsNeeded j n) die == some core

/-- Takes a workgroup out of the sub-ranges and the line for a die, which then has work to report of (R226), and uses
up the room that an eviction made there (R36). -/
def Job.taken (j : Job) (n die now : Nat) : Job :=
  { j with
    ranges := (j.ranges.flatMap (fun r =>
      if r.2.1 ≤ n ∧ n < r.2.2 then [(r.1, r.2.1, n), (r.1, n + 1, r.2.2)] else [r])).filter (fun r => decide (r.2.1 < r.2.2))
    line := j.line.filter (· != n), reported := j.reported.filter (· != die)
    lastDispatch := j.lastDispatch.filter (fun x => x.1 != die) ++ [(die, now)], room := j.room.filter (· != die) }

/-- Dispatches a workgroup on a core: a saved one resumes, another starts from its entries (R228, R241). -/
def State.dispatch (s : State) (j : Job) (n die core : Nat) : State :=
  let g : WgRef := { job := j.ref, wg := n }
  let s1 := s.modJob j.ref (fun x => x.taken n die s.cycle)
  match s.wg? g with
  | some x =>
    if x.state = .saved then s1.resumeWg x j die core
    else
      let s2 := s1.rejoin g
      s2.carve ((s2.job? j.ref).getD j) g die core x.done
  | none => s1.carve j g die core 0

/-- DISPATCH (R228). -/
def execDispatch (w : WgRef) (core : BitVec 8) (s : State) : Out :=
  .next (
    match s.job? w.job with
    | none => s
    | some j =>
      let die := core.toNat / 64
      let c := core.toNat % 64
      if s.mayDispatch j w.wg die c then s.dispatch j w.wg die c else s)

/-! ## The end of a workgroup (R38, R226) -/

/-- Removes a workgroup with its waves, fragments and commands, and gives back its frames and dump slot. -/
def State.removeWg (s : State) (g : Wg) : State :=
  let s1 := (s.releaseDump g.ref).releaseFrames g.ref g.frames
  { s1 with
    wgs := s1.wgs.filter (fun x => x.ref != g.ref), waves := s1.waves.filter (fun w => w.ref.wg != g.ref)
    frags := s1.frags.filter (fun f => f.ref.wave.wg != g.ref), cmds := s1.cmds.filter (fun c => c.wg != g.ref) }

/-- Whether every wave of a workgroup has ended and every command of it has completed (R38). -/
def State.wgFinished (s : State) (g : WgRef) : Bool :=
  (s.wgWaves g).all (fun w => w.ended) && s.cmds.all (fun c => c.wg != g)

/-- The stores a finished workgroup leaves are performed or dropped (R164, R225). -/
def State.settleOrphans (s : State) (g : Wg) (j : Job) : State :=
  g.orphans.foldl (fun acc p => acc.translateOrphan p.1 g j p.2) s

/-- WORKGROUP_RETIREMENT: storage is released (R38); a service workgroup is dispatched again at once and its queue
restarted (R258). -/
def execWorkgroupRetirement (w : WgRef) (s : State) : Out :=
  .next (
    match s.wg? w, s.job? w.job with
    | some g, some j =>
      if g.die < 4 ∧ s.wgFinished w then
        let s1 := s.settleOrphans g j
        if j.kernel then (s1.carve j w g.die g.core 0).sqRestart g.die
        else ((s1.removeWg g).withdrawAll w).modJob w.job (fun x => { x with retired := x.retired + 1 })
      else s
    | _, _ => s)

/-- Drops a store of a discarded workgroup: its entry has ISSUER_GONE; where no translation has failed, its cause is free
(R226, log 20). -/
def State.discardStore (s : State) (r : FragRef) (g : Wg) (j : Job) (p : Posted) : State :=
  match p.fault with
  | some (_, cause, va) => s.dropStore r g j p { cause := cause, ipa := 0 } va
  | none => s.dropStore r g j p { cause := Config.freeByte s.fresh p.id, ipa := 0 } ((p.elems.head?.map (fun e => e.addr)).getD 0)

/-- Discards a workgroup: no exit routine, no save; its performed stores remain (R226). -/
def State.discardWg (s : State) (g : Wg) (j : Job) : State :=
  let stores := (s.wgFrags g.ref).flatMap (fun f => (f.posted.filter (fun p => !p.killed)).map (fun p => (f.ref, p))) ++ g.orphans
  ((stores.foldl (fun acc p => acc.discardStore p.1 g j p.2) (s.finishAtoms g.ref)).removeWg g).withdrawAll g.ref

end Sys2Proof.Machine
end

