-- ==== Sys2Proof/Machine/Loader.lean ====
section
/-! DEFINITION. The loader: a container's header, section table and image descriptors and the faults it is refused for, the
choice of an image, its relocations, and the sections placed in a partition's memory (R84, R93 to R97, R99, R100). -/

namespace Sys2Proof.Machine

open Sys2Proof

/-! ## The container's bytes (R93) -/

/-- The little-endian value of `n` bytes of a file. -/
def fileNat (bs : List Byte) (o n : Nat) : Nat := bytesToNat ((bs.drop o).take n)

/-- An entry of the section table (R93). -/
structure Sect where
  idx : Nat
  kind : Nat
  image : Nat
  kernel : Nat
  off : Nat
  size : Nat
  reserved : Nat
  deriving DecidableEq, Repr

/-- Header fields (R93). -/
def fileNsect (bs : List Byte) : Nat := fileNat bs 6 2
def fileSectOff (bs : List Byte) : Nat := fileNat bs 8 8
def fileSigOff (bs : List Byte) : Nat := fileNat bs 16 8

/-- An entry of the section table. -/
def sectAt (bs : List Byte) (i : Nat) : Sect :=
  let o := fileSectOff bs + 32 * i
  { idx := i, kind := fileNat bs o 2, image := fileNat bs (o + 2) 2, kernel := fileNat bs (o + 4) 4
    off := fileNat bs (o + 8) 8, size := fileNat bs (o + 16) 8, reserved := fileNat bs (o + 24) 8 }

/-- The sections; those of kinds 0x100 and above are ignored. -/
def sects (bs : List Byte) : List Sect := ((List.range (fileNsect bs)).map (sectAt bs)).filter (fun x => decide (x.kind < 0x100))

/-- The kinds that R93 names. -/
def kindKnown (k : Nat) : Bool := decide ((1 ≤ k ∧ k ≤ 0x0C) ∨ (0x10 ≤ k ∧ k ≤ 0x13) ∨ k = 0x20)

/-- A header that the loader refuses (R93). DESIGN CHOICE (log 101): among them NSECT outside 1 to 4,096, a file shorter than its header and a section
table that ends beyond the file. -/
def headerBad (bs : List Byte) : Bool :=
  decide (fileNat bs 0 4 ≠ 0x4C4D5250 ∨ fileNat bs 4 2 ≠ 1 ∨ fileNsect bs = 0 ∨ 4096 < fileNsect bs ∨ fileNat bs 24 40 ≠ 0
    ∨ bs.length < 64 ∨ bs.length < fileSectOff bs + 32 * fileNsect bs)

/-- An entry that the loader refuses: an unknown kind, a reserved field, an offset out of its alignment, bytes beyond the file's end
(R93, log 85). -/
def sectBad (bs : List Byte) (x : Sect) : Bool :=
  !kindKnown x.kind || decide (x.reserved ≠ 0 ∨ x.off % 64 ≠ 0 ∨ bs.length < x.off + x.size)

/-- Whether two of a list of sections overlap. -/
def overlaps : List Sect → Bool
  | [] => false
  | x :: xs => xs.any (fun y => decide (x.off < y.off + y.size ∧ y.off < x.off + x.size)) || overlaps xs

/-! ## Image descriptors (R94) -/

/-- The kinds of a kernel's own sections. -/
def perKernel (k : Nat) : Bool := [2, 3, 6, 7, 8, 0x0A, 0x0B].contains k

/-- Whether a section belongs to an image, its own or shared by all (R93). -/
def Sect.ofImage (x : Sect) (img : Nat) : Bool := x.image == img || x.image == 0xFFFF

/-- The descriptors of the images, in the container's order. DESIGN CHOICE (log 105): that is the order of the section table. -/
def images (bs : List Byte) : List Sect := (sects bs).filter (fun x => x.kind == 1)

/-- Fields of an image descriptor. -/
def imgVersion (bs : List Byte) (x : Sect) : Nat := fileNat bs x.off 1 * 65536 + fileNat bs (x.off + 1) 1 * 256 + fileNat bs (x.off + 2) 1
def imgReq (bs : List Byte) (x : Sect) : Word64 := BitVec.ofNat 64 (fileNat bs (x.off + 8) 8)
def imgNkernel (bs : List Byte) (x : Sect) : Nat := fileNat bs (x.off + 16) 4
def imgNconst (bs : List Byte) (x : Sect) : Nat := fileNat bs (x.off + 20) 4
def imgDataSize (bs : List Byte) (x : Sect) : Nat := fileNat bs (x.off + 24) 8
def imgDataInit (bs : List Byte) (x : Sect) : Nat := fileNat bs (x.off + 32) 8

/-- An image descriptor that the loader refuses. -/
def imageBad (bs : List Byte) (x : Sect) : Bool :=
  decide (x.size ≠ 64 ∨ fileNat bs (x.off + 3) 5 ≠ 0 ∨ fileNat bs (x.off + 40) 24 ≠ 0 ∨ imgNkernel bs x = 0 ∨ 4096 < imgNkernel bs x
    ∨ 16384 < imgNconst bs x ∨ imgDataSize bs x < imgDataInit bs x)

/-- Whether two of a list of sections belong to one kernel of one image and have one kind; a shared one belongs to every image. -/
def doubled : List Sect → Bool
  | [] => false
  | x :: xs => xs.any (fun y => x.kind == y.kind && (x.ofImage y.image || y.ofImage x.image) && x.kernel == y.kernel) || doubled xs

/-- A per-kernel section whose kernel an image of it has not. -/
def kernelBeyond (bs : List Byte) (x : Sect) : Bool :=
  perKernel x.kind && (images bs).any (fun i => x.ofImage i.image && decide (imgNkernel bs i ≤ x.kernel))

/-- What refuses a container whatever its signature (R93, R94). -/
def containerBad (bs : List Byte) : Bool :=
  headerBad bs || (sects bs).any (sectBad bs) || overlaps (sects bs) || (images bs).any (imageBad bs)
    || (sects bs).any (kernelBeyond bs) || doubled ((sects bs).filter (fun x => perKernel x.kind))

/-! ## Signatures (R99, R270) -/

/-- Whether a signature verifies: the signature section is the last of the file, and one of the partition's enrolled keys made the
signature over the digest of every byte before it (log 80). -/
def signatureOk (p : Part) (bs : List Byte) : Bool :=
  let o := fileSigOff bs
  (sects bs).any (fun x => x.kind == 0x20 && x.off == o && x.off + x.size == bs.length)
    && (p.enroll.take (p.sigpolicy.extractLsb' 1 3).toNat).any (fun k => Config.signatureVerifies (bs.take o) (bs.drop o) k)

/-- Whether a partition's loader refuses a container for its signature. -/
def signatureBad (p : Part) (bs : List Byte) : Bool :=
  if fileSigOff bs = 0 then p.sigpolicy.getLsbD 0 else !signatureOk p bs

/-- Whether a partition's loader takes a container. -/
def Part.takes (p : Part) (bs : List Byte) : Bool := !containerBad bs && !signatureBad p bs

/-! ## The choice of an image (R100) -/

/-- The better of two images: the higher version, of equal ones the earlier. -/
def betterImage (bs : List Byte) (best : Option Sect) (x : Sect) : Option Sect :=
  match best with
  | none => some x
  | some b => if imgVersion bs b < imgVersion bs x then some x else some b

/-- The image a launch takes: its features are there and its version is not above ARCHVER. -/
def chooseImage (bs : List Byte) (features : Word64) (archver : Nat) : Option Sect :=
  ((images bs).filter (fun x => imgReq bs x &&& ~~~features == 0 && decide (imgVersion bs x ≤ archver))).foldl (betterImage bs) none

/-! ## Relocations and placement (R96) -/

/-- The sections that an image loads: its own and the shared ones, of the kinds that stand in memory. DESIGN CHOICE (log 102): those are kinds 0x01
to 0x0B. -/
def loadable (bs : List Byte) (img : Nat) : List Sect :=
  (sects bs).filter (fun x => x.ofImage img && decide (1 ≤ x.kind ∧ x.kind ≤ 0x0B))

/-- The descriptor that says how a section loads for an image: that of the section's own image, for a shared one that of the image. -/
def Sect.descriptor (x : Sect) (bs : List Byte) (img : Nat) : Option Sect :=
  (images bs).find? (fun i => i.image == (if x.image = 0xFFFF then img else x.image))

/-- The bytes a section of an image takes in memory: the data section is filled with zeros (R94). -/
def Sect.room (x : Sect) (bs : List Byte) (img : Nat) : Nat :=
  if x.kind = 5 then max x.size ((x.descriptor bs img).elim 0 (imgDataSize bs)) else x.size

/-- The bytes that the loader keeps for a section, whichever image it is loaded for. -/
def Sect.span (x : Sect) (bs : List Byte) : Nat := (images bs).foldl (fun n i => max n (x.room bs i.image)) x.size

/-- The load addresses of sections from an address on: ascending, each a multiple of 384, with gaps that are the loader's choice
(log 85). -/
def placeFrom (bs : List Byte) (gap : Nat → Nat) : Nat → List Sect → List (Nat × Word64)
  | _, [] => []
  | a, x :: xs =>
    let at' := 384 * (a + gap x.idx)
    (x.idx, BitVec.ofNat 64 at') :: placeFrom bs gap ((at' + x.span bs) / 384 + 1) xs

/-- The load address of a section of a container. -/
def Container.place (c : Container) (i : Nat) : Word64 := ((c.places.find? (fun p => p.1 == i)).map (fun p => p.2)).getD 0

/-- A relocation entry (R96). -/
structure Reloc where
  sect : Nat
  base : Nat
  kind : Nat
  off : Nat
  addend : Word64
  reserved : Nat
  deriving DecidableEq, Repr

/-- The relocation at an offset of the file. -/
def relocAt (bs : List Byte) (o : Nat) : Reloc :=
  { sect := fileNat bs o 2, base := fileNat bs (o + 2) 2, kind := fileNat bs (o + 4) 1, off := fileNat bs (o + 8) 8
    addend := BitVec.ofNat 64 (fileNat bs (o + 16) 8), reserved := fileNat bs (o + 5) 3 + fileNat bs (o + 24) 8 }

/-- The relocations of a relocation section. -/
def Sect.relocs (x : Sect) (bs : List Byte) : List Reloc := (List.range (x.size / 32)).map (fun i => relocAt bs (x.off + 32 * i))

/-- The relocations of an image: its own and the shared ones. -/
def relocs (bs : List Byte) (img : Nat) : List Reloc :=
  ((sects bs).filter (fun x => x.kind == 0x0C && x.ofImage img)).flatMap (fun x => x.relocs bs)

/-- The relocations of an image alone that set words of shared sections. -/
def sharedRelocs (bs : List Byte) (img : Nat) : List Reloc :=
  (((sects bs).filter (fun x => x.kind == 0x0C && x.image == img)).flatMap (fun x => x.relocs bs)).filter (fun r =>
    (loadable bs img).any (fun x => x.idx == r.sect && x.image == 0xFFFF))

/-- A relocation for which the load is refused; a word out of its alignment is none either (R96, log 85). -/
def relocBad (bs : List Byte) (img : Nat) (ls : List Sect) (r : Reloc) : Bool :=
  decide (r.kind ≠ 0 ∨ r.reserved ≠ 0 ∨ r.off % 8 ≠ 0) || !ls.any (fun x => x.idx == r.base)
    || (match ls.find? (fun x => x.idx == r.sect) with | none => true | some x => decide (x.room bs img < r.off + 8))

/-- A section as it is loaded: its bytes, then every word that a relocation sets (R84, R96). -/
def Container.content (c : Container) (img : Nat) (x : Sect) : Sparse 8 :=
  let n := if x.kind = 5 then min x.size ((x.descriptor c.bytes img).elim x.size (imgDataInit c.bytes)) else x.size
  ((relocs c.bytes img).filter (fun r => r.sect == x.idx)).foldl (fun m r => m.setBytes r.off 8 (c.place r.base + r.addend).toNat)
    (Sparse.setList [] 0 ((c.bytes.drop x.off).take n))

/-! ## Region tables at load (R97) -/

/-- A region entry of a table in the file. -/
def fileRegion (bs : List Byte) (x : Sect) (i : Nat) : BitVec 256 := BitVec.ofNat 256 (fileNat bs (x.off + 32 * i) 32)

/-- The regions of a kernel, by its descriptor's count. -/
def kernelRegions (bs : List Byte) (img : Nat) (x : Sect) : List (BitVec 256) :=
  match (sects bs).find? (fun k => k.kind == 9 && k.ofImage img) with
  | none => []
  | some k => (List.range (fileNat bs (k.off + 256 * x.kernel + 100) 4)).map (fileRegion bs x)

/-- A region that the load refuses: a live item, after the 8-byte header of the list (R245), of a file that is none, a budget or save size out of its
range (R97, log 85), a routine whose offsets are no multiples of 4 and 12 (R40, log 60). -/
def regionBad (bs : List Byte) (x : Sect) (r : BitVec 256) : Bool :=
  let budget := (r.extractLsb' 96 32).toNat
  let live := x.off + (r.extractLsb' 0 64).toNat
  decide (budget = 0 ∨ 65536 < budget ∨ 16384 < (r.extractLsb' 80 16).toNat ∨ (r.extractLsb' 160 32).toNat % 4 ≠ 0
      ∨ (r.extractLsb' 128 32).toNat % 4 ≠ 0 ∨ fileNat bs live 4 % 12 ≠ 0 ∨ fileNat bs (live + 4) 4 % 12 ≠ 0)
    || (List.range (r.extractLsb' 65 15).toNat).any (fun i => decide (0x3FFF < fileNat bs (live + 8 + 2 * i) 2))

/-- Whether two of a list of regions overlap. -/
def regionsOverlap : List (BitVec 256) → Bool
  | [] => false
  | r :: rs => rs.any (fun q => decide ((r.extractLsb' 224 32).toNat < (q.extractLsb' 192 32).toNat
      ∧ (q.extractLsb' 224 32).toNat < (r.extractLsb' 192 32).toNat)) || regionsOverlap rs

/-- Whether the load of an image is refused (R96, R97). -/
def loadBad (bs : List Byte) (img : Nat) : Bool :=
  let ls := loadable bs img
  (relocs bs img).any (relocBad bs img ls)
    || (ls.filter (fun x => x.kind == 8)).any (fun x =>
      let rs := kernelRegions bs img x
      rs.any (regionBad bs x) || regionsOverlap rs)

/-! ## Loading -/

/-- Stores a byte where a virtual address of a job's tables leads, whatever the page allows the job (log 85); under the service job's stage 2 the
identity map leads on (R258). DESIGN CHOICE (log 103): a byte whose address does not translate is not stored, and the image counts as loaded. -/
def State.loadByte (s : State) (j : Job) (va : Word64) (b : Byte) : State :=
  match s.walk1 j.ref.part va.toNat [0, 1, 2, 3, 4] (j.s1root % 2 ^ 44) with
  | .error _ => s
  | .ok (ipa, _) =>
    match s.stage2 j.ref.part ipa with
    | .error _ => s
    | .ok (pa, leaf) => s.storePlain { job := j.ref, wg := 0 } (.phys { pa := pa, key := leafKey leaf }) 1 b.toNat

/-- Stores a number of bytes from an address on, as the loader does. -/
def State.loadBytes (s : State) (j : Job) (va : Word64) (n : Nat) (at' : Nat → Byte) : State :=
  (List.range n).foldl (fun a i => a.loadByte j (va + BitVec.ofNat 64 i) (at' i)) s

/-- Whether a job that is resident runs an image of a container. -/
def State.inUse (s : State) (c : Container) : Bool := s.jobs.any (fun x => match x.image with | some k => k.1 == c.id | none => false)

/-- Places the sections of an image in memory; shared ones that stand there already for another image are not written again, but for the words that
this image's own relocations set in them, while no job runs an image of the container (R96, R100, log 104). -/
def State.loadImage (s : State) (j : Job) (c : Container) (img : Nat) : State :=
  let s1 := ((loadable c.bytes img).filter (fun x => x.image != 0xFFFF || c.loaded.isEmpty)).foldl (fun acc x =>
    let m := c.content img x
    acc.loadBytes j (c.place x.idx) (x.span c.bytes) m.get) s
  if c.loaded.isEmpty || s.inUse c then s1
  else
    (sharedRelocs c.bytes img).foldl (fun acc r =>
      acc.loadBytes j (c.place r.sect + BitVec.ofNat 64 r.off) 8 (fun i => byteOf (c.place r.base + r.addend).toNat i)) s1

/-- The kernel that an address names in a container: an address of a kernel descriptor of any of its images (log 85). -/
def Container.kernelAt (c : Container) (va : Word64) : Option Nat :=
  (images c.bytes).findSome? (fun i =>
    match (sects c.bytes).find? (fun x => x.kind == 9 && x.ofImage i.image) with
    | none => none
    | some x =>
      (List.range (imgNkernel c.bytes i)).find? (fun k => decide (256 * k + 256 ≤ x.size) && c.place x.idx + BitVec.ofNat 64 (256 * k) == va))

/-- Where a kernel's descriptor stands in an image of a container. -/
def Container.descAt (c : Container) (i : Sect) (k : Nat) : Option Word64 :=
  match (sects c.bytes).find? (fun x => x.kind == 9 && x.ofImage i.image) with
  | none => none
  | some x => if k < imgNkernel c.bytes i ∧ 256 * k + 256 ≤ x.size then some (c.place x.idx + BitVec.ofNat 64 (256 * k)) else none

/-- A container that a control program has handed to the loader of a partition by now; what it holds and where the loader puts it
are free (log 85). -/
def State.handed (s : State) (part : Nat) (va : Word64) : Container :=
  let bs := Config.freeContainer s.fresh part va
  { id := s.serial, part := part, bytes := bs, loaded := [], unload := false
    places := placeFrom bs (fun i => Config.freeNat s.fresh (2000 + i) % 2 ^ 20) (Config.freeNat s.fresh 1999 % 2 ^ 47) (sects bs) }

/-- The addresses that the loader keeps for the sections of a container: where each begins, and where it ends. -/
def Container.taken (c : Container) : List (Nat × Nat) :=
  (sects c.bytes).map (fun x => ((c.place x.idx).toNat, (c.place x.idx).toNat + x.span c.bytes))

/-- Whether two containers would stand at the same addresses. -/
def Container.overlays (c d : Container) : Bool :=
  c.taken.any (fun x => d.taken.any (fun y => decide (x.1 < y.2 ∧ y.1 < x.2)))

/-- The containers with one that names the kernel, if the loader of the partition holds one or takes one now; a container is placed over no other
(R100). -/
def State.withContainer (s : State) (p : Part) (va : Word64) : State :=
  if s.containers.any (fun c => c.part == p.id && (c.kernelAt va).isSome) then s
  else
    let c := s.handed p.id va
    if p.takes c.bytes && !s.containers.any (fun d => d.part == p.id && c.overlays d) then { s with containers := s.containers ++ [c], serial := s.serial + 1 } else s

/-- What a launch runs: the container, the image in it, and where the kernel's descriptor stands. -/
abbrev Chosen := Nat × Nat × Word64

/-- ARCHVER's triple as a number (R70). -/
def State.versionNow (s : State) : Nat := 2 * 65536 + 256 * s.archMinor.toNat

/-- The loader's part of a launch from a partition: it chooses the image of the kernel's container and loads it where it does not stand yet (a
loaded image is never written again); none where the launch is refused with cause 0x02 (R96, R99, R100). DESIGN CHOICE (log 104): an image is loaded
once, through the S1ROOT of the first launch, be that the service job's, whose launches and the partition's own share one list of containers. -/
def State.loadFor (s0 : State) (j : Job) (part : Nat) : State × Option Chosen :=
  match s0.part? part with
  | none => (s0, none)
  | some p =>
    let s := s0.withContainer p j.kernelVa
    match s.containers.find? (fun c => c.part == p.id && (c.kernelAt j.kernelVa).isSome) with
    | none => (s, none)
    | some c =>
      match c.kernelAt j.kernelVa, chooseImage c.bytes (s.features p.id) s.versionNow with
      | some k, some i =>
        match c.descAt i k with
        | none => (s, none)
        | some d =>
          if loadBad c.bytes i.image then (s, none)
          else if c.loaded.contains i.image then (s, some (c.id, i.image, d))
          else
            let s1 := s.loadImage j c i.image
            ({ s1 with containers := s1.containers.map (fun x => if x.id = c.id then { x with loaded := x.loaded ++ [i.image] } else x) },
              some (c.id, i.image, d))
      | _, _ => (s, none)

/-- A request to unload a container may come at any launch of it, and waits (R100, log 85). -/
def State.askUnload (s : State) (id : Nat) : State :=
  { s with containers := s.containers.map (fun c =>
      if c.id = id then { c with unload := c.unload || Config.freeNat s.fresh 1998 % 2 == 1 } else c) }

/-- A container that is to go goes with the last job of its images (R100). -/
def State.unloadIdle (s : State) : State :=
  { s with containers := s.containers.filter (fun c => !c.unload || s.inUse c) }

/-- The load address of a data symbol of a job's image: the image's data section, and the symbol's place in it, which the record or
template names in its base field (R90, R181, log 86). -/
def State.symbolAddr (s : State) (ch : Option Chosen) (sym : Word64) : Word64 :=
  match ch with
  | none => Config.symbolOffset 0 0 sym
  | some (id, img, _) =>
    match s.containers.find? (fun c => c.id == id) with
    | none => Config.symbolOffset id img sym
    | some c =>
      (match (loadable c.bytes img).find? (fun x => x.kind == 5) with | some x => c.place x.idx | none => 0)
        + Config.symbolOffset id img sym

end Sys2Proof.Machine
end

