-- ==== Sys2Proof/Machine/Tables.lean ====
section
/-! DEFINITION. Writing translation tables: the trees that MAP, UNMAP and the launch of a pool change (R158, R159, R210, R263). -/

namespace Sys2Proof.Machine

open Sys2Proof

/-- Stores a word of Bilgil's at a place in device memory. -/
def State.putWord (s : State) (p : Phys) (v : Word64) : State :=
  match regionOf p.pa with | .device => s.storeDevice p 8 v.toNat | _ => s

/-- The 64 KiB pages that a range of addresses touches. -/
def pagesOf (va : Word64) (n : Nat) : List Nat :=
  let lo := va.toNat / 65536
  if n = 0 then [] else (List.range ((va.toNat + n - 1) / 65536 + 1 - lo)).map (fun i => (lo + i) * 65536)

/-- A table entry that names a table at an address. -/
def tableEnt (a : Nat) : Word64 := BitVec.ofNat 64 (a / 256 % 2 ^ 36 * 256 + 3)

/-- Clears a fresh table. -/
def State.clearTable (s : State) (p : Phys) (n : Nat) : State :=
  (List.range n).foldl (fun acc i => acc.putWord { p with pa := p.pa + 8 * i } 0) s

/-- A tree of tables that MAP changes: a job's, reached through stage 2 of its partition, or a partition's own stage 2 for a caller
outside any job (R158, log 37). -/
structure Tree where
  job : Option Nat
  part : Nat
  root : Nat
  deriving DecidableEq, Repr

/-- The place of a table's address. -/
def State.treePlace (s : State) (t : Tree) (a : Nat) : Option Phys :=
  match t.job with
  | none => some { pa := a, key := none }
  | some _ => (match s.stage2 t.part a with | .ok (pa, b) => some { pa := pa, key := leafKey b } | .error _ => none)

/-- The levels of a tree. -/
def Tree.levels (t : Tree) : List Nat := if t.job.isSome then [0, 1, 2, 3, 4] else [1, 2, 3, 4]

/-- Whether a torn context's page under quarantine lies in a range of addresses (R273). -/
def State.tornAt (s : State) (pa n : Nat) : Bool :=
  s.contexts.any (fun x => x.tearing && x.pages.any (fun p => decide (p < pa + n ∧ pa < p + 65536)))

/-- The L4 entry of a page, its tables created on the way where `make` says so, at free addresses that are not under
quarantine (R273): the state and the entry's place. None under a larger leaf, or where a table is missing. -/
def State.pageEntry (s : State) (make : Bool) (t : Tree) (va : Nat) : List Nat → Nat → State × Option Phys
  | [], _ => (s, none)
  | l :: ls, tab =>
    match s.treePlace t (tab + 8 * (va / 2 ^ levelShift l % levelEntries t.job.isNone l)) with
    | none => (s, none)
    | some p =>
      if ls.isEmpty then (s, some p)
      else
        match s.tableEntry p with
        | .error _ => (s, none)
        | .ok e =>
          match entOf t.job.isNone l e with
          | .table a => s.pageEntry make t va ls a
          | .absent =>
            if make then
              let a := nextTableAlign l * (Config.freeNat s.fresh (p.pa + 1) % (2 ^ 44 / nextTableAlign l))
              match s.treePlace t a with
              | none => (s, none)
              | some q =>
                if s.tornAt q.pa (nextTableAlign l) then (s, none)
                else ((s.clearTable q (nextTableAlign l / 8)).putWord p (tableEnt a)).pageEntry make t va ls a
            else (s, none)
          | _ => (s, none)

/-- Whether the frame that a page of a tree would have is under quarantine (R273). -/
def State.frameQuarantined (s : State) (t : Tree) (a : Nat) : Bool :=
  match s.treePlace t a with
  | none => false
  | some p => s.tornAt (p.pa / 65536 * 65536) 65536

/-- Maps one page to a free page with given leaf bits; none where it cannot be, or where that page is quarantined (R273). -/
def State.mapPage (s : State) (t : Tree) (bits : Word64) (va : Nat) : Option State :=
  let a := 65536 * (Config.freeNat s.fresh va % 2 ^ 28)
  match s.pageEntry true t va t.levels t.root with
  | (_, none) => none
  | (s1, some p) =>
    if s.frameQuarantined t a then none
    else some (s1.putWord p (BitVec.ofNat 64 a ||| bits ||| 1))

/-- Maps pages until one cannot be. -/
def State.mapPages (s : State) (t : Tree) (bits : Word64) : List Nat → Option State
  | [] => some s
  | va :: vs => match s.mapPage t bits va with | none => none | some s1 => s1.mapPages t bits vs

/-- The tree of a job. -/
def Job.tree (j : Job) : Tree := { job := some j.ref.id, part := j.ref.part, root := j.s1root % 2 ^ 44 }

/-- Leaf bits W and K: a page that kernel mode alone may read and write (R159, R210). -/
def kernelLeaf : Word64 := 0b10100

end Sys2Proof.Machine
end

