-- ==== Sys2Proof/Machine/Launch.lean ====
section
/-! DEFINITION. Meridian: launches and their checks, the split among dies, completion signals, the park rule, lost dies and
the stopping of job graphs (R13, R30, R31, R35 to R38, R154, R210, R220 to R227, R253, R258). -/

namespace Sys2Proof.Machine

open Sys2Proof

/-! ## Answers of calls whose result Meridian gives (R221, R263) -/

/-- The offset in the queue's slots of lane `i`'s reply to a record. -/
def replyAt (seq : BitVec 32) (i : Nat) : Nat := 4096 * (seq.toNat % 2048) + 2048 + 16 * i

/-- The call id of a batch record: WAVEID and CALLSEQ (R260, R262). -/
def SqRec.callId (r : SqRec) : BitVec 32 × BitVec 32 := (r.head.extractLsb' 320 32, r.head.extractLsb' 352 32)

/-- Answers the caller of a mailbox or of an ECALL (R263, R265). -/
def State.giveResult (s : State) (c : CallSrc) (status : Byte) (v : Word64) : State :=
  match c with
  | .svc _ _ => s
  | .ecall _ _ _ => { s with results := s.results ++ [(c, status, v)] }
  | .mailbox p =>
    { s.modPart p.toNat (fun x =>
        { x with mailbox := { x.mailbox with
            resp := (v.setWidth 512 <<< 64) ||| ((x.mailbox.bell.setWidth 32 ++ 0#24 ++ status).setWidth 512), done := x.mailbox.bell } })
      with results := s.results ++ [(c, status, v)] }

/-- Gives a call its result and status once they are known: in the replies of its open records, those that were answered from the completion
record with status REPLAYED still, and in the call's completion record (R262). -/
def State.giveLate (s : State) (c : Caller) (status : Byte) (v : Nat) : State :=
  match c.callId with
  | none => s.giveResult c.src status (BitVec.ofNat 64 v)
  | some (j, cid) =>
    let put (m : Sparse 8) (o : Nat) : Sparse 8 := (m.setBytes o 8 v).set (o + 8) status
    let s1 := s.modJob j (fun x => { x with completion := x.completion.map (fun e =>
      if (e.1, e.2.1) = cid then (e.1, e.2.1, put e.2.2 (16 * c.lane)) else e) })
    let answer (m : Sparse 8) (r : SqRec) : Sparse 8 :=
      let o := replyAt r.seq c.lane
      (m.setBytes o 8 v).set (o + 8) (if r.replayed then 4 else status)
    { s1 with dies := s1.dies.map (fun (d : Die) =>
        let mine := d.sq.opened.filter (fun r => r.batch && r.caller.wave.wg.job == j && r.callId == cid)
        { d with sq := { d.sq with bytes := mine.foldl answer d.sq.bytes } }) }

/-- The monitor's answer: status and sequence in RESP, then DONESEQ (R255). -/
def State.respond (s : State) (status : Byte) : State :=
  { s with monitor := { s.monitor with
      resp := ((s.monitor.bell.setWidth 32 ++ 0#24 ++ status).setWidth 512), done := s.monitor.bell } }

/-! ## The checks of R223 -/

/-- Bits that a launch record must hold at zero (R222). -/
def recordReserved : List (Nat × Nat) :=
  [(992, 1056), (960, 10), (812, 20), (792, 8), (781, 3), (668, 4), (643, 5), (155, 37)]

/-- Cause 0x01 of the record itself: reserved fields, ranges, alignments (R222). -/
def recordBad (r : BitVec 2048) : Bool :=
  let f (lo n : Nat) : Nat := (r.extractLsb' lo n).toNat
  recordReserved.any (fun x => f x.1 x.2 != 0)
    || decide (f 128 27 = 0 ∨ 256 < f 983 9 ∨ 4096 < f 970 13 ∨ 128 < f 648 8 ∨ 1 < f 657 2)
    || decide (f 64 64 % 8 ≠ 0 ∨ f 192 64 % 16 ≠ 0 ∨ f 256 64 % 32 ≠ 0 ∨ f 448 64 % 64 ≠ 0 ∨ f 896 64 % 64 ≠ 0 ∨ f 832 64 % 32 ≠ 0)
    || decide (f 320 12 ≠ 0 ∨ f 364 20 ≠ 0)
    || (!r.getLsbD 780 && f 768 12 != 0)

/-- A role record that is malformed: its entries stand in the kernel's sections, at offset 0 where the kernel has no lane section
(R17, R95, log 19). -/
def roleBad (scalarSize laneSize : Nat) (x : BitVec 192) : Bool :=
  decide (scalarSize ≤ (roleSpc x).toNat ∨ (laneSize ≤ (roleLpc x).toNat ∧ 0 < laneSize + (roleLpc x).toNat) ∨ (roleSpc x).toNat % 4 ≠ 0 ∨ (roleLpc x).toNat % 12 ≠ 0 ∨ roleWaves x = 0 ∨ 32 < roleWaves x ∨ 8 < roleTiles x
    ∨ roleVregs x = 0 ∨ 256 < roleVregs x ∨ roleSregs x = 0 ∨ 64 < roleSregs x ∨ 3 < rolePrio x)
    || x.extractLsb' 113 79 != 0

/-- Cause 0x01 of the kernel descriptor (R95); its SCALAR address is a multiple of 4 as every SPC is (R40, log 60). -/
def Job.descBad (j : Job) : Bool :=
  let f (lo n : Nat) : Nat := (j.kdesc.extractLsb' lo n).toNat
  [16, 32, 64].all (· != j.width) || decide (j.nroles = 0 ∨ 4 < j.nroles)
    || decide (f 273 15 ≠ 0 ∨ f 1056 32 ≠ 0 ∨ f 1856 192 ≠ 0)
    || decide (524288 < j.scratchSize ∨ j.scratchSize % 128 ≠ 0 ∨ j.scalarBase.toNat % 4 ≠ 0 ∨ j.laneBase.toNat % 48 ≠ 0 ∨ j.laneSize % 12 ≠ 0)
    || decide (16384 < j.nconst ∨ 4096 < f 608 32 ∨ 256 < f 768 32 ∨ 4096 < j.nregion ∨ 64 < f 1024 32)
    || (List.range 4).any (fun k => if k < j.nroles then roleBad j.scalarSize j.laneSize (j.role k) else j.role k != 0)
    || decide (32 < j.nwaves)

/-- Cause 0x03: one workgroup does not fit on a core (R18, R138). -/
def Job.tooBig (j : Job) : Bool := !coreHolds [j] || decide (32 < j.nwaves)

/-- A member list in strictly ascending order, each member within the job (R31). -/
def membersOk (nwg waves : Nat) : List (BitVec 32) → Bool
  | [] => true
  | [w] => decide (w.toNat / 32 < nwg ∧ w.toNat % 32 < waves)
  | w :: v :: ws => decide (w.toNat / 32 < nwg ∧ w.toNat % 32 < waves ∧ w.toNat < v.toNat) && membersOk nwg waves (v :: ws)

/-- Reads one constellation entry; none where it is malformed (R30, R31). An unused entry gives no barrier,
and its LIST is read by nothing (log 95). -/
def State.readCon (s : State) (j : Job) (tab : Word64) (k : Nat) : Option (List Barrier) :=
  match s.readVaNat j.who (tab + BitVec.ofNat 64 (16 * k)) 16 with
  | none => none
  | some v =>
    let e := BitVec.ofNat 128 v
    let n := (e.extractLsb' 0 32).toNat
    let lst := (e.extractLsb' 64 57).setWidth 64
    if e.extractLsb' 121 7 ≠ 0 ∨ e.extractLsb' 32 32 ≠ 0 then none
    else if n = 0 then some []
    else if lst.toNat % 4 ≠ 0 ∨ 32 * j.nwg < n then none
    else
      match (List.range n).mapM (fun i => (s.readVaNat j.who (lst + BitVec.ofNat 64 (4 * i)) 4).map (BitVec.ofNat 32)) with
      | none => none
      | some ws =>
        if membersOk j.nwg j.nwaves ws then
          some [{ k := BitVec.ofNat 8 k, members := ws, phase := 0, arrived := 0, expect := n, pending := 0, broken := false }]
        else none

/-- The barriers of a constellation table; none where the launch is refused (R31, R188). -/
def State.readCons (s : State) (j : Job) (tab : Word64) : Option (List Barrier) :=
  if tab = 0 then some []
  else
    match (List.range 256).mapM (fun k => s.readCon j tab k) with
    | none => none
    | some bs =>
      let all := bs.flatten
      if all.any (fun b => b.members.any (fun w => decide (4 < (all.filter (fun c => c.members.contains w)).length))) then none
      else some all

/-- A stash-window descriptor that is malformed (R154). -/
def windowBad (j : Job) (d : BitVec 256) : Bool :=
  let base := (d.extractLsb' 192 64).toNat
  let stride := (d.extractLsb' 128 64).toNat
  let size := (d.extractLsb' 96 32).toNat
  let off := (d.extractLsb' 64 19).toNat
  decide (d.extractLsb' 83 13 ≠ 0 ∨ d.extractLsb' 1 63 ≠ 0 ∨ base % 128 ≠ 0 ∨ stride % 128 ≠ 0 ∨ size < 128 ∨ 524288 < size
      ∨ size % 128 ≠ 0 ∨ off % 128 ≠ 0 ∨ j.scratchSize < off + size)
    || (List.range j.nwg).any (fun g => decide (2 ^ 57 < (base + g * stride) % 2 ^ 64 + size))

/-- The stash-window table; none where the launch is refused (R154). One whose address does not translate refuses it too, with cause 0x05, of which
the spec says nothing (log 115). -/
def State.readStash (s : State) (j : Job) (tab : Word64) : Option (List (BitVec 256)) :=
  if tab = 0 then some []
  else
    match (List.range 8).mapM (fun k => (s.readVaNat j.who (tab + BitVec.ofNat 64 (32 * k)) 32).map (BitVec.ofNat 256)) with
    | none => none
    | some ds =>
      let valid := ds.filter (fun d => d.getLsbD 0)
      let lo (d : BitVec 256) : Nat := (d.extractLsb' 64 19).toNat
      let hi (d : BitVec 256) : Nat := lo d + (d.extractLsb' 96 32).toNat
      let overlap := valid.zipIdx.any (fun x => valid.zipIdx.any (fun y => decide (x.2 < y.2 ∧ lo x.1 < hi y.1 ∧ lo y.1 < hi x.1)))
      if valid.any (windowBad j) || overlap then none else some ds

/-- Stores a word for a job, where the address translates for a store of the job. -/
def State.storeWord (s : State) (j : Job) (va v : Word64) : State :=
  match s.translate j.who va .write with
  | .ok p => s.storePlain { job := j.ref, wg := 0 } (.phys p) 8 v.toNat
  | .error _ => s

/-- Creates a kernel's pools, writing each handle to its argument word; none where one cannot be created: the launch is
refused, and the pools made so far are destroyed by the caller (R210). Each spill region is mapped for kernel mode alone; where
Bilgil puts it, and whether it can, is free (log 21). -/
def State.makePools (s : State) (j : Job) (tab : Word64) : List Nat → Except State State
  | [] => .ok s
  | k :: ks =>
    match s.readVaNat j.who (tab + BitVec.ofNat 64 (64 * k)) 64 with
    | none => .error s
    | some v =>
      let d := BitVec.ofNat 512 v
      let spill := poolSpillSize d
      let base : Word64 := if spill = 0 then 0 else BitVec.ofNat 64 (65536 * (Config.freeNat s.fresh k % 2 ^ 41))
      let d1 : BitVec 512 := base ++ d.extractLsb' 48 400 ++ BitVec.ofNat 16 j.ref.id ++ d.extractLsb' 4 28 ++ BitVec.ofNat 4 j.ref.part
      if poolBad d1 || (spill != 0 && Config.freeNat s.fresh (100 + k) % 2 == 1) then .error s
      else
        match (s.mapPages j.tree kernelLeaf (pagesOf base spill)).bind (fun t => t.createPool d1) with
        | none => .error s
        | some (h, s1) => (s1.storeWord j (j.args + 8 * (d.extractLsb' 288 8).setWidth 64) h).makePools j tab ks

/-- Destroys a job's pools (R210). -/
def State.dropPools (s : State) (j : JobRef) : State :=
  { s with pools := s.pools.map (fun p => if p.live && p.job == j then p.destroyed else p) }

/-! ## The split (R227) -/

/-- The job cores of a job's partition on a die, gated or not: no power state changes a result (R14, R279). -/
def State.coresOn (s : State) (part die : Nat) : Nat := ((List.range 64).filter (fun c => s.ownsCore part die c)).length

/-- F: the cores of each die that can hold one more workgroup, or all job cores where none can. -/
def State.splitWeights (s : State) (j : Job) : List Nat :=
  let f := (List.range 4).map (fun d => ((List.range 64).filter (fun c => s.fits j j.nwaves d c)).length)
  if f.all (· == 0) then (List.range 4).map (fun d => s.coresOn j.ref.part d) else f

/-- Gives the remainder one by one to the dies with a weight, in ascending order. -/
def giveRest : List (Nat × Nat) → Nat → List Nat
  | [], _ => []
  | (f, n) :: ds, rem => if 0 < rem ∧ 0 < f then (n + 1) :: giveRest ds (rem - 1) else n :: giveRest ds rem

/-- The workgroups of each die (R227). With no job core anywhere, every workgroup waits in die 0's sub-range. -/
def splitCounts (nwg : Nat) (f : List Nat) : List Nat :=
  let total := f.sum
  if total = 0 then [nwg, 0, 0, 0]
  else
    let n := f.map (fun x => nwg * x / total)
    giveRest (f.zip n) (nwg - n.sum)

/-- Consecutive sub-ranges of given lengths. -/
def rangesOf : Nat → Nat → List Nat → List (Nat × Nat × Nat)
  | _, _, [] => []
  | d, lo, n :: ns => (if n = 0 then [] else [(d, lo, lo + n)]) ++ rangesOf (d + 1) (lo + n) ns

/-- The affinity die of a physical address (R11); the spec names none for an aperture (log 84). -/
def affinityDie (pa : Nat) : Option Nat :=
  if pa < 0x08000000000 then some (pa / 2 ^ 18 % 4)
  else if 0x10000000000 ≤ pa ∧ pa < 0x20000000000 then some (pa / 2 ^ 15 % 4)
  else none

/-- The sub-ranges under PLACE = 1, one for each workgroup; none where a placement address refuses the launch (R227). -/
def State.placeRanges (s : State) (j : Job) : Option (List (Nat × Nat × Nat)) :=
  let arg := j.record.extractLsb' 660 8
  match s.readVaNat j.who (j.args + 8 * arg.setWidth 64) 8 with
  | none => none
  | some base =>
    (List.range j.nwg).mapM (fun g =>
      match s.translate j.who (BitVec.ofNat 64 base + BitVec.ofNat 64 g * j.record.extractLsb' 704 64) .read with
      | .error _ => none
      | .ok p =>
        match affinityDie p.pa with
        | none => none
        | some d => if 0 < s.coresOn j.ref.part d then some (d, g, g + 1) else none)

/-! ## LAUNCH_START (R221 to R226) -/

/-- The JOBID that a partition's next launch takes (R221). -/
def State.nextJobid (s : State) (part : Nat) : Option Nat :=
  let from' := match (s.part? part).bind (fun p => p.lastJob) with | some n => n + 1 | none => 0
  ((List.range 65536).find? (fun i => s.jobs.all (fun j => !(j.ref.part == part && j.ref.id == (from' + i) % 65536)))).map
    (fun i => (from' + i) % 65536)

/-- Whether a record launches the service job: SERVICE = 1 from the privileged queue (R258). -/
def Queued.service (q : Queued) (privileged : Bool) : Bool := privileged && q.record.getLsbD 659

/-- A job as Meridian starts it. -/
def Queued.job (q : Queued) (id order : Nat) (service : Bool := false) : Job :=
  { ref := { part := if service then 16 else q.part, id := id }, order := order, state := .running, record := q.record
    kdesc := 0, recs := [], tmpls := [], consts := [], traps := q.traps, barriers := [], stash := [], ranges := [], line := []
    reported := [], retired := 0, gone := false, status := 0, denied := [], noEvict := false, lastWake := 0, homes := [], lastDispatch := [], dumps := []
    features := 0xDF, image := none, freezes := [], log := { mode := 0, area := 0, bytes := 0, next := 0, full := false }, completion := [] }

/-- Reads `n` entries of a table of a job; entries that do not translate are left out (log 19). -/
def State.readTable {w : Nat} (s : State) (j : Job) (va : Word64) (size n : Nat) : List (BitVec w) :=
  (List.range n).filterMap (fun i => (s.readVaNat j.who (va + BitVec.ofNat 64 (size * i)) size).map (BitVec.ofNat w))

/-- The job with its kernel descriptor, copies and constants as read (R95, R222, R264); a constant word that does not translate is 0
(log 19). -/
def State.readJob (s : State) (q : Queued) (j : Job) (kdesc : BitVec 2048) : Job :=
  let k := { j with kdesc := kdesc }
  let copies := match q.copies with
    | some c => c
    | none => (s.readTable k (q.record.extractLsb' 832 64) 32 (q.record.extractLsb' 970 13).toNat,
               s.readTable k (q.record.extractLsb' 896 64) 64 (q.record.extractLsb' 983 9).toNat)
  { k with recs := copies.1, tmpls := copies.2
           consts := (List.range k.nconst).map (fun i => BitVec.ofNat 64 ((s.readVaNat k.who (k.constBase + BitVec.ofNat 64 (8 * i)) 8).getD 0)) }

/-- What the checks answer: a refusal with its cause, or the job ready to run, each with the state they leave. -/
abbrev Checked := State × (Nat ⊕ Job)

/-- Cause 0x07: PLACE or SERVICE where they are not accepted, or a placement address (R223, R227, R258). -/
def State.place (s : State) (j : Job) (privileged : Bool) : Option (List (Nat × Nat × Nat)) :=
  let service := j.record.getLsbD 659
  if (j.placeMode = 1 || service) && !privileged then none
  else if service then
    (if j.serviceKernel && j.nwg == 4 && j.placeMode == 0 && s.jobs.all (fun x => x.ref.part != 16)
      then some [(0, 0, 1), (1, 1, 2), (2, 2, 3), (3, 3, 4)] else none)
  else if j.placeMode = 1 then s.placeRanges j
  else some (rangesOf 0 0 (splitCounts j.nwg (s.splitWeights j)))

/-- The checks after the kernel descriptor, in the order of R223's table. -/
def State.checkJob (s : State) (q : Queued) (j : Job) (privileged : Bool) : Checked :=
  if j.descBad then (s, .inl 0x01)
  else if j.tooBig then (s, .inl 0x03)
  else
    match s.readCons j (j.record.extractLsb' 192 64) with
    | none => (s, .inl 0x04)
    | some bs =>
      match s.readStash j (j.record.extractLsb' 256 64) with
      | none => (s, .inl 0x05)
      | some st =>
        match s.makePools j (j.kdesc.extractLsb' 960 64) (List.range (j.kdesc.extractLsb' 1024 32).toNat) with
        | .error s1 => (s1.dropPools j.ref, .inl 0x06)
        | .ok s1 =>
          match s1.place j privileged with
          | none => (s1.dropPools j.ref, .inl 0x07)
          | some rs =>
            if j.record.getLsbD 780 && !q.armed && !privileged then (s1.dropPools j.ref, .inl 0x08)
            else (s1, .inr { j with barriers := bs, stash := st, ranges := rs, homes := rs })

/-- What the loader has chosen for a record, at its LAUNCH where that image still stands there, or now (R100); the service job's sections stand at
its own addresses (R258). -/
def State.chosen (s : State) (q : Queued) (j : Job) : State × Option Chosen :=
  match q.kernel with
  | some k => (s, if s.containers.any (fun c => c.id == k.1 && c.loaded.contains k.2.1) then some k else none)
  | none => s.loadFor j q.part

/-- The checks of R223; a record's address is a multiple of 256 (R222). -/
def State.check (s : State) (q : Queued) (j : Job) (privileged : Bool) : Checked :=
  if recordBad q.record || q.addr.toNat % 256 != 0 then (s, .inl 0x01)
  else
    match s.chosen q j with
    | (s1, none) => (s1, .inl 0x02)
    | (s1, some (id, img, d)) =>
      match s1.readVaNat j.who d 256 with
      | none => (s1, .inl 0x02)
      | some v => (s1.askUnload id).checkJob q { s1.readJob q j (BitVec.ofNat 2048 v) with image := some (id, img) } privileged

/-- A refused launch's signal (R224). -/
def refusedSignal (cause : Nat) : Word64 := BitVec.ofNat 64 (3 * 2 ^ 62 + 65536 * cause)

/-- Starts a launch that has its JOBID (R226). -/
def State.start (s : State) (q : Queued) (id : Nat) (privileged : Bool) : State :=
  let j := { q.job id s.serial (q.service privileged) with features := s.features (if q.service privileged then 16 else q.part) }
  let s0 : State := { s with serial := s.serial + 1, tlb := s.tlb.filter (fun e => e.job != j.ref) }
  let s1 := match q.caller with | some c => s0.giveLate c 0 id | none => s0
  let signal := j.signalVa
  match (if signal.toNat % 8 = 0 then s1.translate j.who signal .write else .error { cause := 0, ipa := 0 }) with
  | .error _ => { s1 with reports := s1.reports ++ [.dropped q.addr] }
  | .ok _ =>
    match s1.check q j privileged with
    | (s2, .inl cause) => s2.storeWord j signal (refusedSignal cause)
    | (s2, .inr k) => { s2 with jobs := s2.jobs ++ [k] }

/-- Gives a partition's next JOBID to a launch and starts it; with none free the launch waits (R221). -/
def State.startNext (s : State) (q : Queued) (privileged : Bool) (popped : State) : State :=
  if q.service privileged then popped.start q 0 privileged
  else
    match s.nextJobid q.part with
    | none => s
    | some id => (popped.modPart q.part (fun p => { p with lastJob := some id })).start q id privileged

/-- A number of `n` bytes of device memory, as Bilgil and the hub read it. -/
def State.ownNat (s : State) (pa n : Nat) : Nat := s.deviceNat { pa := pa, key := none } 0 n

/-- Whether two records agree in a field. -/
def sameField (r q : BitVec 2048) (lo n : Nat) : Bool := r.extractLsb' lo n == q.extractLsb' lo n

/-- A pre-armed record as it stands in memory when the launch leaves the queue (R222, R267): the kernel and the copies that ARMLAUNCH found are
those of its fields as long as these are the same. -/
def State.reread (s : State) (q : Queued) : Queued :=
  if q.armed then
    let r := BitVec.ofNat 2048 (s.ownNat q.addr.toNat 256)
    { q with record := r, kernel := if sameField r q.record 0 64 then q.kernel else none
             copies := if sameField r q.record 832 128 && sameField r q.record 970 22 then q.copies else none
             traps := (List.range 16).map (fun i => BitVec.ofNat 64 (s.ownNat (q.addr.toNat + 256 + 8 * i) 8)) }
  else q

/-- LAUNCH_START: the head of a partition's queue (0 to 15), or of its privileged queue (16 on). In a privileged queue a record of
Bilgil's own or of a controller may stand, whose content is free (R221, R258, log 21). A partition in reset starts nothing
(R271). -/
def execLaunchStart (queue : BitVec 5) (s : State) : Out :=
  .next (
    match s.part? (queue.toNat % 16) with
    | none => s
    | some p =>
      if p.resetting then s
      else if queue.toNat < 16 then
        match p.queue with
        | [] => s
        | q :: qs => s.startNext q false (s.modPart p.id (fun x => { x with queue := qs }))
      else
        match s.privQueue.find? (fun q => q.part == p.id) with
        | some q => s.startNext (s.reread q) (!q.armed) { s with privQueue := s.privQueue.erase q }
        | none =>
          let q : Queued := { part := p.id, addr := 0, record := Config.freeRecord s.fresh, traps := Config.freeTraps s.fresh
                              armed := false, copies := none, caller := none }
          s.startNext q true s)

/-! ## The end of a job (R224 to R226) -/

/-- Whether a die holds workgroups of a job. -/
def State.holds (s : State) (j : JobRef) (die : Nat) : Bool := s.wgs.any (fun g => g.ref.job == j && g.die == die)

/-- Whether a job has work left outside its workgroups on cores. -/
def State.hasWaiting (s : State) (j : Job) : Bool :=
  j.ranges.any (fun r => decide (r.2.1 < r.2.2)) || s.wgs.any (fun g => g.ref.job == j.ref && g.die == 4)

/-- The dies that are not lost. -/
def State.liveDies (s : State) : List Nat := (s.dies.filter (fun d => !d.lost)).map (fun d => d.id)

/-- Records a die's report; with the last one the job signals (R226). -/
def State.report (s : State) (j : Job) (d : Nat) : State :=
  let got := j.reported.filter (· != d) ++ [d]
  s.modJob j.ref (fun x =>
    { x with reported := got, state := if s.liveDies.all (fun i => got.contains i) then .signalling else x.state
             status := if x.state = .aborting then 5 else x.status })

/-- DIE_REPORT: a die's last workgroup of a job has retired, or the die has discarded what it held of an aborted job
(R226). -/
def execDieReport (j : JobRef) (d : BitVec 2) (s : State) : Out :=
  .next (
    match s.job? j with
    | none => s
    | some x =>
      if x.reported.contains d.toNat then s
      else if x.state = .running ∧ !s.holds j d.toNat ∧ !s.hasWaiting x then s.report x d.toNat
      else if x.state = .aborting then
        let s1 := (s.wgs.filter (fun g => g.ref.job == j && (g.die == d.toNat || g.die == 4))).foldl (fun acc g => acc.discardWg g x) s
        match s1.job? j with | some y => s1.report y d.toNat | none => s1
      else s)

/-- The completion signal of a job that ran (R224). -/
def Job.signal (j : Job) : Word64 := 1#1 ++ 0#54 ++ BitVec.ofBool j.gone ++ j.status

/-- COMPLETION_SIGNAL: the release store, the JOBID freed, the job's pools destroyed, and the notification; a container that was to be unloaded goes with its last job (R100, R210, R225). -/
def execCompletionSignal (j : JobRef) (s : State) : Out :=
  .next (
    match s.job? j with
    | none => s
    | some x =>
      if x.state = .signalling then
        let s1 := s.storeWord x x.signalVa x.signal
        let s2 := (({ s1 with jobs := s1.jobs.filter (fun y => y.ref != j) } : State).dropPools j).unloadIdle
        if x.notify then { s2 with reports := s2.reports ++ [.msix j.part x.notifyVec] } else s2
      else s)

/-! ## The park rule (R36, R37) -/

/-- Whether every resident wave of a job has been parked for longer than LIMIT since the last wake of one of them (R35, R36). The
fragments of a denied workgroup that have parked again count from before (R37). -/
def State.parkedOut (s : State) (j : Job) (limit : Nat) : Bool :=
  let fs := s.frags.filter (fun f => f.ref.wave.wg.job == j.ref
    && (match s.wg? f.ref.wave.wg with | some g => decide (g.die < 4) | none => false))
  !fs.isEmpty && fs.all (fun f =>
    match f.slot with | .parked _ => decide (max f.parkedAt j.lastWake + limit < s.cycle) | _ => false)

/-- The workgroup next in line (R36). -/
def State.nextInLine (s : State) (j : Job) : Option Nat :=
  match j.lowest with | some n => some n | none => j.line.find? (fun n => s.lineReady j n)

/-- The die on which the park rule makes room: the lowest that holds resident workgroups; under PLACE = 1 that of the
workgroup next in line (R36, R227). -/
def State.evictDie (s : State) (j : Job) (next : Nat) : Option Nat :=
  match (if j.placeMode = 1 then j.home next else none) with
  | some d => if s.holds j.ref d then some d else none
  | none => (List.range 4).find? (fun d => s.holds j.ref d)

/-- The resident workgroups of a die that may be evicted, in descending order (R36, R37). -/
def State.evictable (s : State) (j : Job) (d : Nat) : List Nat :=
  let ns := (s.wgs.filter (fun g => g.ref.job == j.ref && g.die == d && g.state == .running && !j.denied.contains g.ref.wg)).map
    (fun g => g.ref.wg)
  ns.mergeSort (fun a b => decide (b ≤ a))

/-- PARK_LIMIT_EXPIRY: one resident workgroup is evicted, where the next in line fits nowhere on the die and no eviction is
under way; once every resident one of the die has been denied, the rule stops until a wave wakes (R36, R37). A frozen workgroup
suspends it (R254). -/
def execParkLimitExpiry (j : JobRef) (s : State) : Out :=
  .next (
    match s.job? j, s.part? j.part with
    | some x, some p =>
      match s.nextInLine x with
      | none => s
      | some n =>
        let mine := s.wgs.filter (fun g => g.ref.job == j)
        if x.state ≠ .running ∨ x.noEvict ∨ mine.any (fun g => g.frozen)
            ∨ mine.any (fun g => g.kind == .eviction && (match g.state with | .saving _ => true | .fallback _ => true | _ => false))
            ∨ !s.parkedOut x p.parklimit.toNat then s
        else
          match s.evictDie x n with
          | none => s
          | some d =>
            if (s.pickCore x (s.slotsNeeded x n) d).isSome then s
            else
              match s.evictable x d with
              | g :: _ => s.request { job := j, wg := g } .eviction
              | [] =>
                if mine.any (fun g => g.die == d && !x.denied.contains g.ref.wg) then s
                else { s.modJob j (fun y => { y with noEvict := true }) with reports := s.reports ++ [.preemptDenied j] }
    | _, _ => s)

/-! ## Lost dies (R13, R220, R226) -/

/-- A pool without its shard on a die; with no shard left it is destroyed (R220). -/
def Pool.loseDie (p : Pool) (d : Nat) : Pool :=
  let rest := p.shards.filter (fun h => h.die != d)
  if rest.isEmpty ∧ p.live then { p with live := false, shards := [], dies := 0 }
  else { p with
    dies := p.dies &&& ~~~(1#4 <<< d)
    shards := rest.map (fun h => { h with summaries := h.summaries.filter (fun x => x.1 != d) }) }

/-- A job whose remaining dies have all reported has its last report, but for a running one with workgroups left in line (R226). Where no die is
left, what an aborted job has in line is discarded here. -/
def State.lastReport (s : State) (r : JobRef) : State :=
  match s.job? r with
  | none => s
  | some x =>
    let all := s.liveDies.all (fun i => x.reported.contains i)
    if x.state = .running ∧ !x.reported.isEmpty ∧ all ∧ !s.hasWaiting x then s.modJob r (fun y => { y with state := .signalling })
    else if x.state = .aborting ∧ all then
      ((s.wgs.filter (fun g => g.ref.job == r)).foldl (fun acc g => acc.discardWg g x) s).modJob r (fun y => { y with state := .signalling })
    else s

/-- Loses a die: jobs with waves on it abort, its workgroups are discarded, its pool shards go, the host is told;
a job that awaited only its report signals. DESIGN CHOICE (log 100): fired commands that a flushed workgroup still has on the die's engine land and
complete. -/
def State.loseDie (s : State) (d : Nat) : State :=
  let hit := s.jobs.filter (fun j => s.holds j.ref d)
  let s1 := hit.foldl (fun acc j =>
    let s2 := (acc.wgs.filter (fun g => g.ref.job == j.ref && g.die == d)).foldl (fun a g => a.discardWg g j) acc
    s2.modJob j.ref (fun x => { x with state := .aborting, reported := [], status := 5 })) s
  let s2 : State := { s1.modDie d (fun x => { x with lost := true }) with
    pools := s1.pools.map (fun p => p.loseDie d), reports := s1.reports ++ [.dieLost d] }
  (s2.jobs.map (fun j => j.ref)).foldl (fun acc r => acc.lastReport r) s2

/-- DIE_LOSS: all 16 modules of a die have failed (R13). -/
def execDieLoss (d : BitVec 2) (s : State) : Out :=
  .next (
    match s.die? d.toNat with
    | none => s
    | some x => if x.lost then s else (s.modDie d.toNat (fun y => { y with failed := BitVec.allOnes 16 })).loseDie d.toNat)

/-! ## Stopping a graph of jobs (R253) -/

/-- Jobs reachable from others along the edges, `n` steps deep. -/
def reach (edges : List (Nat × Nat)) : Nat → List Nat → List Nat
  | 0, xs => xs
  | n + 1, xs => reach edges n (xs ++ ((edges.filter (fun e => xs.contains e.1)).map (fun e => e.2)).filter (fun x => !xs.contains x))

/-- Whether a graph has a cycle among its jobs. -/
def graphCycle (jobs : List Nat) (edges : List (Nat × Nat)) : Bool :=
  jobs.any (fun j => (reach edges jobs.length ((edges.filter (fun e => e.1 == j)).map (fun e => e.2))).contains j)

/-- The jobs that a stop leaves alone: those reachable from a denied one. -/
def Stop.out (x : Stop) : List Nat := x.denied ++ reach x.edges x.jobs.length ((x.edges.filter (fun e => x.denied.contains e.1)).map (fun e => e.2))

/-- The job a stop takes next: the lowest JOBID all of whose producers in the graph have halted (R253). -/
def Stop.ready (x : Stop) : Option Nat :=
  (x.jobs.filter (fun j => !x.halted.contains j && !x.out.contains j
    && x.edges.all (fun e => e.2 != j || !x.jobs.contains e.1 || x.halted.contains e.1))).min?

/-- Whether a stop has come to its end. -/
def Stop.over (x : Stop) : Bool := x.ready.isNone

/-- Halted jobs run on (R253). -/
def State.resumeJobs (s : State) (part : Nat) (ids : List Nat) : State :=
  ids.foldl (fun acc i => acc.modJob { part := part, id := i } (fun j =>
    { j with state := match j.state with | .halting => .running | .halted => .running | y => y })) s

/-- The bytes of a frame as they stand. -/
def State.frameBytes (s : State) (j : Job) (n : Nat) : List Byte :=
  (List.range 0x4800).map (fun i => s.byteVa (s.frameWho j n) (s.frameBase j.ref.part n + BitVec.ofNat 64 i))

/-- The end of a checkpoint's stop: the area's memory takes what R256 names, unless a job was denied, and a checkpoint that holds its
jobs releases their frames (R239, log 17). -/
def State.takeCheckpoint (s : State) (x : Stop) (area : Word64) (hold : Bool) : State :=
  if !x.denied.isEmpty then s
  else
    let mine (r : JobRef) : Bool := r.part == x.part && x.jobs.contains r.id
    let gs := s.wgs.filter (fun g => mine g.ref.job)
    let fs := gs.flatMap (fun g => match s.job? g.ref.job with | some j => g.frames.map (fun n => (n, s.frameBytes j n)) | none => [])
    let c : Checkpoint :=
      { id := s.serial, area := area, part := x.part, jobs := s.jobs.filter (fun j => mine j.ref), wgs := gs
        waves := s.waves.filter (fun w => mine w.ref.wg.job), frags := s.frags.filter (fun f => mine f.ref.wave.wg.job)
        cmds := s.cmds.filter (fun c => mine c.wg.job), frames := fs
        dumps := gs.filterMap (fun g => match g.dumpSlot, s.job? g.ref.job with
          | some n, some j => some (g.ref, (List.range j.slotSize).map (fun i => s.dumpByte j n i))
          | _, _ => none)
        ranges := x.ranges.map (fun r => (r.1, (List.range r.2).map (fun i => s.deviceByte { pa := r.1, key := none } i))) }
    let s1 := s.writeBack area.toNat c.parts.flatten
    let s2 : State := { s1 with checkpoints := s1.checkpoints ++ [c], serial := s1.serial + 1 }
    if hold then gs.foldl (fun acc g => acc.giveAway g area) s2 else s2

/-- Ends a stop: a call is answered; a checkpoint is taken, and with HOLD = 0 its jobs run on. -/
def State.endStop (s : State) (x : Stop) : State :=
  let s1 : State := { s with stops := s.stops.filter (fun y => y != x) }
  let well := x.denied.isEmpty
  match x.area with
  | none => match x.caller with | some c => s1.giveLate c (if well then 0 else 5) 0 | none => s1
  | some (area, hold) =>
    let s2 := (s1.takeCheckpoint x area hold).respond (if well then 0 else 3)
    if hold && well then s2 else s2.resumeJobs x.part x.jobs

/-- One move of a stop: the job that is stopping has halted, or was denied, or the next one starts to stop (R253). -/
def State.moveStop (s : State) (x : Stop) : State :=
  let put (y : Stop) (t : State) : State := { t with stops := t.stops.map (fun z => if z = x then y else z) }
  match x.ready with
  | none => s.endStop x
  | some i =>
    let r : JobRef := { part := x.part, id := i }
    match s.job? r with
    | none => put { x with halted := x.halted ++ [i] } s
    | some j =>
      match j.state with
      | .running =>
        let gs := (s.wgs.filter (fun g => g.ref.job == r && decide (g.die < 4))).map (fun g => g.ref)
        gs.foldl (fun acc g => acc.request g (if x.area.isSome then .checkpoint else .stop)) (s.modJob r (fun y => { y with state := .halting }))
      | .halting =>
        if s.wgs.any (fun g => g.ref.job == r && decide (g.die < 4)) then s
        else put { x with halted := x.halted ++ [i] } (s.modJob r (fun y => { y with state := .halted }))
      | _ => put { x with halted := x.halted ++ [i] } s

/-- GRAPH_STOP_JOB: the first stop of a partition moves on; a job that was denied runs on (R253). -/
def execGraphStopJob (part : BitVec 4) (s : State) : Out :=
  .next (
    match s.stops.find? (fun x => x.part == part.toNat) with
    | none => s
    | some x => (s.resumeJobs x.part x.denied).moveStop x)

end Sys2Proof.Machine
end

