-- ==== Sys2Proof/Machine/Collective.lean ====
section
/-! DEFINITION. Collectives: the canonical tree over the ranks' contributions, the results of collective commands, and
groups that take part or end (R119, R120, R269). -/

namespace Sys2Proof.Machine

open Sys2Proof

/-! ## The combination (R119, R120) -/

/-- A contribution as the tree takes it: bf16 widened to f32, a NaN canonical (R102, R119). -/
def collLeaf (t : BitVec 5) (v : Nat) : Nat :=
  let x := if t = 0x0B then (convert 0x0B 0x0C .rne false false v).1 else v
  if tyIsFloat t && (fmtF32.decode false x).isNan then fmtF32.nan else x

/-- One pair of the tree: 0 sum, 1 min, 2 max; any NaN of a min or max gives the canonical NaN. -/
def collPair (t : BitVec 5) (cop : Nat) (a b : Nat) : Nat :=
  if tyIsFloat t then
    if cop = 0 then (fmtF32.add .rne false false a b).1
    else if (fmtF32.decode false a).isNan || (fmtF32.decode false b).isNan then fmtF32.nan
    else (fmtF32.minmax (cop == 2) false a b).1
  else
    let x := elemInt t (BitVec.ofNat 64 a)
    let y := elemInt t (BitVec.ofNat 64 b)
    (elemOf t (match cop with | 0 => x + y | 1 => min x y | _ => max x y)).toNat

/-- An element of the result from the element of ranks 0 to N − 1. -/
def collElement (t : BitVec 5) (cop : Nat) (vs : List Nat) : Nat :=
  let r := ((treeFold (collPair t cop) vs.length (vs.map (collLeaf t))).head?).getD 0
  if t = 0x0B then (convert 0x0C 0x0B .rne false false r).1 else r

/-- The result's bytes, element after element. -/
def collBytes (t : BitVec 5) (cop n : Nat) (ranks : List (List Byte)) : List Byte :=
  let k := tyBits t / 8
  (List.range (n / k)).flatMap (fun i =>
    leBytes (collElement t cop (ranks.map (fun bs => numAt (fun o => bs.getD o 0) (k * i) k))) k)

/-! ## Groups -/

/-- A group of a partition. -/
def State.group? (s : State) (part num : Nat) : Option Group :=
  match s.part? part with
  | none => none
  | some p => p.groups.find? (fun g => g.num == num)

/-- Whether every member has created the group (R269). -/
def Group.complete (g : Group) : Bool := (List.range g.n).all (fun r => r == g.rank || g.created.contains r)

/-- Whether a member has ended the group, or is unreachable on every plane (R268, R269). -/
def State.groupBroken (s : State) (g : Group) : Bool :=
  (List.range g.n).any (fun r => r != g.rank
    && (g.gone.contains r
        || !s.reaches ((g.member.getD r 0).extractLsb' 0 10)))

/-- Whether a command is a collective of a group that still waits for its result. -/
def Cmd.waitsOn (c : Cmd) (part num : Nat) : Bool :=
  c.isColl part num && c.result.isNone && c.error.isNone

/-- Ends a command with an error: its bytes leave its barrier (R185, R269). -/
def State.collError (s : State) (c : Cmd) (code sub : BitVec 8) : State :=
  (s.setCmd { c with error := some (code, sub), fault := none }).dropBytes c

/-- A group can take part no more: its commands that wait end with CODE 0x02, SUB 0x0A (R269). -/
def State.failGroup (s : State) (part num : Nat) (fired : Bool) : State :=
  (s.cmds.filter (fun c => c.waitsOn part num && (c.fired || !fired))).foldl (fun acc c => acc.collError c 0x02 0x0A) s

/-! ## The events -/

/-- Combines a command's collective from its own contribution and the others'. -/
def State.combineColl (s : State) (c : Cmd) (g : Group) (own : List Byte) (contribs : List (Nat × List Byte)) : State :=
  let n := tmplBytes c.tmpl
  let of' (r : Nat) : Option (List Byte) :=
    if r = g.rank then some own else (contribs.find? (fun x => x.1 == r)).map (fun x => x.2)
  match (List.range g.n).mapM of' with
  | none => s
  | some ranks =>
    if ranks.any (fun bs => bs.length != n) then s.collError c 0x04 0x33
    else s.setCmd { c with seen := [], result := some (Sparse.setList [] 0 (collBytes (tmplCtype c.tmpl) (tmplCop c.tmpl) n ranks)) }

/-- COLLECTIVE_RESULT: every rank's contribution to the `kth` collective of a group (counted from 0) has been read, this one's perhaps ahead
(R172); the others' come with the step, and one of another length stands for a command that disagrees in BYTES, COP or CTYPE. A
command that is not the group's `kth` takes no part (R269). -/
def execCollectiveResult (cmd : Nat) (contribs : Contribs) (s : State) : Out :=
  .next (
    match s.cmd? cmd with
    | none => s
    | some c =>
      match s.job? c.wg.job, s.wg? c.wg with
      | some j, some g =>
        if !(c.fired && c.nth == contribs.kth && c.waitsOn j.ref.part (tmplGroup c.tmpl) && c.fault.isNone && !c.squashed) then s
        else
          match s.group? j.ref.part (tmplGroup c.tmpl) with
          | none => s.collError c 0x02 0x0A
          | some x =>
            if s.groupBroken x then s.collError c 0x02 0x0A
            else if !x.complete then s
            else
              match s.srcBytes c (c.who j) g 0 (tmplBytes c.tmpl) with
              | .error (e, va) => s.cmdPage c j e va .read
              | .ok bs => s.combineColl c.accessed x bs contribs.ranks
      | _, _ => s)

/-- PEER_GROUP_CHANGE: another member module creates or ends its side of a group (R269). -/
def execPeerGroupChange (part : BitVec 4) (group : BitVec 8) (rank : BitVec 10) (created : Bool) (s : State) : Out :=
  .next (
    match s.group? part.toNat group.toNat with
    | none => s
    | some g =>
      let r := rank.toNat
      if g.n ≤ r ∨ r = g.rank then s
      else
        let put (h : Group → Group) : State := s.modPart part.toNat (fun p =>
          { p with groups := p.groups.map (fun x => if x.num = g.num then h x else x) })
        if created then put (fun x => { x with created := x.created.filter (· != r) ++ [r] })
        else (put (fun x => { x with gone := x.gone.filter (· != r) ++ [r] })).failGroup part.toNat g.num true)

end Sys2Proof.Machine
end

