-- ==== Sys2Proof/Machine/Tlbi.lean ====
section
/-! DEFINITION. TLBI and its completion (R165, R353, R354). -/

namespace Sys2Proof.Machine

open Sys2Proof

/-- Whether a TLBI's scope takes in a cached translation; a JOBID names the jobs of every partition that have it, since the
operand names no partition (R165, log 22). -/
def TlbiWait.covers (t : TlbiWait) (e : TlbEntry) : Bool :=
  match t.kind.toNat with
  | 0 => e.job.id == (t.operand.extractLsb' 0 16).toNat && e.page == (t.operand.extractLsb' 16 41).toNat
  | 1 => e.job.id == (t.operand.extractLsb' 0 16).toNat
  | _ => e.job.part == (t.operand.extractLsb' 0 4).toNat

/-- The partitions whose drain limit bounds a TLBI (R165). -/
def State.tlbiParts (s : State) (t : TlbiWait) : List Nat :=
  if t.kind = 2 then [(t.operand.extractLsb' 0 4).toNat]
  else (s.jobs.filter (fun j => j.ref.id == (t.operand.extractLsb' 0 16).toNat)).map (fun j => j.ref.part)

/-- Issues a TLBI: the slot waits, unparked (R354). -/
def State.tlbi (s : State) (c : Cur) (kind : BitVec 2) (v : Word64) : State :=
  let n := s.nextSerial.1
  let s1 : State := s.nextSerial.2
  ({ s1 with tlbis := s1.tlbis ++ [{ id := n, kind := kind, operand := v, caller := c.f.ref, since := s.cycle }] } : State).setFrag
    { c.f with slot := .waiting (.tlbi n) }

/-- TLBI of a page (R353). -/
def execTlbiPage (a : BitVec 6) (s : State) : Out :=
  scalarRun s { regs := [a], reads := [a], kernelOnly := true, mem := true } (fun c =>
    let v := c.f.s a
    if v.extractLsb' 57 7 ≠ 0 then s.trapScalar c fltIllegal 0x01 else s.tlbi c 0 v)

/-- TLBI of a job (R353). -/
def execTlbiJob (a : BitVec 6) (s : State) : Out :=
  scalarRun s { regs := [a], reads := [a], kernelOnly := true, mem := true } (fun c =>
    let v := c.f.s a
    if v.extractLsb' 16 48 ≠ 0 then s.trapScalar c fltIllegal 0x01 else s.tlbi c 1 v)

/-- TLBI of a partition (R353). -/
def execTlbiPartition (a : BitVec 6) (s : State) : Out :=
  scalarRun s { regs := [a], reads := [a], kernelOnly := true, mem := true } (fun c =>
    let v := c.f.s a
    if v.extractLsb' 4 60 ≠ 0 then s.trapScalar c fltIllegal 0x01 else s.tlbi c 2 v)

/-! ## Accesses that used a translation before its removal (R157, R165) -/

/-- The jobs in a TLBI's scope. -/
def TlbiWait.coversJob (t : TlbiWait) (j : JobRef) : Bool :=
  if t.kind = 2 then j.part == (t.operand.extractLsb' 0 4).toNat else j.id == (t.operand.extractLsb' 0 16).toNat

/-- The virtual addresses in a TLBI's scope. -/
def TlbiWait.touches (t : TlbiWait) (va : Nat) : Bool := t.kind != 0 || va / 65536 == (t.operand.extractLsb' 16 41).toNat

/-- Whether a posted store some of whose elements have been performed has others left that touch addresses of a scope. -/
def Posted.under (p : Posted) (t : Nat → Bool) : Bool :=
  p.fault.isNone && !p.killed && p.placed.any (fun x => x.2.scratch || t x.2.addr.toNat)

/-- A posted store of a fragment is performed, where it is there. -/
def State.settleStore (s : State) (r : FragRef) (id : Nat) : State :=
  match (s.look r).bind (fun c => (c.f.posted.find? (fun p => p.id == id)).map (fun p => (c, p))) with
  | some (c, p) => s.translateStore c p
  | none => s

/-- The posted stores under way in a scope are performed: those of fragments, and those that ended ones left. -/
def State.settleStores (s : State) (mine : JobRef → Bool) (t : Nat → Bool) : State :=
  let s1 := (s.frags.filter (fun f => mine f.ref.wave.wg.job)).foldl (fun acc f =>
    (f.posted.filter (fun p => p.under t)).foldl (fun a p => a.settleStore f.ref p.id) acc) s
  (s1.wgs.filter (fun g => mine g.ref.job)).foldl (fun acc g =>
    match acc.job? g.ref.job with
    | none => acc
    | some j => (g.orphans.filter (fun x => x.2.under t)).foldl (fun a x => a.translateOrphan x.1 g j x.2) acc) s1

/-- The lanes left of a fragment's memory instruction that is under way are performed where they have translated (R168). -/
def State.settleFlight (s : State) (r : FragRef) : State :=
  (List.range 64).foldl (fun acc l =>
    match (acc.look r).bind (fun c => c.f.queue.head?.map (fun q => (c, q))) with
    | none => acc
    | some (c, q) => match q.instr with | some i => acc.aheadOf (q.lane c) i l | none => acc) s

/-- Where a byte of a command's side has its virtual address: the window's, for a byte of a stash window. -/
def Wg.sideVa (g : Wg) (x : SrcByte) : Option Nat := if x.1 then (g.stashAddr x.2).map (fun a => a.toNat) else some x.2

/-- Whether a byte of a command's side touches addresses of a scope. -/
def Wg.sideIn (g : Wg) (t : Nat → Bool) (x : SrcByte) : Bool := match g.sideVa x with | some va => t va | none => false

/-- The chunks of a command that have been started and touch addresses of a scope. -/
def Cmd.startedIn (c : Cmd) (g : Wg) (t : Nat → Bool) : List Nat :=
  c.started.filter (fun i => (List.range (chunkSize c.tmpl i)).any (fun k => g.sideIn t (c.srcAt (512 * i + k)) || g.sideIn t (c.dstAt (512 * i + k))))

/-- The commands of a scope's jobs, each with its workgroup. -/
def State.cmdsOf (s : State) (mine : JobRef → Bool) : List (Cmd × Wg) :=
  s.cmds.filterMap (fun c => if mine c.wg.job then (s.wg? c.wg).map (fun g => (c, g)) else none)

/-- The accesses that used a translation of a scope are performed: posted stores under way, lanes of instructions under way, started chunks, and
then the remote writes on their way, those of the chunks too (R165, items 3 and 4). -/
def State.settleAccesses (s : State) (mine : JobRef → Bool) (t : Nat → Bool) : State :=
  let s1 := s.settleStores mine t
  let s2 := ((s1.frags.filter (fun f => mine f.ref.wave.wg.job && (match f.flight with | some x => !x.places.isEmpty | none => false))).map
    (fun f => f.ref)).foldl State.settleFlight s1
  let s3 := (s2.cmdsOf mine).foldl (fun acc p => (p.1.startedIn p.2 t).foldl (fun a i => a.landChunk p.1.id i) acc) s2
  s3.landIf (fun h => mine h.wg.job)

/-- Whether a chunk of a scope is started still, after its landing has been tried: it waits for a verdict, say. -/
def State.startedLeft (s : State) (mine : JobRef → Bool) (t : Nat → Bool) : Bool :=
  (s.cmdsOf mine).any (fun p => !(p.1.startedIn p.2 t).isEmpty
    || (p.1.fired && p.1.fault.isSome && p.1.seen.any (fun x => p.2.sideIn t x.1)))

/-- What is left of started chunks in a scope is squashed, what was read for commands that have not fired is read anew (R165, item 4), and no table
entry of the scope that was read ahead stays in use. -/
def State.squashStarted (s : State) (mine : JobRef → Bool) (t : Nat → Bool) : State :=
  let walks (xs : List WalkRead) : List WalkRead := xs.filter (fun x => !t (8 * x.unit))
  { s with
    cmds := s.cmds.map (fun (c : Cmd) =>
      match (if mine c.wg.job then s.wg? c.wg else none) with
      | none => c
      | some g =>
        let gone := c.startedIn g t
        { c with walked := walks c.walked, seen := c.seen.filter (fun x => !g.sideIn t x.1), wrote := c.wrote.filter (fun k => !gone.contains (k / 512)) })
    frags := s.frags.map (fun (f : Frag) =>
      match (if mine f.ref.wave.wg.job then s.wg? f.ref.wave.wg else none) with
      | none => f
      | some g => { f with walked := walks f.walked, snaps := f.snaps.filter (fun x => !g.sideIn t x.2.2.1) }) }

/-- The end of a TLBI: no translation in its scope stays cached or in use, and its fragment goes on (R165). -/
def State.tlbiDone (u : State) (t : TlbiWait) : State :=
  let s := u.squashStarted t.coversJob t.touches
  ({ s with tlbis := s.tlbis.filter (fun x => x.id != t.id), tlb := s.tlb.filter (fun e => !t.covers e) } : State).modFrag t.caller
    (fun f => if f.slot = .waiting (.tlbi t.id) then { f.next with slot := .ready } else f)

/-- TLBI_COMPLETION: the accesses that used a translation in scope are performed, and no chunk that used one is left (R165). -/
def execTlbiCompletion (id : Nat) (s : State) : Out :=
  .next (
    match s.tlbis.find? (fun t => t.id == id) with
    | none => s
    | some t =>
      let s1 := s.settleAccesses t.coversJob t.touches
      if s1.startedLeft t.coversJob t.touches then s else s1.tlbiDone t)

/-- TLBI_DRAIN_EXPIRY: once the drain limits in scope have passed, the remaining chunks that used a removed translation are
squashed, to replay with a fresh one, and the TLBI completes (R165). -/
def execTlbiDrainExpiry (id : Nat) (s : State) : Out :=
  .next (
    match s.tlbis.find? (fun t => t.id == id) with
    | none => s
    | some t =>
      if (s.tlbiParts t).all (fun n => match s.part? n with | some p => decide (t.since + p.drainlim ≤ s.cycle) | none => true) then
        (s.settleAccesses t.coversJob t.touches).tlbiDone t
      else s)

end Sys2Proof.Machine
end

