-- ==== Sys2Proof/Machine/System.lean ====
section
/-! DEFINITION. The system calls as Bilgil performs them: their callers and answers, launches and armed launches, residency
handles, mappings, protected contexts, attestation, microcode and collective groups (R157, R221, R253, R259 to R265, R269,
R272, R273, R277, R278). -/

namespace Sys2Proof.Machine

open Sys2Proof

/-! ## Callers and answers -/

/-- One lane's call: its arguments, its partition, the job whose addresses it names (none for a control program and for the
mailbox, whose addresses are intermediate ones of the partition), and whom to answer. -/
structure Asked where
  part : Nat
  job : Option Job
  who : Caller
  a0 : Word64
  a1 : Word64
  deriving DecidableEq, Repr

/-- An answer: a reply, a reply that comes later, or a trap (R263). -/
inductive Answer where
  | reply (status : Byte) (v : Word64)
  | later (status : Byte)
  | trap (fault sub : BitVec 8)
  deriving DecidableEq, Repr

/-- The answer to arguments for which the spec states none: nothing is done, and status and result are free. -/
def State.unstated (s : State) (a : Asked) : State × Answer :=
  (s, .reply (Config.freeByte s.fresh a.who.lane) (Config.freeWord s.fresh a.who.lane))

/-- One of several numbers, which is free. -/
def State.pick (s : State) (k : Nat) (l : List Nat) : Option Nat := l[s.choose k l.length]?

/-- The open batch record of a SEQ, not yet performed, with a call number. -/
def State.openCall (s : State) (d : Nat) (seq : BitVec 32) (n : Nat → Bool) : Option SqRec :=
  match s.die? d with
  | none => none
  | some x => x.sq.opened.find? (fun r => r.batch && r.seq == seq && !r.performed && n r.number.toNat)

/-- Lane `i`'s call of a record: its arguments stand in the slot (R260). -/
def State.askedOf (s : State) (d : Nat) (r : SqRec) (j : Job) (i : Nat) : Asked :=
  let arg (o : Nat) : Word64 := match s.die? d with
    | none => 0
    | some x => BitVec.ofNat 64 (x.sq.bytes.bytesNat (4096 * (r.seq.toNat % 2048) + 64 + 16 * i + o) 8)
  { part := j.ref.part, job := some j, who := { src := .svc (BitVec.ofNat 2 d) r.seq, lane := i, callId := some (j.ref, r.callId) }
    a0 := arg 0, a1 := arg 8 }

/-- Performs a call for each active lane in ascending order, until one answers with a trap; the replies' bytes follow. -/
def State.lanesCall (eff : State → Asked → State × Answer) (d : Nat) (r : SqRec) (j : Job) :
    List Nat → Sparse 8 → State → State × (Sparse 8 ⊕ BitVec 8 × BitVec 8)
  | [], m, s => (s, .inl m)
  | i :: is, m, s =>
    let put (st : Byte) (v : Word64) : Sparse 8 := (m.setBytes (16 * i) 8 v.toNat).set (16 * i + 8) st
    match eff s (s.askedOf d r j i) with
    | (s1, .reply st v) => State.lanesCall eff d r j is (put st v) s1
    | (s1, .later st) => State.lanesCall eff d r j is (put st 0) s1
    | (s1, .trap f b) => (s1, .inr (f, b))

/-- Answers a record with a trap of the calling fragment, which keeps its call id (R259, R261, R263). -/
def State.callTrap (s : State) (d : Nat) (r : SqRec) (fault sub : BitVec 8) : State :=
  let s1 := s.modDie d (fun x => { x with sq := { x.sq with opened := x.sq.opened.filter (fun t => t.seq != r.seq) } })
  let s2 := match s1.look r.caller with
    | none => s1
    | some c =>
      if c.f.slot = Slot.parked (Park.svc r.callSeq) then (s1.noteWake c.j.ref).raise r.caller (c.f.scalarTrap fault sub 0) else s1
  s2.fireReply r

/-- Writes a record's replies into its slot, all with one status where it is given, and marks it performed. -/
def State.putReplies (s : State) (d : Nat) (r : SqRec) (status : Option Byte) (m : Sparse 8) : State :=
  let lanes := List.range (lanesOf 64 r.lanes).length
  let n := match status with | none => m | some st => lanes.foldl (fun acc i => acc.set (16 * i + 8) st) m
  s.modDie d (fun x => { x with sq := { x.sq with
    bytes := lanes.foldl (fun acc i => acc.setList (replyAt r.seq i) (n.list (16 * i) 16)) x.sq.bytes
    opened := x.sq.opened.map (fun t => if t.seq = r.seq then { t with performed := true, replayed := status.isSome } else t) } })

/-- The completion record of a call id (R262). -/
def Job.completed (j : Job) (cid : BitVec 32 × BitVec 32) : Option (Sparse 8) :=
  (j.completion.find? (fun e => (e.1, e.2.1) == cid)).map (fun e => e.2.2)

/-- Performs a batch record's call: REPLAYED where its call id has a completion record; a call that is not idempotent
leaves one (R262). A call answered by a trap has no effect. -/
def State.svcCall (s : State) (idem : Bool) (eff : State → Asked → State × Answer) (d : Nat) (r : SqRec) : State :=
  match s.job? r.caller.wave.wg.job with
  | none => s
  | some j =>
    match j.completed r.callId with
    | some m => s.putReplies d r (some 4) m
    | none =>
      match State.lanesCall eff d r j (List.range (lanesOf 64 r.lanes).length) [] s with
      | (_, .inr (f, b)) => s.callTrap d r f b
      | (s1, .inl m) =>
        let s2 := if idem then s1 else
          s1.modJob j.ref (fun x => { x with completion := x.completion ++ [(r.callId.1, r.callId.2, m)] })
        s2.putReplies d r none m

/-- A call of a control program or of the mailbox (R263, R265); a trap has no one to take it: its status is free. -/
def State.plainCall (s : State) (eff : State → Asked → State × Answer) (c : CallSrc) (part : Nat) (a0 a1 : Word64) : State :=
  match eff s { part := part, job := none, who := { src := c, lane := 0, callId := none }, a0 := a0, a1 := a1 } with
  | (s1, .reply st v) => s1.giveResult c st v
  | (s1, .later _) => s1
  | (_, .trap _ _) => s.giveResult c (Config.freeByte s.fresh 0) (Config.freeWord s.fresh 0)

/-- A request of a mailbox that waits, with its call number (R265). -/
def State.boxCall (s : State) (p : Nat) (n : Nat → Bool) : Option Mailbox :=
  match s.part? p with
  | none => none
  | some x =>
    if x.mailbox.bell ≠ x.mailbox.done ∧ n (x.mailbox.req.extractLsb' 8 10).toNat then some x.mailbox else none

/-- The 64-bit argument words of a mailbox's request: v0 to v3 stand in the low halves of REQ's words 1 to 4 (R263, R265, log 63). -/
def Mailbox.arg (m : Mailbox) (k : Nat) : Word64 := m.req.extractLsb' (128 * k + 128) 32 ++ m.req.extractLsb' (128 * k + 64) 32

/-- Performs a call wherever it comes from. -/
def State.call (s : State) (idem : Bool) (n : Nat → Bool) (eff : State → Asked → State × Answer) (c : CallSrc) : State :=
  match c with
  | .svc d seq => match s.openCall d.toNat seq n with | none => s | some r => s.svcCall idem eff d.toNat r
  | .ecall p a0 a1 => s.plainCall eff c p.toNat a0 a1
  | .mailbox p =>
    match s.boxCall p.toNat n with
    | none => s
    | some m => s.plainCall eff c p.toNat (m.arg 0) (m.arg 1)

/-! ## Memory of a caller -/

/-- The party of an access of a partition outside any job. -/
def partyOf (part : Nat) : Who := { job := { part := part, id := 65536 }, s1root := 0, kernel := false }

/-- The place of an intermediate address of a partition. -/
def State.ipaLoc (s : State) (part ipa : Nat) (u : Use) : Option Phys :=
  match s.stage2 part (ipa % 2 ^ 44) with
  | .error _ => none
  | .ok (pa, b) =>
    if leafAllows b u then (match s.checkPhys (partyOf part) pa b u with | .ok p => some p | .error _ => none) else none

/-- The place of a caller's address. -/
def State.callLoc (s : State) (a : Asked) (va : Word64) (u : Use) : Option Phys :=
  match a.job with
  | some j => (match s.translate j.who va u with | .ok p => some p | .error _ => none)
  | none => s.ipaLoc a.part va.toNat u

/-- Reads `n` bytes at a caller's address. -/
def State.callRead (s : State) (a : Asked) (va : Word64) : Nat → Option (List Byte)
  | 0 => some []
  | n + 1 =>
    match s.callLoc a va .read, s.callRead a (va + 1) n with
    | some p, some bs => some (s.physByte (partyOf a.part) p 0 :: bs)
    | _, _ => none

/-- The number that bytes make. -/
def leNat (bs : List Byte) : Nat := bs.foldr (fun b acc => b.toNat + 256 * acc) 0

/-- Writes bytes at a caller's address, as far as it translates. -/
def State.callWrite (s : State) (a : Asked) (va : Word64) : List Byte → State
  | [] => s
  | b :: bs =>
    (match s.callLoc a va .write with
      | some p => s.storePlain { job := (partyOf a.part).job, wg := 0 } (.phys p) 1 b.toNat
      | none => s).callWrite a (va + 1) bs

/-! ## NULL -/

/-- One NULL. -/
def State.nullCall (t : State) (_ : Asked) : State × Answer := (t, .reply 0 0)

/-- NULL (R263). -/
def execNull (c : CallSrc) (s : State) : Out := .next (s.call true (· == 0x000) State.nullCall c)

/-! ## LAUNCH and ARMLAUNCH (R90, R181, R221, R264) -/

/-- The launched job before it has a JOBID: its own translation serves LAUNCH (R264). -/
def launchJob (part : Nat) (r : BitVec 2048) : Job :=
  ({ part := part, addr := 0, record := r, traps := [], armed := false, copies := none, caller := none } : Queued).job 65536 0

/-- An argument word of a launched job; one that does not translate has no stated value. -/
def State.argWord (s : State) (j : Job) (k : BitVec 8) : Word64 :=
  match s.readVaNat j.who (j.args + 8 * k.setWidth 64) 8 with
  | some v => BitVec.ofNat 64 v
  | none => Config.freeWord s.fresh k.toNat

/-- Patches a buffer record (R90). One of the reserved BASEKIND 3 is kept as it stands (log 86). -/
def State.patchRec (s : State) (j : Job) (ch : Option Chosen) (r : BitVec 256) : BitVec 256 :=
  let addend : Word64 := (r.extractLsb' 8 56).setWidth 64
  let done (base : Word64) : BitVec 256 := base ++ (r.extractLsb' 0 192 &&& ~~~0xC)
  match (r.extractLsb' 2 2).toNat with
  | 0 => r
  | 1 => done (s.symbolAddr ch (r.extractLsb' 192 64) + addend)
  | 2 => done (s.argWord j (r.extractLsb' 72 8) + addend)
  | _ => r

/-- A field of a template after patching: an argument's index stands in the field itself (R181). -/
def State.patchField (s : State) (j : Job) (ch : Option Chosen) (kind : BitVec 2) (v : Word64) : Word64 :=
  match kind.toNat with
  | 1 => s.symbolAddr ch v
  | 2 => s.argWord j (v.extractLsb' 0 8)
  | _ => v

/-- Patches a copy template (R181); one with a reserved kind keeps its KINDS, and is malformed. -/
def State.patchTmpl (s : State) (j : Job) (ch : Option Chosen) (t : BitVec 512) : BitVec 512 :=
  let k (n : Nat) : BitVec 2 := t.extractLsb' n 2
  let fld (lo n : Nat) : Word64 := s.patchField j ch (k n) (t.extractLsb' lo 64)
  let reserved := [133, 131, 129, 127].any (fun n => k n == 3)
  fld 448 133 ++ fld 384 131 ++ fld 320 129 ++ fld 256 127 ++ t.extractLsb' 135 121
    ++ (if reserved then t.extractLsb' 127 8 else 0) ++ t.extractLsb' 0 127

/-- The kernel's records and templates, patched. -/
def State.launchCopies (s : State) (j : Job) (ch : Option Chosen) : List (BitVec 256) × List (BitVec 512) :=
  let va (lo : Nat) : Word64 := j.kdesc.extractLsb' lo 64
  let n (lo : Nat) : Nat := (j.kdesc.extractLsb' lo 32).toNat
  ((s.readTable j (va 640) 32 (min 4096 (n 608))).map (s.patchRec j ch),
   (s.readTable j (va 704) 64 (min 256 (n 768))).map (s.patchTmpl j ch))

/-- Sets the bits of a field of a launch record. -/
def setField (r : BitVec 2048) (lo n v : Nat) : BitVec 2048 :=
  (r &&& ~~~(BitVec.ofNat 2048 (2 ^ n - 1) <<< lo)) ||| (BitVec.ofNat 2048 (v % 2 ^ n) <<< lo)

/-- Completes a launch record (R264); where the copies stand in Bilgil's memory is free. None where SIGNAL does not translate
to a word the job may write. -/
def State.completeLaunch (s : State) (part : Nat) (addr : Word64) (r : BitVec 2048) (traps : List Word64) (armed : Bool)
    (who : Option Caller) : State × Option Queued :=
  let j0 := launchJob part r
  let signalOk : Bool := j0.signalVa.toNat % 8 == 0 && (match s.translate j0.who j0.signalVa .write with | .ok _ => true | .error _ => false)
  if signalOk then
    let ld := s.loadFor j0 part
    let at' := match ld.2 with | some (_, _, d) => d | none => j0.kernelVa
    let j := { j0 with kdesc := BitVec.ofNat 2048 ((ld.1.readVaNat j0.who at' 256).getD 0) }
    let copies := ld.1.launchCopies j ld.2
    let place (k : Nat) : Nat := 64 * (Config.freeNat s.fresh k % 2 ^ 51)
    let con := r.extractLsb' 192 64
    let r1 := setField (setField (setField (setField r 832 64 (place 0)) 896 64 (place 1)) 970 13 copies.1.length) 983 9 copies.2.length
    let r2 := if con = 0 then setField r1 192 64 (j.kdesc.extractLsb' 896 64).toNat else r1
    (ld.1, some { part := part, addr := addr, record := r2, traps := traps, armed := armed, copies := some copies, caller := who, kernel := ld.2 })
  else (s, none)

/-- The 16 words of a trap table. -/
def trapWords (bs : List Byte) : List Word64 := (List.range 16).map (fun i => BitVec.ofNat 64 (leNat ((bs.drop (8 * i)).take 8)))

/-- One LAUNCH: FULL where the queue is, else the record is completed and queued; the JOBID comes when Meridian assigns it. -/
def State.launch (s : State) (a : Asked) : State × Answer :=
  match s.part? a.part, s.callRead a a.a0 256, s.callRead a a.a1 128 with
  | some p, some rb, some tb =>
    if a.a0.toNat % 256 ≠ 0 then s.unstated a
    else if 256 ≤ p.queue.length then (s, .reply 2 0)
    else
      match s.completeLaunch a.part a.a0 (BitVec.ofNat 2048 (leNat rb)) (trapWords tb) false (some a.who) with
      | (t, none) => t.unstated a
      | (t, some q) => (t.modPart a.part (fun x => { x with queue := x.queue ++ [q] }), .later 0)
  | _, _, _ => s.unstated a

/-- Whether the service job has been launched: before that Bilgil accepts no LAUNCH, and the call waits (R258, log 58). -/
def State.served (s : State) : Bool := s.jobs.any (fun j => j.kernel)

/-- LAUNCH (R221, R258, R264). -/
def execLaunch (c : CallSrc) (s : State) : Out := .next (if s.served then s.call false (· == 0x001) State.launch c else s)

/-- Bindings that no record is bound to (R267). -/
def State.freeBindings (s : State) : List Nat :=
  (List.range 256).filter (fun b => !(s.bindings.get b).getLsbD 0 && !s.armedRecs.any (fun x => x.1 == b))

/-- Whether a frame is free: it is not under quarantine (R273), no byte of it is written, and no word of device memory could be a table entry that
leads to it or covers it (log 87). -/
def State.frameFree (s : State) (pa n : Nat) : Bool :=
  !s.tornAt pa n && s.mem.all (fun c =>
    let e := BitVec.ofNat 64 (s.mem.bytesNat (c.1 / 8 * 8) 8)
    let a := (e.extractLsb' 8 36).toNat * 256
    !(decide (pa ≤ c.1 ∧ c.1 < pa + n) || (e.getLsbD 0 && decide (a < pa + n ∧ pa < a + 0x40000000))))

/-- A place of Bilgil's own memory for a record: a free frame of device memory (log 89). -/
def State.ownPlace (s : State) : Nat :=
  let at' (k : Nat) : Nat := 512 * (Config.freeNat s.fresh (3000 + k) % 2 ^ 30)
  at' (((List.range 64).find? (fun k => s.frameFree (at' k) 384)).getD 0)

/-- Writes bytes of Bilgil's own memory. -/
def State.ownWrite (s : State) (pa : Nat) : List Byte → State
  | [] => s
  | b :: bs => (s.storeDevice { pa := pa, key := none } 1 b.toNat).ownWrite (pa + 1) bs

/-- Writes a completed record and its trap table where a binding's RECORD names them (R267). -/
def State.writeRecord (s : State) (pa : Nat) (q : Queued) : State :=
  s.ownWrite pa (leBytes q.record.toNat 256 ++ q.traps.flatMap (fun t => leBytes t.toNat 8))

/-- Binds a completed record: it stands in Bilgil's memory, the binding is armed and names it, and the steering entry names the
binding; where Bilgil holds the record and the receive buffer is free (R264, R267). -/
def State.bindRecord (s0 : State) (b entry : Nat) (q0 : Queued) : State :=
  let free (k : Nat) : Nat := Config.freeNat s0.fresh k
  let q := { q0 with addr := BitVec.ofNat 64 s0.ownPlace }
  let s := s0.writeRecord s0.ownPlace q
  let old := s.bindings.get b
  let e : BitVec 512 := q.addr ++ BitVec.ofNat 64 (64 * (free 3 % 2 ^ 38))
    ++ BitVec.ofNat 64 (64 * (free 4 % 2 ^ 51)) ++ BitVec.ofNat 32 (64 * (1 + free 5 % 2 ^ 18)) ++ 0#28 ++ BitVec.ofNat 4 q.part
    ++ old.extractLsb' 192 64 ++ 0#191 ++ 1#1
  let st := s.steering.get entry
  let st1 : BitVec 128 := (st &&& ~~~((0xFF : BitVec 128) <<< 24) &&& ~~~(6 : BitVec 128)) ||| (BitVec.ofNat 128 b <<< 24) ||| 4
  { s with bindings := s.bindings.set b e, steering := s.steering.set entry st1
           armedRecs := s.armedRecs.filter (fun x => x.1 != b) ++ [(b, q)] }

/-- One ARMLAUNCH. -/
def State.armLaunch (s : State) (a : Asked) : State × Answer :=
  match s.callRead a a.a0 384 with
  | none => s.unstated a
  | some bs =>
    let r := BitVec.ofNat 2048 (leNat (bs.take 256))
    if a.a0.toNat % 256 ≠ 0 ∨ r.getLsbD 780 = false then s.unstated a
    else
      match s.pick 1 s.freeBindings with
      | none => (s, .reply 2 0)
      | some b =>
        match s.completeLaunch a.part a.a0 r (trapWords (bs.drop 256)) true none with
        | (t, none) => t.unstated a
        | (t, some q) => (t.bindRecord b (r.extractLsb' 768 12).toNat q, .reply 0 (BitVec.ofNat 64 b))

/-- ARMLAUNCH (R229, R264). -/
def execArmlaunch (c : CallSrc) (s : State) : Out := .next (s.call false (· == 0x030) State.armLaunch c)

/-! ## STOPGRAPH and RESUMEGRAPH (R253) -/

/-- One STOPGRAPH: a graph with a cycle is refused; the answer to another comes once the stop has ended. -/
def State.stopGraph (t : State) (a : Asked) : State × Answer :=
  let g := Config.freeGraph t.fresh a.a0
  if graphCycle g.1 g.2.1 then ({ t with reports := t.reports ++ [.graphCycle a.part] }, (t.unstated a).2)
  else
    ({ t with stops := t.stops ++ [{ part := a.part, jobs := g.1, edges := g.2.1, halted := [], denied := [], area := none
                                     ranges := g.2.2, caller := some a.who }] }, .later 0)

/-- STOPGRAPH. -/
def execStopgraph (c : CallSrc) (s : State) : Out := .next (s.call false (· == 0x008) State.stopGraph c)

/-- One RESUMEGRAPH: the graph's halted jobs run on. -/
def State.resumeGraph (t : State) (a : Asked) : State × Answer :=
  (t.resumeJobs a.part (Config.freeGraph t.fresh a.a0).1, .reply 0 0)

/-- RESUMEGRAPH. -/
def execResumegraph (c : CallSrc) (s : State) : Out := .next (s.call false (· == 0x009) State.resumeGraph c)

/-! ## Residency handles (R157) -/

/-- A handle's tensor. -/
def State.handle? (s : State) (n : Nat) : Option Residency := s.residency.find? (fun r => r.num == n)

/-- The stage-2 leaf that maps an intermediate address: where it stands, its level and its bits. -/
def State.leafOf (s : State) (ipa : Nat) : List Nat → Nat → Option (Nat × Nat × BitVec 64)
  | [], _ => none
  | l :: ls, tab =>
    let pa := tab + 8 * (ipa / 2 ^ levelShift l % levelEntries true l)
    match s.tableEntry { pa := pa, key := none } with
    | .error _ => none
    | .ok e =>
      match entOf true l e with
      | .table a => s.leafOf ipa ls a
      | .leaf _ b => some (pa, l, b)
      | _ => none

/-- A frame of a tier: 0 HBM4E, 1 LPDDR, 2 host memory, out of the device (R10, R157). -/
def tierFrame (place : BitVec 2) (n size : Nat) : Nat :=
  match place.toNat with
  | 0 => size * (n % (2 ^ 39 / size))
  | 1 => 2 ^ 40 + size * (n % (2 ^ 40 / size))
  | _ => 0x24000000000 + size * (n % (0xA000000000 / size))

/-- The tier that a physical address lies in. -/
def tierOf (pa : Nat) : BitVec 2 := match regionOf pa with | .device => (if pa < 0x10000000000 then 0 else 1) | _ => 2

/-- Copies `n` bytes from a place to another, as the migration's copy does. -/
def State.copyBytes (s : State) (from' to' : Phys) : Nat → Nat → State
  | _, 0 => s
  | i, n + 1 =>
    (s.storePlain { job := (partyOf 0).job, wg := 0 } (.phys { to' with pa := to'.pa + i }) 1 (s.physByte (partyOf 0) from' i).toNat).copyBytes
      from' to' (i + 1) n

/-- Moves the page of an intermediate address into a tier by the migration sequence: its leaf becomes invalid, the partition's accesses under way
are performed and its started chunks land or are squashed, its cached translations go, its bytes are copied, and the new leaf names the new frame (R157, R165). None where no frame of the tier is free. -/
def State.movePage (s : State) (part ipa : Nat) (place : BitVec 2) : Option State :=
  match s.part? part with
  | none => some s
  | some p =>
    match s.leafOf ipa [1, 2, 3, 4] ((p.s2root.extractLsb' 8 36).toNat * 256) with
    | none => some s
    | some (at', l, b) =>
      let size := 2 ^ levelShift l
      let old : Phys := { pa := (b.extractLsb' 8 36).toNat * 256, key := leafKey b }
      if tierOf old.pa = place then some s
      else
        let new := tierFrame place (Config.freeNat s.fresh (ipa + 3)) size
        if !s.frameFree new size then none
        else
          let mine (j : JobRef) : Bool := j.part == part
          let s0 := (s.settleAccesses mine (fun _ => true)).squashStarted mine (fun _ => true)
          let s1 := s0.putWord { pa := at', key := none } 0
          let s2 : State := { s1 with tlb := s1.tlb.filter (fun e => !(e.job.part == part && e.ipage * 65536 / size == ipa / size)) }
          let leaf := (b &&& ~~~(0xFFFFFFFFF00 : BitVec 64)) ||| BitVec.ofNat 64 new
          some ((s2.copyBytes old { old with pa := new } 0 size).putWord { pa := at', key := none } leaf)

/-- The intermediate address of a tensor's page; none where the job's tables do not map it. -/
def State.tensorIpa (s : State) (r : Residency) (va : Nat) : Option Nat :=
  match r.root with
  | none => some (va % 2 ^ 44)
  | some root => (match s.walk1 r.part va [0, 1, 2, 3, 4] (root % 2 ^ 44) with | .ok (ipa, _) => some ipa | .error _ => none)

/-- Moves every page of a list that is mapped. -/
def State.movePages (s : State) (r : Residency) (place : BitVec 2) : List Nat → Option State
  | [] => some s
  | va :: vs =>
    match s.tensorIpa r va with
    | none => s.movePages r place vs
    | some ipa => (match s.movePage r.part ipa place with | none => none | some t => t.movePages r place vs)

/-- Moves a tensor as one unit: 0 HBM4E, 1 the LPDDR tier, 2 out of device memory; none where the tier has no room. No value that a
program reads changes. -/
def State.placeTensor (s : State) (n : Nat) (place : BitVec 2) : Option State :=
  match s.handle? n with
  | none => some s
  | some r =>
    (s.movePages r place (pagesOf r.base r.size.toNat)).map (fun (t : State) =>
      { t with residency := s.residency.map (fun (x : Residency) => if x.num = n then { x with place := place } else x) })

/-- Moves each tensor of a list. -/
def State.placeAll (s : State) (place : BitVec 2) : List Nat → Option State
  | [] => some s
  | n :: ns => match s.placeTensor n place with | none => none | some t => t.placeAll place ns

/-- The order in which tensors of a tier are taken to make room: by priority, among equals the highest handle first. -/
def State.victims (s : State) (place : BitVec 2) (but : Nat) : List Nat :=
  ((s.residency.filter (fun r => r.place == place && r.num != but)).mergeSort (fun x y =>
    decide (x.prio.toNat < y.prio.toNat) || (x.prio == y.prio && decide (y.num ≤ x.num)))).map (fun r => r.num)

/-- The tier a tensor prefers. -/
def Residency.tier (r : Residency) : BitVec 2 := if r.lpddr then 1 else 0

/-- Places a tensor in its preferred tier; how many victims make room, and whether it fits at all, is free: none where it
fits neither tier. -/
def State.placeBest (s : State) (r : Residency) : Option State :=
  let v := s.victims r.tier r.num
  match s.placeAll (r.tier + 1) (v.take (s.choose 1 (v.length + 1))) with
  | none => none
  | some s1 =>
    match s.choose 2 3 with
    | 0 => s1.placeTensor r.num r.tier
    | 1 => s.placeTensor r.num (1 - r.tier)
    | _ => none

/-- The numbers that no handle has. -/
def State.freeHandles (s : State) : List Nat := (List.range 4096).filter (fun n => (s.handle? n).isNone)

/-- A new handle from a call's arguments: size, tier and priority stand in the second word. -/
def Asked.tensor (a : Asked) (n : Nat) : Residency :=
  { num := n, part := a.part, root := a.job.map (fun j => j.s1root), base := a.a0, size := a.a1 &&& ~~~0xF, lpddr := a.a1.getLsbD 3, prio := a.a1.extractLsb' 0 3, place := 2 }

/-- One RESCREATE. -/
def State.resCreate (t : State) (a : Asked) : State × Answer :=
  match t.pick 0 t.freeHandles with
  | none => (t, .reply 2 0)
  | some n =>
    match ({ t with residency := t.residency ++ [a.tensor n] } : State).placeBest (a.tensor n) with
    | some t1 => (t1, .reply 0 (BitVec.ofNat 64 n))
    | none => (t, .reply 2 0)

/-- RESCREATE. -/
def execRescreate (c : CallSrc) (s : State) : Out := .next (s.call false (· == 0x010) State.resCreate c)

/-- A call on a handle; one that names no tensor has no stated answer. -/
def onHandle (eff : State → Residency → State × Answer) (t : State) (a : Asked) : State × Answer :=
  match t.handle? a.a0.toNat with | none => t.unstated a | some r => eff t r

/-- A move that a call asks for; the answer of one for which there is no room is not stated (log 87). -/
def State.moved (t : State) (r : Residency) (place : BitVec 2) : State × Answer :=
  match t.placeTensor r.num place with
  | some u => (u, .reply 0 0)
  | none => (t, .reply (Config.freeByte t.fresh 4) (Config.freeWord t.fresh 4))

/-- One RESDEMOTE, RESEVICT, RESPROMOTE or RESFREE. -/
def State.resDemote : State → Asked → State × Answer := onHandle (fun t r => t.moved r 1)
def State.resEvict : State → Asked → State × Answer := onHandle (fun t r => t.moved r 2)
def State.resPromote : State → Asked → State × Answer :=
  onHandle (fun t r => match t.placeBest r with | some t1 => (t1, .reply 0 0) | none => (t, .reply 2 0))
def State.resFree : State → Asked → State × Answer :=
  onHandle (fun t r => ({ t with residency := t.residency.filter (fun x => x.num != r.num) }, .reply 0 0))

/-- RESDEMOTE. -/
def execResdemote (c : CallSrc) (s : State) : Out := .next (s.call true (· == 0x011) State.resDemote c)
/-- RESEVICT. -/
def execResevict (c : CallSrc) (s : State) : Out := .next (s.call true (· == 0x012) State.resEvict c)
/-- RESPROMOTE. -/
def execRespromote (c : CallSrc) (s : State) : Out := .next (s.call true (· == 0x013) State.resPromote c)
/-- RESFREE. -/
def execResfree (c : CallSrc) (s : State) : Out := .next (s.call false (· == 0x014) State.resFree c)

/-! ## MAP and UNMAP (R158, R159, R263) -/

/-- The tables that a caller's MAP or UNMAP changes. -/
def State.treeOf (s : State) (a : Asked) : Tree :=
  match a.job with
  | some j => j.tree
  | none => { job := none, part := a.part, root := ((s.part? a.part).elim 0 (fun p => (p.s2root.extractLsb' 8 36).toNat * 256)) }

/-- One MAP. Whether there is room is free. -/
def State.mapCall (t : State) (a : Asked) : State × Answer :=
  let full : State × Answer := (t, .reply 2 0)
  if t.choose 0 2 = 1 then full
  else
    match t.mapPages (t.treeOf a) ((Config.mapBits (a.a1.extractLsb' 61 3)).setWidth 64 <<< 2) (pagesOf a.a0 (a.a1.extractLsb' 0 61).toNat) with
    | some t1 => (t1, .reply 0 0)
    | none => full

/-- MAP. -/
def execMap (c : CallSrc) (s : State) : Out := .next (s.call false (· == 0x020) State.mapCall c)

/-- Clears the L4 entry of a page, where there is one. -/
def State.unmapPage (s : State) (t : Tree) (va : Nat) : State :=
  match s.pageEntry false t va t.levels t.root with
  | (_, none) => s
  | (_, some p) => s.putWord p 0

/-- One UNMAP: the leaves of the range's pages become invalid; cached translations stay until a TLBI (R160). -/
def State.unmapCall (t : State) (a : Asked) : State × Answer :=
  ((pagesOf a.a0 (a.a1.extractLsb' 0 61).toNat).foldl (fun acc va => acc.unmapPage (t.treeOf a) va) t, .reply 0 0)

/-- UNMAP. -/
def execUnmap (c : CallSrc) (s : State) : Out := .next (s.call true (· == 0x021) State.unmapCall c)

/-! ## Protected contexts (R272, R273) -/

/-- Clusters and pages under quarantine (R273). -/
def State.quarantined (s : State) (cl : BitVec 32) (pages : List Nat) : Bool :=
  s.contexts.any (fun x => x.tearing && (x.clusters &&& cl != 0 || x.pages.any (fun p => pages.contains p)))

/-- How many bits of a cluster mask are set, and which. -/
def clusterList (m : BitVec 32) : List Nat := (List.range 32).filter (fun i => m.getLsbD i)

/-- The free key slots of a partition: a torn context's stay with it until its scrub ends (R270, R272, R273). -/
def State.freeKeys (s : State) (p : Part) : List Nat :=
  (List.range 64).filter (fun k => p.keyslots.getLsbD k && s.keySlots.get k == 0
    && !s.contexts.any (fun x => x.tearing && x.keys.getLsbD k))

/-- The numbers that no context has. -/
def State.freeContexts (s : State) : List Nat := (List.range 4096).filter (fun n => !s.contexts.any (fun x => x.num == n))

/-- The key that a PROTECT unwraps: Bilgil's secret, a free value that is no empty slot. -/
def State.newKey (s : State) : BitVec 512 := (Config.freeDigest s.fresh 0 ++ Config.freeDigest s.fresh 1) ||| 1

/-- One PROTECT. -/
def State.protectCall (t : State) (a : Asked) : State × Answer :=
  match t.part? a.part with
  | none => t.unstated a
  | some p =>
    let d := Config.freeContext t.fresh a.a0
    if t.quarantined d.1 d.2 then (t, .reply 2 0)
    else
      match t.pick 0 t.freeContexts, t.pick 1 (t.freeKeys p) with
      | some n, some k =>
        ({ t with
            keySlots := t.keySlots.set k t.newKey
            contexts := t.contexts ++ [{ num := n, part := a.part, clusters := d.1, keys := 1#64 <<< k, measure := Config.measurement d.1 d.2, pages := d.2, tearing := false
                                         state := 0, total := 0, done := 0 }] }, .reply 0 (BitVec.ofNat 64 n))
      | _, _ => t.unstated a

/-- PROTECT. -/
def execProtect (c : CallSrc) (s : State) : Out := .next (s.call false (· == 0x040) State.protectCall c)

/-- Zeroises the key slots of a mask. -/
def State.zeroKeys (s : State) (m : Word64) : State :=
  { s with keySlots := (List.range 64).foldl (fun acc k => if m.getLsbD k then acc.set k 0 else acc) s.keySlots }

/-- Starts the scrub of a context: its resources are quarantined (R273, R274). -/
def Context.tear (x : Context) : Context :=
  let n := 8 * (clusterList x.clusters).length + x.pages.length
  { x with tearing := n != 0, state := if n = 0 then 2 else 1, total := n, done := 0 }

/-- One TEARDOWN of a context of the caller's partition. -/
def State.teardownCall (t : State) (a : Asked) : State × Answer :=
  match t.contexts.find? (fun x => x.num == a.a0.toNat && x.part == a.part) with
  | none => t.unstated a
  | some x =>
    if x.state ≠ 0 then (t, .reply 0 0)
    else ({ t.zeroKeys x.keys with contexts := t.contexts.map (fun y => if y.num = x.num then y.tear else y) }, .reply 0 0)

/-- TEARDOWN. -/
def execTeardown (c : CallSrc) (s : State) : Out := .next (s.call true (· == 0x041) State.teardownCall c)

/-! ## Attestation and microcode (R277, R278) -/

/-- A partition's STATUS: reset in progress, scrub pending (R270). -/
def State.partStatus (s : State) (p : Part) : Nat :=
  p.resetting.toNat + 2 * (s.contexts.any (fun x => x.tearing && x.part == p.id)).toNat

/-- The bytes of a partition's control block, field after field (R270). -/
def State.controlBlock (s : State) (p : Part) : List Byte :=
  leBytes p.clusters.toNat 8 ++ leBytes p.s2root.toNat 8 ++ leBytes p.qos.toNat 8 ++ leBytes p.featmask.toNat 8 ++ leBytes p.parklimit.toNat 8
    ++ leBytes p.preemptcfg.toNat 8 ++ leBytes p.savewin.toNat 8 ++ leBytes p.msix.toNat 8 ++ leBytes p.keyslots.toNat 8
    ++ leBytes p.sigpolicy.toNat 8 ++ leBytes (s.partStatus p) 8 ++ p.enroll.flatMap (fun k => leBytes k.toNat 32)

/-- The digest of the slot that booted, 0 in recovery. -/
def Firmware.bootDigest (f : Firmware) : BitVec 256 :=
  match f.booted with | none => 0 | some true => f.slot1.digest | some false => f.slot0.digest

/-- What an attestation's digest covers: nonce, ARCHVER, the booted manifest's digest, the microcode's, the control block and the
measurement of the partition's context, 0 where there is none (R278, log 88). -/
def State.attested (t : State) (p : Part) (nonce : List Byte) : List Byte :=
  nonce ++ leBytes (0x20000 + 256 * t.archMinor.toNat) 8 ++ leBytes t.firmware.bootDigest.toNat 32
    ++ leBytes (t.microcode.getD 0).toNat 32 ++ t.controlBlock p
    ++ leBytes ((t.contexts.find? (fun x => x.part == p.id && x.state == 0)).elim 0 (fun x => x.measure)).toNat 32

/-- One ATTEST: the report is signed over the digest with the module's key; its bytes are the security block's. -/
def State.attestCall (t : State) (a : Asked) : State × Answer :=
  match t.callRead a a.a0 32, t.part? a.part with
  | some nonce, some p =>
    let d := Config.sha3 (t.attested p nonce)
    ({ t.callWrite a a.a1 (Config.signedReport d) with reports := t.reports ++ [.attest d] }, .reply 0 0)
  | _, _ => t.unstated a

/-- ATTEST. -/
def execAttest (c : CallSrc) (s : State) : Out := .next (s.call true (· == 0x050) State.attestCall c)

/-- One MCLOAD: FULL while a job is resident, be it the service job; whether the image verifies, and what its manifest states, is the image's, a
MINOR that is not below the present one (R62, R277). -/
def State.mcLoad (t : State) (a : Asked) : State × Answer :=
  if !t.jobs.isEmpty then (t, .reply 2 0)
  else if t.choose 0 2 = 1 then t.unstated a
  else
    let stated : BitVec 8 := Config.freeByte t.fresh 1
    let minor := if stated.ult t.archMinor then t.archMinor else stated
    ({ t with microcode := some (Config.freeDigest t.fresh 0), archMinor := minor }, .reply 0 (minor.setWidth 64))

/-- MCLOAD. -/
def execMcload (c : CallSrc) (s : State) : Out := .next (s.call false (· == 0x060) State.mcLoad c)

/-! ## Collective groups (R269) -/

/-- The group that a descriptor describes; none where COLLGROUP refuses it. -/
def readGroup (part : Nat) (head : BitVec 128) (member : List (BitVec 32)) : Option Group :=
  let n := (head.extractLsb' 0 32).toNat
  let rank := (head.extractLsb' 32 32).toNat
  if head.extractLsb' 96 32 ≠ 0 ∨ member.any (fun m => m.extractLsb' 14 18 != 0) ∨ 1024 < n ∨ n ≤ rank
      ∨ member[rank]? ≠ some (0#18 ++ BitVec.ofNat 4 part ++ Config.thisModule) ∨ !decide member.Nodup then none
  else
    some { num := 0, n := n, rank := rank, gtag := head.extractLsb' 64 32, member := member, created := [], gone := [], count := 0 }

/-- The numbers that no group of a partition has. -/
def State.freeGroups (s : State) (part : Nat) : List Nat := (List.range 256).filter (fun k => (s.group? part k).isNone)

/-- One COLLGROUP. -/
def State.collGroup (t : State) (a : Asked) : State × Answer :=
  match t.callRead a a.a0 16 with
  | none => t.unstated a
  | some hb =>
    let head := BitVec.ofNat 128 (leNat hb)
    let n := min 1024 (head.extractLsb' 0 32).toNat
    match t.callRead a (a.a0 + 16) (4 * n) with
    | none => t.unstated a
    | some mb =>
      match readGroup a.part head ((List.range n).map (fun i => BitVec.ofNat 32 (leNat ((mb.drop (4 * i)).take 4)))) with
      | none => (t, .trap fltRecord 0x34)
      | some g =>
        match t.pick 0 (t.freeGroups a.part) with
        | none => (t, .reply 2 0)
        | some k => (t.modPart a.part (fun p => { p with groups := p.groups ++ [{ g with num := k }] }), .reply 0 (BitVec.ofNat 64 k))

/-- COLLGROUP. -/
def execCollgroup (c : CallSrc) (s : State) : Out := .next (s.call false (· == 0x070) State.collGroup c)

/-- One COLLFREE: the group ends on this module, its commands that wait with it. -/
def State.collFree (t : State) (a : Asked) : State × Answer :=
  let k := a.a0.toNat
  let t1 := match t.group? a.part k with | none => t | some _ => t.failGroup a.part k false
  (t1.modPart a.part (fun p => { p with groups := p.groups.filter (fun g => g.num != k) }), .reply 0 0)

/-- COLLFREE. -/
def execCollfree (c : CallSrc) (s : State) : Out := .next (s.call true (· == 0x071) State.collFree c)

/-! ## Numbers of control programs (R263) -/

/-- The call numbers that the table of R263 assigns. -/
def assignedCalls : List Nat :=
  [0x000, 0x001, 0x008, 0x009, 0x010, 0x011, 0x012, 0x013, 0x014, 0x020, 0x021, 0x030, 0x040, 0x041, 0x050, 0x060, 0x070, 0x071]

/-- The numbers that control programs may register. -/
def registeredCall (n : Nat) : Bool := decide (0x100 ≤ n ∧ n ≤ 0x1FF)

/-- One call of a registered handler, and one of a number with none. -/
def State.handlerCall (status : BitVec 8) (result : Word64) (t : State) (a : Asked) : State × Answer :=
  if a.who.lane = 0 then (t, .reply status result)
  else (t, .reply (Config.freeByte t.fresh a.who.lane) (Config.freeWord t.fresh a.who.lane))
def State.noHandler (t : State) (_ : Asked) : State × Answer := (t, .trap fltIllegal 0x0D)

/-- CONTROL_PROGRAM_CALL: a registered handler of 0x100 to 0x1FF answers, with the step's status and result in the first lane
and free ones in the others; whether one is registered, and as idempotent, is free. A number with none traps. -/
def execControlProgramCall (c : CallSrc) (status : BitVec 8) (result : Word64) (s : State) : Out :=
  if s.choose 0 2 = 1 then .next (s.call (s.choose 1 2 == 1) registeredCall (State.handlerCall status result) c)
  else .next (s.call true (fun n => !assignedCalls.contains n) State.noHandler c)

end Sys2Proof.Machine
end

