-- ==== Sys2Proof/Machine/Debug.lean ====
section
/-! DEFINITION. The debug monitor's commands: freezing, stepping, reading and writing waves, checkpoints and the replay log
(R246, R254 to R257). -/

namespace Sys2Proof.Machine

open Sys2Proof

/-! ## Freezing (R254) -/

/-- A fragment that stands at its point in a frozen workgroup. -/
def Frag.held (f : Frag) : Bool := f.slot == .parked .trap && f.waiting.isNone

/-- Puts a fragment of a frozen workgroup at its point, once it has come to it; one in an entry routine runs it to its ENTRYDONE first
(R241, R242). -/
def State.freezeIf (s : State) (r : FragRef) : State :=
  match s.look r with
  | none => s
  | some c =>
    if c.g.frozen && c.f.steps.isNone && !c.f.held && c.f.routine == .none && c.f.atPoint then
      s.setFrag { c.f.stop with slot := .parked .trap, parkedAt := s.cycle, repark := false }
    else s

/-- Whether a workgroup can freeze: it runs on a core, and is none of the service job's (R258). -/
def Wg.canFreeze (g : Wg) : Bool :=
  decide (g.die < 4 ∧ g.ref.job.part ≠ 16) && (match g.state with | .running | .draining _ | .resuming => true | _ => false)

/-- Freezes a workgroup: its matrix work completes, every fragment goes to its point, a trap record is withdrawn (R144, R242, R254). -/
def State.freezeGroup (t : State) (g : WgRef) : State :=
  let s := t.enterIf g (fun _ => true)
  (s.wgFrags g).foldl (fun acc f => acc.freezeIf f.ref) ((s.modWg g (fun x => { x with frozen := true })).withdrawTraps g)

/-- Whether a fragment stands at a freeze point that holds it: an address of 0 is no point, and an exit or entry routine is not held
(log 57). -/
def Cur.freezeHere (c : Cur) : Bool :=
  !c.f.passPoint && c.f.routine == .none && c.j.freezes.any (fun x => x.2 != 0 && x.2 == c.f.spc)

/-- Lets a fragment go on from its point; it does not stop at the freeze point it starts from. -/
def Frag.thaw (f : Frag) : Frag :=
  { f with slot := if f.held then .ready else f.slot, parkedAt := if f.held then 0 else f.parkedAt, passPoint := true, steps := none }

/-- Thaws a workgroup; a request that was held meanwhile takes its course (R241). -/
def State.thawGroup (s : State) (g : WgRef) : State :=
  ((s.modWg g (fun x => { x with frozen := false })).modFrags g Frag.thaw).applyHeld g

/-- FREEZE_POINT_HIT: a fragment about to issue a scalar instruction at a freeze point freezes its workgroup. -/
def execFreezePointHit (r : FragRef) (s : State) : Out :=
  .next (
    match s.look r with
    | none => s
    | some c => if c.freezeHere && c.g.canFreeze && !c.g.frozen && (c.f.slot == .ready || c.f.slot == .active) then s.freezeGroup c.g.ref else s)

/-- STEP_END: a step's instructions and their lane work are complete; the fragment freezes again, one that has parked only after its
wake (R254). -/
def execStepEnd (r : FragRef) (s : State) : Out :=
  .next (
    match s.look r with
    | none => s
    | some c =>
      if c.f.steps = some 0 ∧ c.f.queue.isEmpty ∧ c.g.frozen ∧ (c.f.slot = .ready ∨ c.f.slot = .active) then
        (s.modFrag r (fun f => { f with steps := none })).freezeIf r
      else s)

/-! ## Requests (R255, R257) -/

/-- A request that names a job: status 1 where there is none, 5 or 4 where its log was full or diverged since. -/
def State.request1 (s : State) (j : JobRef) (eff : Job → State × Byte) : State :=
  match s.job? j with
  | none => s.respond 1
  | some x =>
    if x.kernel then s.respond 1
    else if x.log.full then (s.modJob j (fun y => { y with log := { y.log with full := false } })).respond (if x.log.mode = 2 then 4 else 5)
    else
      let r := eff x
      r.1.respond r.2

/-- The resident workgroups a request names: one, or all with 0xFFFF_FFFF. -/
def State.named (s : State) (j : JobRef) (wg : BitVec 32) : List Wg :=
  s.wgs.filter (fun g => g.ref.job == j && decide (g.die < 4) && (wg == 0xFFFFFFFF || g.ref.wg == wg.toNat))

/-- FREEZE. -/
def execFreeze (j : JobRef) (wg : BitVec 32) (s : State) : Out :=
  .next (s.request1 j (fun _ =>
    let gs := s.named j wg
    if gs.isEmpty && wg != 0xFFFFFFFF then (s, 1)
    else ((gs.filter Wg.canFreeze).foldl (fun acc g => acc.freezeGroup g.ref) s, 0)))

/-- THAW. -/
def execThaw (j : JobRef) (wg : BitVec 32) (s : State) : Out :=
  .next (s.request1 j (fun _ =>
    let gs := s.named j wg
    let fs := gs.filter (fun g => g.frozen)
    if gs.isEmpty && wg != 0xFFFFFFFF then (s, 1)
    else if fs.isEmpty then (s, 2)
    else (fs.foldl (fun acc g => acc.thawGroup g.ref) s, 0)))

/-- STEP. -/
def execStep (r : FragRef) (count : BitVec 16) (s : State) : Out :=
  .next (s.request1 r.wave.wg.job (fun _ =>
    match s.look r with
    | none => (s, 1)
    | some c =>
      if !c.g.frozen then (s, 2)
      else if count = 0 then (s, 3)
      else (s.setFrag { c.f.thaw with steps := some count.toNat }, 0)))

/-- FREEZEPT: address 0 clears the slot. -/
def execFreezept (j : JobRef) (slot : BitVec 3) (addr : Word64) (s : State) : Out :=
  .next (s.request1 j (fun _ =>
    (s.modJob j (fun x => { x with freezes := x.freezes.filter (fun y => y.1 != slot) ++ [(slot, addr)] }), 0)))

/-- The host bus address of a request as a physical one, and whether the bytes it names lie in the host window (log 8). -/
def hostAt (a : Word64) : Nat := 0x24000000000 + a.toNat
def hostHas (a : Word64) (n : Nat) : Bool := decide (a.toNat + n ≤ 0xA000000000)

/-- A frozen wave, with its job and workgroup, or the status that says why not. -/
def State.frozenWave (s : State) (w : WaveRef) : Except Byte (Wave × Wg × Job) :=
  match s.wave? w, s.wg? w.wg, s.job? w.wg.job with
  | some x, some g, some j => if g.frozen then .ok (x, g, j) else .error 2
  | _, _, _ => .error 1

/-- A wave's part of the layout of R246, as bytes; what belongs to the wave stands in fragment 0's hardware part whether that fragment is there or
has ended. -/
def State.waveImage (s : State) (w : Wave) (g : Wg) (j : Job) : Sparse 8 :=
  let r := j.role w.role
  let put (m : Sparse 8) (xs : List (Nat × Nat × Nat)) : Sparse 8 := xs.foldl (fun acc x => acc.setBytes x.1 x.2.2 x.2.1) m
  let wave0 := (waveFields0 j w g).map (fun x => (j.hwAt r 0 + x.1, x.2))
  (s.fragsOf w.ref).foldl (fun m f =>
    (put m (fragFields j r f)).setList (j.hwAt r f.ref.frag)
      (hwPart s { f := f, w := w, g := g, j := j } f (f.resumeAt (s.regionNo j f.spc)))) (put [] (waveFields j w ++ wave0))

/-- READ: copies a frozen wave to the host. -/
def execRead (w : WaveRef) (host : Word64) (s : State) : Out :=
  .next (s.request1 w.wg.job (fun _ =>
    match s.frozenWave w with
    | .error st => (s, st)
    | .ok (x, g, j) =>
      let n := j.waveBytes (j.role x.role)
      if !hostHas host n then (s, 3)
      else ({ s with hostMem := s.hostMem.setList (hostAt host) ((s.waveImage x g j).list 0 n) }, 0)))

/-- WRITE: writes a frozen wave's state; what is written is no longer poisoned. -/
def execWrite (w : WaveRef) (host : Word64) (s : State) : Out :=
  .next (s.request1 w.wg.job (fun _ =>
    match s.frozenWave w with
    | .error st => (s, st)
    | .ok (x, _, j) =>
      let r := j.role x.role
      if !hostHas host (j.waveBytes r) then (s, 3) else
      let read : Nat → Byte := fun i => s.hostMem.get (hostAt host + i)
      let idxs := (s.fragsOf w).map (fun f => f.ref.frag)
      let y := (x.loadRegs j read).loadHw j (fun i => read (j.hwAt r 0 + i))
      let load (f : Frag) : Frag := (f.loadRegs j r read).loadHw j idxs (fun i => read (j.hwAt r f.ref.frag + i))
      ({ s.setWave y with frags := s.frags.map (fun f => if f.ref.wave = w then load f else f) }, 0)))

/-- LOG: mode 0 off, 1 record, 2 replay; a new area is used from its start. -/
def execLog (j : JobRef) (area bytes : Word64) (mode : BitVec 2) (s : State) : Out :=
  .next (s.request1 j (fun _ =>
    if mode = 3 then (s, 3)
    else (s.modJob j (fun x => { x with log := { mode := mode, area := area, bytes := bytes, next := 0, full := false } }), 0)))

/-! ## Checkpoints (R256) -/

/-- CHECKPOINT: the graph stops as for STOPGRAPH; the request is answered at its end. -/
def execCheckpoint (part : BitVec 4) (graph area : Word64) (hold : Bool) (s : State) : Out :=
  .next (
    let g := Config.freeGraph s.fresh graph
    if graphCycle g.1 g.2.1 then { s.respond 3 with reports := s.reports ++ [.graphCycle part.toNat] }
    else
      { s with stops := s.stops ++ [{ part := part.toNat, jobs := g.1, edges := g.2.1, halted := [], denied := [], area := some (area, hold)
                                      ranges := g.2.2, caller := none }] })

/-- New JOBIDs for the jobs of a checkpoint, one after another (R221). -/
def State.newIds (s : State) (part : Nat) : List Nat → Option (State × List (Nat × Nat))
  | [] => some (s, [])
  | i :: is =>
    match s.nextJobid part with
    | none => none
    | some n =>
      let taken : Job := ({ part := part, addr := 0, record := 0, traps := [], armed := false, copies := none, caller := none } : Queued).job n 0
      let s1 := { s.modPart part (fun p => { p with lastJob := some n }) with jobs := s.jobs ++ [taken] }
      (s1.newIds part is).map (fun r => (r.1, (i, n) :: r.2))

/-- Puts back a checkpoint under new JOBIDs, frames and command numbers: jobs run, their saved workgroups first in line. -/
def State.putBack (s : State) (c : Checkpoint) (ids frames : List (Nat × Nat)) : State :=
  let jr (j : JobRef) : JobRef := { part := j.part, id := renamed ids j.id }
  let gr (g : WgRef) : WgRef := { job := jr g.job, wg := g.wg }
  let wr (w : WaveRef) : WaveRef := { wg := gr w.wg, wave := w.wave }
  let fr (f : FragRef) : FragRef := { wave := wr f.wave, frag := f.frag }
  let base := s.serial
  let nums := c.cmds.zipIdx.map (fun p => (p.1.id, base + c.jobs.length + p.2))
  let saved (j : Job) : List Nat := (c.wgs.filter (fun g => g.ref.job == j.ref)).map (fun g => g.ref.wg)
  let jobs := c.jobs.zipIdx.map (fun p =>
    let j := p.1
    { j with ref := jr j.ref, order := base + p.2, state := .running, lastDispatch := [], denied := [], noEvict := false
             line := saved j ++ j.line.filter (fun n => !(saved j).contains n) })
  let orphans (xs : List (FragRef × Posted)) : List (FragRef × Posted) := xs.map (fun x => (fr x.1, x.2))
  { s with
    serial := base + c.jobs.length + c.cmds.length
    jobs := s.jobs.filter (fun j => !(jobs.any (fun k => k.ref == j.ref))) ++ jobs
    wgs := s.wgs ++ c.wgs.map (fun g => { g with
      ref := gr g.ref, frames := g.frames.map (renamed frames), replay := g.replay.map (renamed nums), orphans := orphans g.orphans })
    waves := s.waves ++ c.waves.map (fun w => { w with ref := wr w.ref })
    frags := s.frags ++ c.frags.map (fun f => { f with ref := fr f.ref, frame := f.frame.map (renamed frames) })
    cmds := s.cmds ++ c.cmds.map (fun x => { x with id := renamed nums x.id, wg := gr x.wg }) }

/-- The saved workgroups of a checkpoint that is put back take what its frames in the area say (R256). -/
def State.framesSay (s : State) (was now : Checkpoint) (ids : List (Nat × Nat)) : State :=
  was.wgs.foldl (fun acc g =>
    acc.applyFrames { job := { part := g.ref.job.part, id := renamed ids g.ref.job.id }, wg := g.ref.wg }
      (framesOf was.frames g.frames) (framesOf now.frames g.frames)) s

/-- RESTORE: the ranges, frames and dump slots are written back as the area holds them and the jobs relaunched; status 3 where the area holds no
checkpoint of the partition, or JOBIDs or frames are short. -/
def execRestore (part : BitVec 4) (area : Word64) (s : State) : Out :=
  .next (
    match s.checkpointAt part.toNat area with
    | none => s.respond 3
    | some was =>
      let c := s.fromArea was area
      match s.newIds part.toNat (c.jobs.map (fun j => j.ref.id)), s.freeFrames part.toNat c.frames.length with
      | some (s1, ids), some ns =>
        let frames := (c.frames.map (fun x => x.1)).zip ns
        let s2 := c.ranges.foldl (fun acc x => acc.writeBack x.1 x.2) s1
        let s3 := (s2.modPart part.toNat (fun p => { p with frames := p.frames ++ ns })).putBack c ids frames
        let s4 := match c.jobs.head? with
          | none => s3
          | some j => s3.fillFrames j ((c.frames.zip ns).map (fun (x : (Nat × List Byte) × Nat) => (x.2, x.1.2)))
        let s5 := c.dumps.foldl (fun acc x =>
          match c.jobs.find? (fun j => j.ref == x.1.job), (c.wgs.find? (fun g => g.ref == x.1)).bind (fun g => g.dumpSlot) with
          | some j, some n => acc.writeVa (nameless j).who x.1 (j.dumpAt n) x.2
          | _, _ => acc) s4
        (s5.framesSay was c ids).respond 0
      | _, _ => s.respond 3)

/-! ## The monitor's mailbox (R255) -/

/-- Word `i` of a request. -/
def Mailbox.word (m : Mailbox) (i : Nat) : Word64 := m.req.extractLsb' (64 * i) 64

/-- The wave that a JOBID, a WAVEID and a partition name. -/
def waveOf (j : JobRef) (id : Word64) : WaveRef := { wg := { job := j, wg := id.toNat / 32 }, wave := id.toNat % 32 }

/-- What a step answers where it is a next state. -/
def nextOr (s : State) (o : Out) : State := match o with | .next t => t | _ => s

/-- The monitor serves the request that stands in REQ: the operands stand one a word from word 1, and the partition in word 7
[3:0] (log 57). A command that is not assigned, or an operand out of its range, answers status 3. -/
def State.serveMonitor (s : State) : State :=
  let op (i : Nat) : Word64 := s.monitor.word i
  let part := (op 7).extractLsb' 0 4
  let job : JobRef := { part := part.toNat, id := (op 1).toNat }
  let wg : BitVec 32 := (op 2).setWidth 32
  let fits (i n : Nat) : Bool := decide ((op i).toNat < n)
  nextOr s (match (s.monitor.req.extractLsb' 0 8).toNat with
    | 1 => execFreeze job wg s
    | 2 => execThaw job wg s
    | 3 => if fits 3 4 && fits 4 65536 then execStep { wave := waveOf job (op 2), frag := (op 3).toNat } ((op 4).setWidth 16) s else .next (s.respond 3)
    | 4 => if fits 2 8 then execFreezept job ((op 2).setWidth 3) (op 3) s else .next (s.respond 3)
    | 5 => execRead (waveOf job (op 2)) (op 3) s
    | 6 => execWrite (waveOf job (op 2)) (op 3) s
    | 7 => if fits 3 2 then execCheckpoint part (op 1) (op 2) ((op 3) == 1) s else .next (s.respond 3)
    | 8 => execRestore part (op 1) s
    | 9 => if fits 4 4 then execLog job (op 2) (op 3) ((op 4).setWidth 2) s else .next (s.respond 3)
    | _ => .next (s.respond 3))

end Sys2Proof.Machine
end

