-- ==== Sys2Proof/Machine/Registers.lean ====
section
/-! DEFINITION. Control registers and the module's own events: partition reset, power, margins, firmware, the scrub engine and
the slots' timing events (R33, R35, R230, R239, R265 to R276, R279, R280). -/

namespace Sys2Proof.Machine

open Sys2Proof

/-! ## Partition control blocks (R35, R270, R271) -/

/-- Clusters that other partitions own. -/
def State.othersClusters (s : State) (p : Nat) : BitVec 32 :=
  (s.parts.filter (fun x => x.id != p)).foldl (fun m x => m ||| x.clusters) 0

/-- Clusters under quarantine (R273). -/
def State.quarantine (s : State) : BitVec 32 := (s.contexts.filter (fun x => x.tearing)).foldl (fun m x => m ||| x.clusters) 0

/-- CLUSTERS: bits of clusters owned elsewhere, or quarantined, are not stored. -/
def execClusters (part : BitVec 4) (v : BitVec 32) (s : State) : Out :=
  .next (s.modPart part.toNat (fun p => { p with clusters := v &&& ~~~s.othersClusters part.toNat &&& ~~~s.quarantine }))

/-- PARKLIMIT: a value below 0x1_0000 is stored as 0x1_0000. -/
def execParklimit (part : BitVec 4) (v : BitVec 32) (s : State) : Out :=
  .next (s.modPart part.toNat (fun p => { p with parklimit := if v < 0x10000#32 then 0x10000#32 else v }))

/-- QOS: 0 is stored as 1. -/
def execQos (part : BitVec 4) (v : Word64) (s : State) : Out :=
  .next (s.modPart part.toNat (fun p => { p with qos := if v.extractLsb' 0 8 = 0 then 1 else v.extractLsb' 0 8 }))

/-- Discards a job without a signal: its workgroups, and the job itself; a container whose last job it was unloads where that was asked
(R100, R226, R271). -/
def State.discardJob (s : State) (j : Job) : State :=
  let s1 := (s.wgs.filter (fun g => g.ref.job == j.ref)).foldl (fun acc g => acc.discardWg g j) s
  ({ s1 with jobs := s1.jobs.filter (fun x => x.ref != j.ref) } : State).unloadIdle

/-- Takes a partition's entries out of a die's queues. -/
def Die.clearPart (d : Die) (p : Nat) : Die :=
  let mineF (e : FqEntry) : Bool := e.job.part != p
  let mineS (r : SqRec) : Bool := r.caller.wave.wg.job.part != p
  { d with fq := { d.fq with entries := d.fq.entries.filter mineF, late := d.fq.late.filter mineF }
           sq := { d.sq with opened := d.sq.opened.filter mineS, late := d.sq.late.filter mineS } }

/-- The number of the scrub that a partition's reset starts. -/
def resetScrub (p : Nat) : Nat := 4096 + p

/-- RESET of a partition: its jobs are discarded, its pools destroyed, its queues' entries and key slots cleared, its groups
ended, and its clusters' cores scrubbed; STATUS shows it until then (R269, R271). -/
def State.resetPart (s : State) (p : Part) : State :=
  let s1 := (s.jobs.filter (fun j => j.ref.part == p.id)).foldl (fun acc j => acc.discardJob j) s
  let c : Context := { num := resetScrub p.id, part := p.id, clusters := p.clusters, keys := 0, measure := 0, pages := [], tearing := false
                       state := 0, total := 0, done := 0 }
  let busy := p.clusters != 0
  { (s1.zeroKeys p.keyslots).modPart p.id (fun x =>
      { x with resetting := busy, scrubPending := busy, lastJob := none, queue := [], groups := [], frames := [] }) with
    pools := s1.pools.map (fun x => if x.live && x.job.part == p.id then x.destroyed else x)
    dies := s1.dies.map (fun d => d.clearPart p.id)
    stops := s1.stops.filter (fun x => x.part != p.id)
    privQueue := s1.privQueue.filter (fun q => q.part != p.id)
    contexts := s1.contexts.filter (fun x => x.num != resetScrub p.id) ++ (if busy then [c.tear] else []) }

/-- RESET (R271). -/
def execReset (part : BitVec 4) (s : State) : Out :=
  .next (match s.part? part.toNat with | none => s | some p => s.resetPart p)

/-! ## The other registers and tables (R239, R255, R265 to R268, R270) -/

/-- Word `i` of a mailbox's request is replaced. -/
def Mailbox.setReq (m : Mailbox) (i : BitVec 3) (v : Word64) : Mailbox :=
  let o := 64 * i.toNat
  { m with req := (m.req &&& ~~~((BitVec.allOnes 64).setWidth 512 <<< o)) ||| (v.setWidth 512 <<< o) }

/-- A doorbell; one written while DONESEQ is behind is ignored (R255). -/
def Mailbox.ring (m : Mailbox) (v : Word64) : Mailbox := if m.done = m.bell then { m with bell := v } else m

/-- A peer window's descriptor as a write gives it: enable, module, partition, base (log 40). -/
def peerOf (num : Nat) (v : BitVec 512) : PeerWin :=
  { num := num, enabled := v.getLsbD 0, module := v.extractLsb' 1 10, part := v.extractLsb' 11 4, base := v.extractLsb' 64 64 }

/-- Replaces the low `n` bits of a value outside a read-only range. -/
def keepField {w : Nat} (old new : BitVec w) (lo n : Nat) : BitVec w :=
  let m : BitVec w := BitVec.ofNat w (2 ^ n - 1) <<< lo
  (new &&& ~~~m) ||| (old &&& m)

/-- REGISTER_WRITE: the monitor's doorbell serves its request (R255); fields that a register does not have are not stored; DROPS and FIRES are read-only. -/
def execRegisterWrite (r : CtlReg) (v : BitVec 512) (s : State) : Out :=
  let w : Word64 := v.extractLsb' 0 64
  .next (
    match r with
    | .s2root p => s.modPart p.toNat (fun x => { x with s2root := w })
    | .featmask p => s.modPart p.toNat (fun x => { x with featmask := w })
    | .preemptcfg p => s.modPart p.toNat (fun x => { x with preemptcfg := w })
    | .savewin p => s.modPart p.toNat (fun x => { x with savewin := w &&& 0x01FFFFFFC000FFFF#64 })
    | .msix p => s.modPart p.toNat (fun x => { x with msix := v.extractLsb' 0 11 })
    | .keyslots p => s.modPart p.toNat (fun x => { x with keyslots := w })
    | .sigpolicy p => s.modPart p.toNat (fun x => { x with sigpolicy := v.extractLsb' 0 4 })
    | .enroll p k => s.modPart p.toNat (fun x => { x with enroll := x.enroll.set k.toNat (v.extractLsb' 0 256) })
    | .steering e => { s with steering := s.steering.set e.toNat (v.extractLsb' 0 128) }
    | .ring e => { s with rings := s.rings.set e.toNat (keepField (s.rings.get e.toNat) (v.extractLsb' 0 256) 128 64) }
    | .binding e =>
      { s with bindings := s.bindings.set e.toNat (keepField (s.bindings.get e.toNat) v 192 64) }
    | .peerwin n => { s with peerWins := s.peerWins.filter (fun x => x.num != n.toNat) ++ [peerOf n.toNat v] }
    | .monReq i => { s with monitor := s.monitor.setReq i w }
    | .monBell => if s.monitor.done = s.monitor.bell then ({ s with monitor := s.monitor.ring w } : State).serveMonitor else s
    | .vfReq p i => s.modPart p.toNat (fun x => { x with mailbox := x.mailbox.setReq i w })
    | .vfBell p => s.modPart p.toNat (fun x => { x with mailbox := x.mailbox.ring w }))

/-! ## Power and ageing (R279, R280) -/

/-- CLKSTEP: the host's write also ends the state of a thermal trip. -/
def execClkstep (d : BitVec 2) (v : BitVec 3) (s : State) : Out :=
  .next { s.modDie d.toNat (fun x => { x with clkstep := v }) with trip := false }

/-- GATE. -/
def execGate (d : BitVec 2) (v : Word64) (s : State) : Out := .next (s.modDie d.toNat (fun x => { x with gate := v }))

/-- MARGINCOMMIT: a value other than the proposal is not stored. -/
def execMargincommit (d : BitVec 2) (v : Word64) (s : State) : Out :=
  .next (s.modDie d.toNat (fun x => if v = x.marginProp then { x with marginCommit := v } else x))

/-- MARGIN_PROPOSAL. -/
def execMarginProposal (d : BitVec 2) (v : Word64) (s : State) : Out :=
  .next (s.modDie d.toNat (fun x => { x with marginProp := v }))

/-- THERMAL_TRIP: every die goes to step 0. -/
def execThermalTrip (s : State) : Out :=
  .next { s with dies := s.dies.map (fun d => { d with clkstep := 0 }), trip := true }

/-! ## Firmware (R275, R276) -/

/-- The marker that is the current choice: the valid one with the higher sequence; true stands for marker 1. -/
def Firmware.current (f : Firmware) : Option Bool :=
  match f.mark0.valid, f.mark1.valid with
  | false, false => none
  | true, false => some false
  | false, true => some true
  | true, true => some (decide (f.mark0.seq.toNat < f.mark1.seq.toNat))

/-- The slot that the markers name; slot 0 with no valid marker. -/
def Firmware.named (f : Firmware) : Bool :=
  match f.current with | none => false | some false => f.mark0.slot | some true => f.mark1.slot

def Firmware.slot (f : Firmware) (b : Bool) : FwSlot := if b then f.slot1 else f.slot0

/-- A slot that may boot: it verifies, and its version meets the floor. -/
def Firmware.qualifies (f : Firmware) (b : Bool) : Bool := (f.slot b).signed && decide (f.floor ≤ (f.slot b).version)

/-- Boot's choice; none stands for recovery. -/
def Firmware.choice (f : Firmware) : Option Bool :=
  if f.qualifies f.named then some f.named else if f.qualifies (!f.named) then some (!f.named) else none

/-- The inactive slot: the one that did not boot. -/
def Firmware.inactive (f : Firmware) : Bool := match f.booted with | some b => !b | none => !f.named

/-- Writes an image into the inactive slot. -/
def Firmware.putSlot (f : Firmware) (x : FwSlot) : Firmware :=
  if f.inactive then { f with slot1 := x } else { f with slot0 := x }

/-- The sequence of the current marker. -/
def Firmware.seq (f : Firmware) : BitVec 64 :=
  match f.current with | none => 0 | some false => f.mark0.seq | some true => f.mark1.seq

/-- Writes the marker that is not the current choice. -/
def Firmware.putMark (f : Firmware) (x : Marker) : Firmware :=
  if f.current = some false then { f with mark1 := x } else { f with mark0 := x }

/-- A flip: the image is written into the inactive slot and verified, and only then the marker names it. -/
def Firmware.flip (f : Firmware) (x : FwSlot) : Firmware :=
  let m : Marker := { slot := f.inactive, seq := f.seq + 1, valid := true }
  if x.signed then (f.putSlot x).putMark m else f.putSlot x

/-- FIRMWARE_FLIP. -/
def execFirmwareFlip (digest : BitVec 256) (version : Nat) (signed : Bool) (s : State) : Out :=
  .next { s with firmware := s.firmware.flip { digest := digest, version := version, signed := signed } }

/-- FLOOR_RAISE: only a signed command raises the floor. -/
def execFloorRaise (version : Nat) (signed : Bool) (s : State) : Out :=
  .next (if signed && decide (s.firmware.floor < version) then { s with firmware := { s.firmware with floor := version } } else s)

/-- A context under scrub restarts at unit 0; the others are gone. -/
def scrubsAgain (xs : List Context) : List Context := (xs.filter (fun x => x.tearing)).map (fun x => { x with done := 0 })

/-- The patch RAM as firmware of a slot loads it, and the control store (R3): 256 and 4,096 words that the slot's digest fixes
(log 90). -/
def bootWords (n : Nat) (word : Nat → Word64) : Sparse 64 := (List.range n).foldl (fun m i => m.set i (word i)) []

/-- What outlasts a reset: firmware, failed links and ports, quarantines; memory keeps its content (log 41). -/
def State.afterReset (s : State) (f : Firmware) : State :=
  { State.reset with
    fresh := s.fresh, agenda := s.agenda, mem := s.mem, lineKey := s.lineKey, hostMem := s.hostMem, peerMem := s.peerMem
    serial := s.serial, checkpoints := s.checkpoints, firmware := f, contexts := scrubsAgain s.contexts, planes := s.planes, reports := s.reports, results := s.results
    dies := s.dies.map (fun d => { Die.reset d.id with lost := d.lost, failed := d.failed, retries := d.retries }) }

/-- MODULE_RESET: boot chooses a slot, and a scrub under way restarts at unit 0 (R273, R275). -/
def execModuleReset (s : State) : Out :=
  .next (
    let b := s.firmware.choice
    let s0 := s.afterReset { s.firmware with booted := b, powered := true }
    let s1 := if b.isNone then s0 else
      { s0 with patchRam := bootWords 256 (Config.patchWord s0.firmware.bootDigest)
                controlStore := bootWords 4096 (Config.controlWord s0.firmware.bootDigest) }
    if b.isNone then { s1 with reports := s1.reports ++ [.recovery] } else s1)

/-- POWER_LOSS: what memory and registers held is lost. Whether a flip was under way, and how far, is free; in it the slot or
the marker that was being written fails its check (R276). -/
def execPowerLoss (s : State) : Out :=
  .next (
    let f := s.firmware
    let img (signed : Bool) : FwSlot :=
      { digest := Config.freeDigest s.fresh 0, version := Config.freeNat s.fresh 1, signed := signed }
    let g := match s.choose 0 4 with
      | 0 => f
      | 1 => f.putSlot (img false)
      | 2 => (f.putSlot (img true)).putMark { slot := f.inactive, seq := f.seq + 1, valid := false }
      | _ => f.flip (img true)
    { s.afterReset { g with powered := false, booted := none } with mem := [], lineKey := [] })

/-! ## The scrub engine (R273, R274) -/

/-- Clears what a core holds: the registers, tiles, scratchpad and panels of the workgroups on it. -/
def State.clearCore (s : State) (die core : Nat) : State :=
  let here (g : WgRef) : Bool := s.wgs.any (fun x => x.ref == g && x.die == die && x.core == core)
  { s with
    wgs := s.wgs.map (fun (g : Wg) => if here g.ref then { g with scratch := [], panels := [] } else g)
    waves := s.waves.map (fun (w : Wave) => if here w.ref.wg then { w with vregs := [], tiles := [], masks := [] } else w)
    frags := s.frags.map (fun (f : Frag) => if here f.ref.wave.wg then { f with sregs := [] } else f) }

/-- Clears a 64 KiB page with zeros. -/
def State.clearPage (s : State) (pa : Nat) : State :=
  { s with mem := s.mem.erase pa 65536, lineKey := s.lineKey.erase (pa / 128) 512
           reservations := s.reservations.filter (fun x => !decide (pa / 128 ≤ x.2 ∧ x.2 < pa / 128 + 512)) }

/-- The unit of a scrub that comes next: first the cores of its clusters, eight each, then its pages. -/
def State.scrubNext (s : State) (x : Context) : State :=
  let cl := clusterList x.clusters
  let i := x.done
  if i < 8 * cl.length then
    let c := cl.getD (i / 8) 0
    s.clearCore (c / 8) (8 * (c % 8) + i % 8)
  else s.clearPage (x.pages.getD (i - 8 * cl.length) 0)

/-- SCRUB_UNIT: one unit is cleared; the last releases the resources, and ends a partition's reset. -/
def execScrubUnit (ctx : Nat) (s : State) : Out :=
  .next (
    match s.contexts.find? (fun x => x.num == ctx) with
    | none => s
    | some x =>
      if !x.tearing then s
      else
        let s1 := s.scrubNext x
        let put (y : Context) (t : State) : State := { t with contexts := t.contexts.map (fun z => if z.num = ctx then y else z) }
        if x.done + 1 < x.total then put { x with done := x.done + 1 } s1
        else
          let s2 := put { x with done := x.done + 1, tearing := false, state := 2 } s1
          if ctx = resetScrub x.part then s2.modPart x.part (fun p => { p with resetting := false, scrubPending := false }) else s2)

/-! ## Slots (R33, R230) -/

/-- A READY or ACTIVE slot of a core that has not issued for 64 cycles. -/
def State.starves (s : State) (f : Frag) : Bool :=
  (f.slot == .ready || f.slot == .active) && decide (f.issuedAt + 64 ≤ s.cycle)
    && (match s.wg? f.ref.wave.wg with | some g => decide (g.die < 4) | none => false)

/-- STARVATION_BOOST: a slot that has not issued for 64 cycles takes priority 4 until its next issue. -/
def execStarvationBoost (r : FragRef) (s : State) : Out :=
  .next (s.modFrag r (fun f => if s.starves f then { f with boost := true } else f))

/-- DATA_RETURN: a slot that waits for a miss is READY. -/
def execDataReturn (r : FragRef) (s : State) : Out :=
  .next (s.modFrag r (fun f => if f.slot = .waiting .miss then { f with slot := .ready } else f))

end Sys2Proof.Machine
end

