-- ==== Sys2Proof/Machine/Network.lean ====
section
/-! DEFINITION. What arrives from outside: Ethernet frames and their steering, remote writes, peers' atomics, failed links and
ports, and the control cores' accesses (R13, R171, R177, R201, R202, R229, R266 to R269). -/

namespace Sys2Proof.Machine

open Sys2Proof

/-! ## Frames (R266) -/

/-- The big-endian number of `n` bytes of a frame from byte `o`; bytes beyond its end count as zero. -/
def beAt (f : List Byte) (o n : Nat) : Nat := (List.range n).foldl (fun acc i => 256 * acc + (f.getD (o + i) 0).toNat) 0

/-- Where the EtherType stands: behind a VLAN tag, if there is one. -/
def etherAt (f : List Byte) : Nat := if beAt f 12 2 = 0x8100 then 16 else 12

/-- The IP protocol of a frame, and where its payload begins. -/
def ipOf (f : List Byte) : Option (Nat × Nat) :=
  let o := etherAt f + 2
  match beAt f (o - 2) 2 with
  | 0x0800 => if beAt f o 1 / 16 = 4 then some (beAt f (o + 9) 1, o + 4 * (beAt f o 1 % 16)) else none
  | 0x86DD => if beAt f o 1 / 16 = 6 then some (beAt f (o + 6) 1, o + 40) else none
  | _ => none

/-- The UDP destination port of a frame and its payload. -/
def udpOf (f : List Byte) : Option (Nat × List Byte) :=
  match ipOf f with
  | some (17, o) => if o + 8 ≤ f.length then some (beAt f (o + 2) 2, (f.drop (o + 8)).take (beAt f (o + 4) 2 - 8)) else none
  | _ => none

/-- Steering-entry fields. -/
def stAction (e : BitVec 128) : Nat := (e.extractLsb' 1 2).toNat
def stFallback (e : BitVec 128) : Nat := (e.extractLsb' 3 2).toNat
def stTarget (e : BitVec 128) : Nat := (e.extractLsb' 24 32).toNat

/-- An entry that can match: valid, its reserved and unused bits zero, no reserved FALLBACK (R266, R267). -/
def stUsable (e : BitVec 128) : Bool :=
  e.getLsbD 0 && e.extractLsb' 5 19 == 0 && stFallback e != 3
    && (match stAction e with
        | 1 => stFallback e == 0 && decide (stTarget e < 0x100)
        | 2 => decide (stTarget e < (if stFallback e = 2 then 0x10000 else 0x100))
        | _ => stFallback e == 0 && stTarget e == 0)

/-- Whether an entry matches a frame: TAG has no value that matches any, and a frame without a UDP payload shows 0 there
(log 42). -/
def stMatches (e : BitVec 128) (f : List Byte) : Bool :=
  let proto := (e.extractLsb' 104 8).toNat
  let port := (e.extractLsb' 88 16).toNat
  let udp := udpOf f
  stUsable e && (e.extractLsb' 112 16).toNat == beAt f (etherAt f) 2
    && (proto == 0 || (match ipOf f with | some (p, _) => p == proto | none => false))
    && (port == 0 || (match udp with | some (p, _) => p == port | none => false))
    && (e.extractLsb' 56 32).toNat == (match udp with | some (_, b) => beAt b 0 4 | none => 0)

/-- The first entry that matches a frame, among the listed ones: an unlisted entry is not valid. -/
def State.steer (s : State) (f : List Byte) : Option (Nat × BitVec 128) := s.steering.find? (fun x => stMatches x.2 f)

/-! ## Receive rings (R267) -/

def ringBase (e : BitVec 256) : Nat := (e.extractLsb' 0 64).toNat
def ringPtr (e : BitVec 256) : Nat := (e.extractLsb' 64 64).toNat
def ringLog (e : BitVec 256) : Nat := (e.extractLsb' 200 8).toNat
def ringPart (e : BitVec 256) : Nat := (e.extractLsb' 208 4).toNat

/-- A ring in use. -/
def ringEnabled (e : BitVec 256) : Bool :=
  e.getLsbD 192 && e.extractLsb' 212 44 == 0 && decide (12 ≤ ringLog e ∧ ringLog e ≤ 30)

/-- Counts a dropped frame. -/
def State.dropFrame (s : State) (r : Nat) : State :=
  let e := s.rings.get r
  { s with rings := s.rings.set r (e.extractLsb' 192 64 ++ (e.extractLsb' 128 64 + 1) ++ e.extractLsb' 0 128) }

/-- Writes bytes at places of a partition; none where one does not translate. -/
def State.ipaPlaces (s : State) (part : Nat) (u : Use) : List Nat → Option (List Phys)
  | [] => some []
  | a :: as =>
    match s.ipaLoc part a u, s.ipaPlaces part u as with
    | some p, some ps => some (p :: ps)
    | _, _ => none

/-- Stores bytes at their places, one after another. -/
def State.putBytes (s : State) (part : Nat) : List (Phys × Byte) → State
  | [] => s
  | (p, b) :: xs => (s.storePlain { job := (partyOf part).job, wg := 0 } (.phys p) 1 b.toNat).putBytes part xs

/-- A frame's record: header, frame, and zero bytes to a multiple of 64. -/
def frameRecord (entry : Nat) (f : List Byte) : List Byte :=
  leBytes (f.length % 65536 + 65536 * entry) 16 ++ f ++ List.replicate (roundUp (16 + f.length) 64 - (16 + f.length)) 0

/-- Writes a frame into a receive ring, or drops it. -/
def State.ringWrite (s : State) (r entry : Nat) (f : List Byte) : State :=
  let e := s.rings.get r
  let size := 2 ^ ringLog e
  let bs := frameRecord entry f
  let part := ringPart e
  if !ringEnabled e then s.dropFrame r
  else
    match s.ipaPlaces part .write ((List.range 8).map (fun i => ringPtr e + i)) with
    | none => s.dropFrame r
    | some pair =>
      let word := leNat (pair.map (fun p => s.physByte (partyOf part) p 0))
      let head := word % 2 ^ 32
      let used := (pairCount (BitVec.ofNat 64 word)).toNat
      if size < used + bs.length then s.dropFrame r
      else
        match s.ipaPlaces part .write ((List.range bs.length).map (fun i => ringBase e + (head + i) % size)) with
        | none => s.dropFrame r
        | some ps => (s.putBytes part (ps.zip bs)).putBytes part ((pair.take 4).zip (leBytes ((head + bs.length) % 2 ^ 32) 4))

/-! ## Armed launches (R229, R267) -/

def bindRecordAt (e : BitVec 512) : Nat := (e.extractLsb' 448 64).toNat
def bindBufIpa (e : BitVec 512) : Nat := (e.extractLsb' 384 64).toNat
def bindBufVa (e : BitVec 512) : Word64 := e.extractLsb' 320 64
def bindBufSize (e : BitVec 512) : Nat := (e.extractLsb' 288 32).toNat
def bindPart (e : BitVec 512) : Nat := (e.extractLsb' 256 4).toNat

/-- The record that a binding names, at its address: Bilgil's own copies belong to the one that ARMLAUNCH bound (R267). -/
def State.boundRecord (s : State) (b : Nat) : Queued :=
  let e := s.bindings.get b
  let at' := BitVec.ofNat 64 (bindRecordAt e)
  let q : Queued := match s.armedRecs.find? (fun x => x.1 == b) with
    | some x => if x.2.addr = at' then x.2 else { part := bindPart e, addr := at', record := 0, traps := [], armed := true, copies := none, caller := none }
    | none => { part := bindPart e, addr := at', record := 0, traps := [], armed := true, copies := none, caller := none }
  s.reread { q with armed := true, caller := none, spent := false }

/-- Whether a launch with a record at an address still waits, and whether an argument block at an address belongs to a launch that waits or runs
(R229, log 89). -/
def State.recordWaits (s : State) (addr : Word64) : Bool := s.privQueue.any (fun q => q.armed && q.addr == addr)
def State.argsHeld (s : State) (at' : Nat) : Bool :=
  (s.jobs.map (fun j => j.args) ++ s.privQueue.map (fun q => (launchJob q.part q.record).args)).any (fun a =>
    decide (a.toNat < at' + 2048 ∧ at' < a.toNat + 2048))

/-- A place for a fresh argument block. -/
def State.argsPlace (s : State) : Nat :=
  let at' (k : Nat) : Nat := 8 * (Config.freeNat s.fresh (3100 + k) % 2 ^ 54)
  at' (((List.range 64).find? (fun k => !s.argsHeld (at' k))).getD 0)

/-- The word of a fresh argument block: the old one's, and 0 for the word that receives the payload's address (R264). -/
def State.freshArg (s : State) (j : Job) (armword k : Nat) : Word64 := if k = armword then 0 else s.argWord j (BitVec.ofNat 8 k)

/-- Before a binding can fire again, Bilgil has built fresh copies and a fresh argument block for its record (R229, R264, log 89); while
the launch of an earlier firing still waits to be read, the record goes to a place of its own. -/
def State.renew (s : State) (b : Nat) : State :=
  match s.armedRecs.find? (fun x => x.1 == b) with
  | none => s
  | some (_, q0) =>
    if !q0.spent || q0.addr.toNat != bindRecordAt (s.bindings.get b) then s
    else
      let q := s.reread { q0 with armed := true }
      let j := launchJob q.part q.record
      let args := s.argsPlace
      let r := setField q.record 64 64 args
      let s1 := (List.range 256).foldl (fun acc k =>
        acc.storeWord j (BitVec.ofNat 64 (args + 8 * k)) (s.freshArg j (q.record.extractLsb' 784 8).toNat k)) s
      let d := match q.kernel with | some (_, _, d) => d | none => j.kernelVa
      let k := { launchJob q.part r with kdesc := BitVec.ofNat 2048 ((s1.readVaNat j.who d 256).getD 0) }
      let addr := if s.recordWaits q.addr then BitVec.ofNat 64 s1.ownPlace else q.addr
      let q1 := { q with addr := addr, record := r, copies := some (s1.launchCopies k q.kernel), spent := false }
      let e := addr ++ (s.bindings.get b).extractLsb' 0 448
      { s1.writeRecord addr.toNat q1 with
        armedRecs := s.armedRecs.map (fun x => if x.1 = b then (b, q1) else x), bindings := s.bindings.set b e }

/-- Fires a binding: ARMED clears, FIRES counts, the payload and its address are written, and the launch is queued. -/
def State.fireBinding (s0 : State) (b entry : Nat) (places : List Phys) (payload : List Byte) : State :=
  let s := s0.renew b
  let e := s.bindings.get b
  let q := s.boundRecord b
  let e1 : BitVec 512 := e.extractLsb' 256 256 ++ (e.extractLsb' 192 64 + 1) ++ e.extractLsb' 1 191 ++ 0#1
  let s1 : State := { s with
    bindings := s.bindings.set b e1
    armedRecs := s.armedRecs.map (fun x => if x.1 = b then (b, { x.2 with spent := true }) else x) }
  let s2 := s1.putBytes (bindPart e) (places.zip (leBytes (payload.length % 2 ^ 32 + 2 ^ 32 * entry) 16 ++ payload))
  let j := launchJob q.part q.record
  let s3 := s2.storeWord j (j.args + 8 * (q.record.extractLsb' 784 8).setWidth 64) (bindBufVa e + 16)
  { s3 with privQueue := s3.privQueue ++ [q] }

/-- A frame that matches an entry with ACTION 2 fires its binding, or takes the entry's FALLBACK. -/
def State.armedFrame (s : State) (entry : Nat) (e : BitVec 128) (f : List Byte) : State :=
  let b := stTarget e % 256
  let x := s.bindings.get b
  let fallback : State := match stFallback e with
    | 0 => { s with reports := s.reports ++ [.stackFrame f] }
    | 2 => s.ringWrite (stTarget e / 256 % 256) entry f
    | _ => s
  match udpOf f with
  | none => fallback
  | some (_, p) =>
    if !x.getLsbD 0 || decide (bindBufSize x < 16 + p.length) then fallback
    else
      match s.ipaPlaces (bindPart x) .write ((List.range (16 + p.length)).map (fun i => bindBufIpa x + i)) with
      | none => fallback
      | some ps => s.fireBinding b entry ps p

/-- FRAME_ARRIVAL. -/
def execFrameArrival (frame : List Byte) (s : State) : Out :=
  .next (
    match s.steer frame with
    | none => { s with reports := s.reports ++ [.stackFrame frame] }
    | some (i, e) =>
      match stAction e with
      | 0 => { s with reports := s.reports ++ [.stackFrame frame] }
      | 1 => s.ringWrite (stTarget e % 256) i frame
      | 2 => s.armedFrame i e frame
      | _ => s)

/-! ## Remote accesses (R177, R201) -/

/-- The place of a byte of a remote access: the endpoint's address is physical, a peer's goes through stage 2 of the partition that
its window names (R268). -/
def State.remotePlace (s : State) (tgt : RemoteAddr) (i : Nat) (u : Use) : Option Phys :=
  match tgt with
  | .host pa => (match regionOf (pa.toNat + i) with | .device => some { pa := pa.toNat + i, key := none } | _ => none)
  | .peer p ipa =>
    match s.homePlace { num := 0, enabled := true, module := Config.thisModule, part := p, base := ipa } i u with
    | .ok q => if s.parts.any (fun x => x.id == p.toNat && x.resetting) then none else some q
    | .error _ => none

/-- Writes the bytes of a remote write one after another, each where it translates. -/
def State.remoteWrite (s : State) (tgt : RemoteAddr) (i : Nat) : List Byte → State
  | [] => s
  | b :: bs => (match s.remotePlace tgt i .write with | some p => s.storeDevice p 1 b.toNat | none => s).remoteWrite tgt (i + 1) bs

/-- REMOTE_WRITE_ARRIVAL: a write of the host or of a peer to device memory. -/
def execRemoteWriteArrival (tgt : RemoteAddr) (bytes : List Byte) (s : State) : Out := .next (s.remoteWrite tgt 0 bytes)

/-- PEER_ATOMIC_ARRIVAL: the home agent performs it on an aligned element of device memory; the FMODE it came with is free. -/
def execPeerAtomicArrival (tgt : RemoteAddr) (ty : BitVec 5) (op : BitVec 4) (b c : Word64) (s : State) : Out :=
  let n := tyBits ty / 8
  let fm : BitVec 3 := BitVec.ofNat 3 (s.choose 0 8)
  .next (
    match s.remotePlace tgt 0 .write with
    | none => s
    | some p =>
      if op.toNat < 8 ∧ (tyAtom op.toNat).contains ty.toNat ∧ p.pa % n = 0 then
        (match (atomNew ty op.toNat (rmOf 0 fm) (subnOf fm) (s.deviceNat p 0 n) (b.toNat % 2 ^ (8 * n)) (c.toNat % 2 ^ (8 * n))).1 with
         | some v => s.storeDevice p n v
         | none => s.touchLine p)
      else s)

/-! ## Links and ports (R13, R268) -/

/-- FLIT_CRC_FAILURE: the adapter retries the flit. -/
def execFlitCrcFailure (d : BitVec 2) (s : State) : Out := .next (s.modDie d.toNat (fun x => { x with retries := x.retries + 1 }))

/-- UCIE_MODULE_FAILURE: the link runs on the rest; with its last module the die is lost. -/
def execUcieModuleFailure (d : BitVec 2) (m : BitVec 4) (s : State) : Out :=
  .next (
    match s.die? d.toNat with
    | none => s
    | some x =>
      if x.failed.getLsbD m.toNat then s
      else
        let f := x.failed ||| (1#16 <<< m.toNat)
        let s1 := { s.modDie d.toNat (fun y => { y with failed := f }) with reports := s.reports ++ [.moduleFailed d.toNat m] }
        if f = BitVec.allOnes 16 ∧ !x.lost then s1.loseDie d.toNat else s1)

/-- The groups of every partition that can take part no more end their waiting commands (R269). -/
def State.failGroups (s : State) : State :=
  (s.parts.flatMap (fun p => (p.groups.filter (fun g => s.groupBroken g)).map (fun g => (p.id, g.num)))).foldl
    (fun acc x => acc.failGroup x.1 x.2 true) s

/-- PORT_FAILURE: a module's port on a plane. -/
def execPortFailure (plane : BitVec 5) (module : BitVec 10) (s : State) : Out :=
  .next (
    let x := (module.toNat, plane.toNat)
    if plane.toNat < 24 ∧ !s.planes.contains x then ({ s with planes := s.planes ++ [x] } : State).failGroups else s)

/-! ## The control cores (R171, R202) -/

/-- What a RISC-V AMO writes: 0 swap, 1 add, 2 xor, 3 and, 4 or, 5 min, 6 max, 7 minu, 8 maxu. -/
def amoNew (w : Nat) (op : BitVec 4) (old v : BitVec w) : BitVec w :=
  match op.toNat with
  | 0 => v
  | 1 => old + v
  | 2 => old ^^^ v
  | 3 => old &&& v
  | 4 => old ||| v
  | 5 => if old.slt v then old else v
  | 6 => if old.slt v then v else old
  | 7 => if old < v then old else v
  | 8 => if old < v then v else old
  | _ => old

/-- A control core's party: kernel mode, no scalar instruction of a wave (R178), with what its hart has read ahead of host and peer memory
(R177). -/
def State.coreWho (s : State) (h : Nat) : Who :=
  { partyOf 16 with kernel := true, peeks := (s.hartPeeks.filter (fun x => x.1 == h)).map (fun x => x.2) }

/-- The place of a control core's access, which decides at the same homes as any agent's (R9): a peer window onto this module is its own memory.
DESIGN CHOICE (log 98): the access goes under no key, and none comes of it where a wave's would fault. -/
def State.corePlace (s : State) (pa : Nat) (u : Use) : Option Phys :=
  match s.checkPhys { partyOf 16 with kernel := true } pa 0 u with | .ok p => some p | .error _ => none

/-- What a control core reads: memory, the queue windows and the tables; the block-transfer aperture reads 0 (R178), and where there is no place, a
byte is free. -/
def State.coreNat (s : State) (w : Who) (pa : Nat) : Nat → Nat
  | 0 => 0
  | n + 1 =>
    (match s.corePlace pa .read with | some p => s.physByte w p 0 | none => Config.freeByte s.fresh pa).toNat + 256 * s.coreNat w (pa + 1) n

/-- A store of a control core, as any other store to its place; in host and peer memory it may arrive later (R177). -/
def State.corePut (s : State) (h pa n v : Nat) : State :=
  match s.corePlace pa .write with
  | none => s
  | some p => if s.arrivesLate (.phys p) then s.sendLate { wg := hartRef h } (.phys p) n v else s.perform (hartRef h) (.phys p) n v

/-- A store of `n` bytes of a control core: one access where it is naturally aligned, byte after byte elsewhere (log 74). -/
def State.coreStore (s : State) (h pa n v : Nat) : State :=
  if pa % n = 0 then s.corePut h pa n v
  else (List.range n).foldl (fun acc i => acc.corePut h (pa + i) 1 (byteOf v i).toNat) s

/-- A control core's load of `n` bytes; it takes the words that its hart has read ahead (R177). -/
def State.coreLoad (s : State) (h pa n : Nat) : Nat × State :=
  let words := (List.range n).filterMap (fun i => (s.corePlace (pa + i) .read).bind s.remoteWord)
  (s.coreNat (s.coreWho h) pa n, { s with hartPeeks := s.hartPeeks.filter (fun x => !(x.1 == h && words.contains x.2.1)) })

/-- The old value that an atomic of a control core finds, and the state in which it stores: remote writes to its word arrive before it
(R177). -/
def State.coreOld (s : State) (pa n : Nat) : Nat × State :=
  let t := match s.corePlace pa .write with | some p => s.landAt (.phys p) | none => s
  (t.coreNat { partyOf 16 with kernel := true } pa n, t)

/-- A hart's register takes a value; register 0 takes none. -/
def State.coreGets (s : State) (hart : Nat) (rd : BitVec 5) (v : Word64) : State :=
  if rd = 0 then s else { s with hartRegs := s.hartRegs.set (32 * hart + rd.toNat) v }

/-- A value of `8 * n` bits as RISC-V loads it: sign-extended, or zero-extended. -/
def coreExtend (n : Nat) (uns : Bool) (v : Nat) : Word64 :=
  if uns then BitVec.ofNat 64 v else (BitVec.ofNat (8 * n) v).signExtend 64

/-- A hart's counter passes an instruction of 4 bytes, or of 2 where it is compressed (log 74). -/
def State.corePast (s : State) (hart : Nat) (short : Bool) : State :=
  let n : Word64 := if short && s.choose 7 2 == 1 then 2 else 4
  { s with hartPcs := s.hartPcs.set hart (s.hartPcs.get hart + n) }

/-- A hart's floating-point register, vector register bytes, and control register (R3). -/
def State.coreGetsF (s : State) (hart : Nat) (fd : BitVec 5) (v : Word64) : State :=
  { s with hartFregs := s.hartFregs.set (32 * hart + fd.toNat) v }
def vectorKey (hart : Nat) (r : BitVec 5) (o : Nat) : Nat := 8192 * (32 * hart + r.toNat) + o % 8192
def State.coreGetsV (s : State) (hart : Nat) (vd : BitVec 5) (o n v : Nat) : State :=
  { s with hartVregs := (List.range n).foldl (fun m i => m.set (vectorKey hart vd (o + i)) (byteOf v i)) s.hartVregs }
def State.coreVec (s : State) (hart : Nat) (r : BitVec 5) (o n : Nat) : Nat := numAt (fun i => s.hartVregs.get (vectorKey hart r i)) o n

/-- One register write of an instruction without an access (log 74). -/
def State.coreWrite (s : State) (hart : Nat) (x : CoreReg × Word64) : State :=
  match x.1 with
  | .x r => s.coreGets hart r x.2
  | .f r => s.coreGetsF hart r x.2
  | .v r part => s.coreGetsV hart r (8 * part.toNat) 8 x.2.toNat
  | .csr n => { s with hartCsrs := s.hartCsrs.set (4096 * hart + n.toNat) x.2 }

/-- A word of host or peer memory as it stands. -/
def State.remoteValue (s : State) (w : RemoteWord) : Word64 := BitVec.ofNat 64 ((if w.1 then s.peerMem else s.hostMem).bytesNat (8 * w.2) 8)

/-- A hart reads a word of host or peer memory ahead of the load it belongs to (R177). -/
def State.hartPeek (s : State) (hart pa : Nat) : State :=
  match (s.corePlace pa .read).bind s.remoteWord with
  | none => s
  | some w => { s with hartPeeks := (hart, w, s.remoteValue w) :: s.hartPeeks.filter (fun x => !(x.1 == hart && x.2.1 == w)) }

/-- A FENCE with I or O in a set acts at system scope: the hart's remote writes arrive, and what it has read ahead counts no longer; another
FENCE orders nothing further (R171, R177). -/
def State.coreFence (s : State) (hart : Nat) (io : Bool) : State :=
  if io then { s.landGroup (hartRef hart) with hartPeeks := s.hartPeeks.filter (fun x => x.1 != hart) } else s

/-- CONTROL_CORE_ACCESS: an access of a hart, in its program order (R171); atomics are naturally aligned, LR and SC act on device memory, as R202
states, SC's result 0 where it succeeds. A vector access is its elements', and the instruction past it an `own` step; an `own` step is any other
instruction, or a trap of the hart's own, and says what it writes (R3, log 74). -/
def execControlCoreAccess (hart : BitVec 5) (pa : BitVec 44) (op : CoreOp) (s : State) : Out :=
  let a := pa.toNat
  let h := hart.toNat
  let free (t : State) : State := { t with reservations := t.reservations.filter (fun x => x.1 != h) }
  let aligned (size : BitVec 2) : Bool := decide (a % 2 ^ size.toNat = 0 ∧ 2 ≤ size.toNat)
  let lrsc (size : BitVec 2) : Bool := regionOf a == .device && aligned size
  .next (
    match op with
    | .load rd size uns =>
      let r := s.coreLoad h a (2 ^ size.toNat)
      (r.2.coreGets h rd (coreExtend (2 ^ size.toNat) uns r.1)).corePast h true
    | .store size v => (s.coreStore h a (2 ^ size.toNat) (v.toNat % 2 ^ (8 * 2 ^ size.toNat))).corePast h true
    | .loadF fd size =>
      let n := 2 ^ size.toNat
      let r := s.coreLoad h a n
      (r.2.coreGetsF h fd (BitVec.ofNat 64 (2 ^ 64 - 2 ^ (8 * n) + r.1))).corePast h true
    | .storeF fs size =>
      (s.coreStore h a (2 ^ size.toNat) ((s.hartFregs.get (32 * h + fs.toNat)).toNat % 2 ^ (8 * 2 ^ size.toNat))).corePast h true
    | .loadV vd elem size =>
      let n := 2 ^ size.toNat
      let r := s.coreLoad h a n
      r.2.coreGetsV h vd (n * elem.toNat) n r.1
    | .storeV vs elem size =>
      let n := 2 ^ size.toNat
      s.coreStore h a n (s.coreVec h vs (n * elem.toNat) n)
    | .own writes pc =>
      let t := writes.foldl (fun acc x => acc.coreWrite h x) s
      { t with hartPcs := t.hartPcs.set h pc }
    | .amo rd f size v =>
      if aligned size ∧ f.toNat ≤ 8 then
        let n := 2 ^ size.toNat
        let r := s.coreOld a n
        let new := (amoNew (8 * n) f (BitVec.ofNat (8 * n) r.1) (v.setWidth (8 * n))).toNat
        let t := match r.2.corePlace a .write with | some p => r.2.perform (hartRef h) (.phys p) n new | none => r.2
        (t.coreGets h rd (coreExtend n false r.1)).corePast h false
      else s
    | .lr rd size =>
      if lrsc size then
        let t := s.coreGets h rd (coreExtend (2 ^ size.toNat) false (s.coreNat (s.coreWho h) a (2 ^ size.toNat)))
        ({ free t with reservations := (free t).reservations ++ [(h, a / 128)] } : State).corePast h false
      else s
    | .sc rd size v =>
      if lrsc size then
        if s.reservations.contains (h, a / 128) then
          ((free (s.coreStore h a (2 ^ size.toNat) (v.toNat % 2 ^ (8 * 2 ^ size.toNat)))).coreGets h rd 0).corePast h false
        else ((free s).coreGets h rd 1).corePast h false
      else s
    | .fence io => (s.coreFence h io).corePast h false)

end Sys2Proof.Machine
end

