-- ==== Sys2Proof/Machine/Dispatch.lean ====
section
/-! DEFINITION. The dispatch: one arm per constructor of Instr, one meaning each. -/

namespace Sys2Proof.Machine

open Sys2Proof

/-- The meaning of an instruction at a state. -/
def exec (i : Instr) (s : State) : Host.Outcome State Fault Refusal :=
  match i with
  | .saddR d a b => Sys2Proof.Machine.execSaddR d a b s
  | .ssub d a b => Sys2Proof.Machine.execSsub d a b s
  | .smul d a b => Sys2Proof.Machine.execSmul d a b s
  | .smulh d a b => Sys2Proof.Machine.execSmulh d a b s
  | .sandR d a b => Sys2Proof.Machine.execSandR d a b s
  | .sorR d a b => Sys2Proof.Machine.execSorR d a b s
  | .sxorR d a b => Sys2Proof.Machine.execSxorR d a b s
  | .sshlR d a b => Sys2Proof.Machine.execSshlR d a b s
  | .sshrR d a b => Sys2Proof.Machine.execSshrR d a b s
  | .ssraR d a b => Sys2Proof.Machine.execSsraR d a b s
  | .smin d a b => Sys2Proof.Machine.execSmin d a b s
  | .smax d a b => Sys2Proof.Machine.execSmax d a b s
  | .scmp cc d a b => Sys2Proof.Machine.execScmp cc d a b s
  | .ssel c d a b => Sys2Proof.Machine.execSsel c d a b s
  | .saddI d a imm => Sys2Proof.Machine.execSaddI d a imm s
  | .sandI d a imm => Sys2Proof.Machine.execSandI d a imm s
  | .sorI d a imm => Sys2Proof.Machine.execSorI d a imm s
  | .sxorI d a imm => Sys2Proof.Machine.execSxorI d a imm s
  | .sshlI d a amt => Sys2Proof.Machine.execSshlI d a amt s
  | .sshrI d a amt => Sys2Proof.Machine.execSshrI d a amt s
  | .ssraI d a amt => Sys2Proof.Machine.execSsraI d a amt s
  | .sli d imm => Sys2Proof.Machine.execSli d imm s
  | .slui d a imm => Sys2Proof.Machine.execSlui d a imm s
  | .sld d a off => Sys2Proof.Machine.execSld d a off s
  | .sst d a off => Sys2Proof.Machine.execSst d a off s
  | .sldk d k => Sys2Proof.Machine.execSldk d k s
  | .sysrd d n => Sys2Proof.Machine.execSysrd d n s
  | .syswrExec a => Sys2Proof.Machine.execSyswrExec a s
  | .syswrFmode a => Sys2Proof.Machine.execSyswrFmode a s
  | .syswrFflags a => Sys2Proof.Machine.execSyswrFflags a s
  | .syswrPev a => Sys2Proof.Machine.execSyswrPev a s
  | .syswrEvmask a => Sys2Proof.Machine.execSyswrEvmask a s
  | .syswrReadonly a n => Sys2Proof.Machine.execSyswrReadonly a n s
  | .bc cond a off => Sys2Proof.Machine.execBc cond a off s
  | .bcMask cond m off => Sys2Proof.Machine.execBcMask cond m off s
  | .split m k off => Sys2Proof.Machine.execSplit m k off s
  | .jmp off => Sys2Proof.Machine.execJmp off s
  | .call off => Sys2Proof.Machine.execCall off s
  | .waitaddr cond a b => Sys2Proof.Machine.execWaitaddr cond a b s
  | .cpstart a b => Sys2Proof.Machine.execCpstart a b s
  | .cptest any d a b => Sys2Proof.Machine.execCptest any d a b s
  | .nop => Sys2Proof.Machine.execNop s
  | .endFrag => Sys2Proof.Machine.execEndFrag s
  | .yieldSlot => Sys2Proof.Machine.execYieldSlot s
  | .ret a => Sys2Proof.Machine.execRet a s
  | .reconv k => Sys2Proof.Machine.execReconv k s
  | .ifence => Sys2Proof.Machine.execIfence s
  | .efence scope => Sys2Proof.Machine.execEfence scope s
  | .entrydone => Sys2Proof.Machine.execEntrydone s
  | .exitdone => Sys2Proof.Machine.execExitdone s
  | .trap code => Sys2Proof.Machine.execTrap code s
  | .tret => Sys2Proof.Machine.execTret s
  | .svc n => Sys2Proof.Machine.execSvc n s
  | .svcret => Sys2Proof.Machine.execSvcret s
  | .smode m => Sys2Proof.Machine.execSmode m s
  | .tlbiPage a => Sys2Proof.Machine.execTlbiPage a s
  | .tlbiJob a => Sys2Proof.Machine.execTlbiJob a s
  | .tlbiPartition a => Sys2Proof.Machine.execTlbiPartition a s
  | .lissue n => Sys2Proof.Machine.execLissue n s
  | .ljump imm => Sys2Proof.Machine.execLjump imm s
  | .ljumpReg a => Sys2Proof.Machine.execLjumpReg a s
  | .rep imm => Sys2Proof.Machine.execRep imm s
  | .armBarrier n a off => Sys2Proof.Machine.execArmBarrier n a off s
  | .armBitmap n a off => Sys2Proof.Machine.execArmBitmap n a off s
  | .armMailbox n a off => Sys2Proof.Machine.execArmMailbox n a off s
  | .armPool n a off => Sys2Proof.Machine.execArmPool n a off s
  | .armAddr n a off => Sys2Proof.Machine.execArmAddr n a off s
  | .armReply n a off => Sys2Proof.Machine.execArmReply n a off s
  | .armTimer n a off => Sys2Proof.Machine.execArmTimer n a off s
  | .armBaton n a off => Sys2Proof.Machine.execArmBaton n a off s
  | .await slots => Sys2Proof.Machine.execAwait slots s
  | .disarm n => Sys2Proof.Machine.execDisarm n s
  | .barinit k => Sys2Proof.Machine.execBarinit k s
  | .bararrive a k => Sys2Proof.Machine.execBararrive a k s
  | .barwait k => Sys2Proof.Machine.execBarwait k s
  | .batonTake => Sys2Proof.Machine.execBatonTake s
  | .batonPass => Sys2Proof.Machine.execBatonPass s
  | .vadd f => Sys2Proof.Machine.execVadd f s
  | .vsub f => Sys2Proof.Machine.execVsub f s
  | .vmul f => Sys2Proof.Machine.execVmul f s
  | .vmulh f => Sys2Proof.Machine.execVmulh f s
  | .vmad f => Sys2Proof.Machine.execVmad f s
  | .vdiv f => Sys2Proof.Machine.execVdiv f s
  | .vrem f => Sys2Proof.Machine.execVrem f s
  | .vmin f => Sys2Proof.Machine.execVmin f s
  | .vmax f => Sys2Proof.Machine.execVmax f s
  | .vabs f => Sys2Proof.Machine.execVabs f s
  | .vand f => Sys2Proof.Machine.execVand f s
  | .vor f => Sys2Proof.Machine.execVor f s
  | .vxor f => Sys2Proof.Machine.execVxor f s
  | .vshl f => Sys2Proof.Machine.execVshl f s
  | .vshr f => Sys2Proof.Machine.execVshr f s
  | .vsra f => Sys2Proof.Machine.execVsra f s
  | .vpopc f => Sys2Proof.Machine.execVpopc f s
  | .vclz f => Sys2Proof.Machine.execVclz f s
  | .vctz f => Sys2Proof.Machine.execVctz f s
  | .vbrev f => Sys2Proof.Machine.execVbrev f s
  | .vbfe f => Sys2Proof.Machine.execVbfe f s
  | .vbfi f => Sys2Proof.Machine.execVbfi f s
  | .vcmp f => Sys2Proof.Machine.execVcmp f s
  | .vsel f => Sys2Proof.Machine.execVsel f s
  | .vmov f => Sys2Proof.Machine.execVmov f s
  | .vli f => Sys2Proof.Machine.execVli f s
  | .vlane f => Sys2Proof.Machine.execVlane f s
  | .fadd f => Sys2Proof.Machine.execFadd f s
  | .fsub f => Sys2Proof.Machine.execFsub f s
  | .fmul f => Sys2Proof.Machine.execFmul f s
  | .ffma f => Sys2Proof.Machine.execFfma f s
  | .fmin f => Sys2Proof.Machine.execFmin f s
  | .fmax f => Sys2Proof.Machine.execFmax f s
  | .fcmp f => Sys2Proof.Machine.execFcmp f s
  | .fclass f => Sys2Proof.Machine.execFclass f s
  | .fdiv f => Sys2Proof.Machine.execFdiv f s
  | .fsqrt f => Sys2Proof.Machine.execFsqrt f s
  | .frcp f => Sys2Proof.Machine.execFrcp f s
  | .frsq f => Sys2Proof.Machine.execFrsq f s
  | .fexp2 f => Sys2Proof.Machine.execFexp2 f s
  | .flog2 f => Sys2Proof.Machine.execFlog2 f s
  | .fsin f => Sys2Proof.Machine.execFsin f s
  | .fcos f => Sys2Proof.Machine.execFcos f s
  | .ftanh f => Sys2Proof.Machine.execFtanh f s
  | .cvt f => Sys2Proof.Machine.execCvt f s
  | .cvtn f => Sys2Proof.Machine.execCvtn f s
  | .qpack f => Sys2Proof.Machine.execQpack f s
  | .qunpack f => Sys2Proof.Machine.execQunpack f s
  | .vld f => Sys2Proof.Machine.execVld f s
  | .vst f => Sys2Proof.Machine.execVst f s
  | .vldb f => Sys2Proof.Machine.execVldb f s
  | .vstb f => Sys2Proof.Machine.execVstb f s
  | .vlds f => Sys2Proof.Machine.execVlds f s
  | .vsts f => Sys2Proof.Machine.execVsts f s
  | .vatom f => Sys2Proof.Machine.execVatom f s
  | .vpref f => Sys2Proof.Machine.execVpref f s
  | .xballot f => Sys2Proof.Machine.execXballot f s
  | .xbcast f => Sys2Proof.Machine.execXbcast f s
  | .xperm f => Sys2Proof.Machine.execXperm f s
  | .xred f => Sys2Proof.Machine.execXred f s
  | .xscan f => Sys2Proof.Machine.execXscan f s
  | .mand f => Sys2Proof.Machine.execMand f s
  | .mor f => Sys2Proof.Machine.execMor f s
  | .mxor f => Sys2Proof.Machine.execMxor f s
  | .mandn f => Sys2Proof.Machine.execMandn f s
  | .mnot f => Sys2Proof.Machine.execMnot f s
  | .mmov f => Sys2Proof.Machine.execMmov f s
  | .mpopc f => Sys2Proof.Machine.execMpopc f s
  | .mma f => Sys2Proof.Machine.execMma f s
  | .mvstream f => Sys2Proof.Machine.execMvstream f s
  | .bload f => Sys2Proof.Machine.execBload f s
  | .acczero f => Sys2Proof.Machine.execAcczero f s
  | .accread f => Sys2Proof.Machine.execAccread f s
  | .accwrite f => Sys2Proof.Machine.execAccwrite f s
  | .pinitCreate f => Sys2Proof.Machine.execPinitCreate f s
  | .pinitDestroy f => Sys2Proof.Machine.execPinitDestroy f s
  | .pput f => Sys2Proof.Machine.execPput f s
  | .ptake f => Sys2Proof.Machine.execPtake f s
  | .pstat f => Sys2Proof.Machine.execPstat f s
  | .rload f => Sys2Proof.Machine.execRload f s
  | .extensionOpcode op f => Sys2Proof.Machine.execExtensionOpcode op f s
  | .fqtail d v => Sys2Proof.Machine.execFqtail d v s
  | .fqdoneRetry d seq => Sys2Proof.Machine.execFqdoneRetry d seq s
  | .fqdoneKill d seq => Sys2Proof.Machine.execFqdoneKill d seq s
  | .sqtail d v => Sys2Proof.Machine.execSqtail d v s
  | .sqdone d seq => Sys2Proof.Machine.execSqdone d seq s
  | .sqrestart d => Sys2Proof.Machine.execSqrestart d s
  | .serviceFaultVerdict d v => Sys2Proof.Machine.execServiceFaultVerdict d v s
  | .freeze j wg => Sys2Proof.Machine.execFreeze j wg s
  | .thaw j wg => Sys2Proof.Machine.execThaw j wg s
  | .step fr count => Sys2Proof.Machine.execStep fr count s
  | .freezept j slot addr => Sys2Proof.Machine.execFreezept j slot addr s
  | .read w host => Sys2Proof.Machine.execRead w host s
  | .write w host => Sys2Proof.Machine.execWrite w host s
  | .checkpoint part graph area hold => Sys2Proof.Machine.execCheckpoint part graph area hold s
  | .restore part area => Sys2Proof.Machine.execRestore part area s
  | .log j area bytes mode => Sys2Proof.Machine.execLog j area bytes mode s
  | .reset part => Sys2Proof.Machine.execReset part s
  | .clusters part v => Sys2Proof.Machine.execClusters part v s
  | .parklimit part v => Sys2Proof.Machine.execParklimit part v s
  | .qos part v => Sys2Proof.Machine.execQos part v s
  | .clkstep d v => Sys2Proof.Machine.execClkstep d v s
  | .gate d v => Sys2Proof.Machine.execGate d v s
  | .margincommit d v => Sys2Proof.Machine.execMargincommit d v s
  | .registerWrite r v => Sys2Proof.Machine.execRegisterWrite r v s
  | .null c => Sys2Proof.Machine.execNull c s
  | .launch c => Sys2Proof.Machine.execLaunch c s
  | .stopgraph c => Sys2Proof.Machine.execStopgraph c s
  | .resumegraph c => Sys2Proof.Machine.execResumegraph c s
  | .rescreate c => Sys2Proof.Machine.execRescreate c s
  | .resdemote c => Sys2Proof.Machine.execResdemote c s
  | .resevict c => Sys2Proof.Machine.execResevict c s
  | .respromote c => Sys2Proof.Machine.execRespromote c s
  | .resfree c => Sys2Proof.Machine.execResfree c s
  | .map c => Sys2Proof.Machine.execMap c s
  | .unmap c => Sys2Proof.Machine.execUnmap c s
  | .armlaunch c => Sys2Proof.Machine.execArmlaunch c s
  | .protect c => Sys2Proof.Machine.execProtect c s
  | .teardown c => Sys2Proof.Machine.execTeardown c s
  | .attest c => Sys2Proof.Machine.execAttest c s
  | .mcload c => Sys2Proof.Machine.execMcload c s
  | .collgroup c => Sys2Proof.Machine.execCollgroup c s
  | .collfree c => Sys2Proof.Machine.execCollfree c s
  | .controlProgramCall c status result => Sys2Proof.Machine.execControlProgramCall c status result s
  | .launchStart queue => Sys2Proof.Machine.execLaunchStart queue s
  | .dieReport j d => Sys2Proof.Machine.execDieReport j d s
  | .completionSignal j => Sys2Proof.Machine.execCompletionSignal j s
  | .workgroupRetirement w => Sys2Proof.Machine.execWorkgroupRetirement w s
  | .dispatch w core => Sys2Proof.Machine.execDispatch w core s
  | .parkLimitExpiry j => Sys2Proof.Machine.execParkLimitExpiry j s
  | .preemptionRequest w k => Sys2Proof.Machine.execPreemptionRequest w k s
  | .drainLimitExpiry w => Sys2Proof.Machine.execDrainLimitExpiry w s
  | .copySquash w => Sys2Proof.Machine.execCopySquash w s
  | .saveCompletion w => Sys2Proof.Machine.execSaveCompletion w s
  | .exitDeadlineExpiry fr => Sys2Proof.Machine.execExitDeadlineExpiry fr s
  | .graphStopJob part => Sys2Proof.Machine.execGraphStopJob part s
  | .starvationBoost fr => Sys2Proof.Machine.execStarvationBoost fr s
  | .dataReturn fr => Sys2Proof.Machine.execDataReturn fr s
  | .postedStoreTranslation fr => Sys2Proof.Machine.execPostedStoreTranslation fr s
  | .faultQueueWrite d => Sys2Proof.Machine.execFaultQueueWrite d s
  | .serviceQueuePost d => Sys2Proof.Machine.execServiceQueuePost d s
  | .copyFire core chan => Sys2Proof.Machine.execCopyFire core chan s
  | .chunkLand cmd chunk => Sys2Proof.Machine.execChunkLand cmd chunk s
  | .copyCompletion cmd => Sys2Proof.Machine.execCopyCompletion cmd s
  | .collectiveResult cmd contribs => Sys2Proof.Machine.execCollectiveResult cmd contribs s
  | .timerTokenFire w slot => Sys2Proof.Machine.execTimerTokenFire w slot s
  | .poolSummary pool d => Sys2Proof.Machine.execPoolSummary pool d s
  | .poolCensus pool => Sys2Proof.Machine.execPoolCensus pool s
  | .tlbiCompletion id => Sys2Proof.Machine.execTlbiCompletion id s
  | .tlbiDrainExpiry id => Sys2Proof.Machine.execTlbiDrainExpiry id s
  | .freezePointHit fr => Sys2Proof.Machine.execFreezePointHit fr s
  | .stepEnd fr => Sys2Proof.Machine.execStepEnd fr s
  | .frameArrival frame => Sys2Proof.Machine.execFrameArrival frame s
  | .remoteWriteArrival tgt bytes => Sys2Proof.Machine.execRemoteWriteArrival tgt bytes s
  | .dieLoss d => Sys2Proof.Machine.execDieLoss d s
  | .flitCrcFailure d => Sys2Proof.Machine.execFlitCrcFailure d s
  | .ucieModuleFailure d m => Sys2Proof.Machine.execUcieModuleFailure d m s
  | .moduleReset => Sys2Proof.Machine.execModuleReset s
  | .powerLoss => Sys2Proof.Machine.execPowerLoss s
  | .firmwareFlip digest version signed => Sys2Proof.Machine.execFirmwareFlip digest version signed s
  | .floorRaise version signed => Sys2Proof.Machine.execFloorRaise version signed s
  | .thermalTrip => Sys2Proof.Machine.execThermalTrip s
  | .scrubUnit ctx => Sys2Proof.Machine.execScrubUnit ctx s
  | .controlCoreAccess hart pa op => Sys2Proof.Machine.execControlCoreAccess hart pa op s
  | .peerAtomicArrival tgt ty op b c => Sys2Proof.Machine.execPeerAtomicArrival tgt ty op b c s
  | .portFailure plane module => Sys2Proof.Machine.execPortFailure plane module s
  | .peerGroupChange part group rank created => Sys2Proof.Machine.execPeerGroupChange part group rank created s
  | .marginProposal d v => Sys2Proof.Machine.execMarginProposal d v s

end Sys2Proof.Machine
end

