-- ==== Sys2Proof/Machine/Turns.lean ====
section
/-! DEFINITION. Whose turn it is and what a turn does: issue of a fragment's next instruction, events, cached translations
and fetched blocks, and what follows every step (R21, R22, R33, R160, R176, R192, R230, R242, R248, R254, R258; log 1). -/

namespace Sys2Proof.Machine

open Sys2Proof

/-! ## Issue (R21, R33, R230) -/

/-- A slot that issues: an ACTIVE one, and one parked in WAITADDR, which reads again (R190). -/
def Frag.issues (f : Frag) : Bool := f.slot == .active || f.slot == .parked .waitaddr

/-- Whether a workgroup still replays squashed commands, ahead of its fragments (R248). -/
def State.replaying (s : State) (g : Wg) : Bool := s.cmds.any (fun c => g.replay.contains c.id && c.wg == g.ref)

/-- Whether a fragment's workgroup lets it issue at all: on a core, not stopped by a save, and not frozen at its point. In FALLBACK a
fragment that has not vectored goes on to its point (R241, R242). -/
def State.mayIssue (s : State) (c : Cur) : Bool :=
  decide (c.g.die < 4) && !s.replaying c.g
    && (match c.g.state with | .running | .draining _ | .resuming | .saving _ => true | .fallback _ => c.f.routine == .none | _ => false)
    && !(c.g.frozen && c.f.steps.isNone && c.f.routine == .none && (c.f.held || c.f.atPoint))

/-- Whether a fragment may issue a scalar instruction: not on its way to its point, not past EXITDONE, and with a step left
where it steps (R242, R245, R254). -/
def Cur.scalarMay (c : Cur) : Bool :=
  !c.draining && (match c.f.routine with | .exit _ _ d => !d | _ => true) && c.f.steps != some 0

/-- A fragment that has something to issue. -/
def State.canIssue (s : State) (c : Cur) : Bool :=
  c.f.issues && s.mayIssue c && (!c.f.queue.isEmpty || c.scalarMay)

/-- Whether the core of a workgroup has issued in this cycle. -/
def State.coreBusy (s : State) (g : WgRef) : Bool :=
  match s.wg? g with | none => false | some x => (s.coreFrags x.die x.core).any (fun f => f.issuedAt == s.cycle)

/-- The cycle in which a fragment of a workgroup issues next: a core issues once in a cycle (R33, log 1). -/
def State.issueCycle (s : State) (g : WgRef) : Nat := if s.coreBusy g then s.cycle + 1 else s.cycle

/-- The state in which a fragment's instruction issues. -/
def State.issueBy (s : State) (f : Frag) (q : QEntry) : State :=
  let now := s.issueCycle f.ref.wave.wg
  { s.setFrag { f with issuedAt := now, boost := false } with cycle := now, cur := some f.ref, issue := q }

/-- Whether an instruction has left its fragment as it was, the repeat count in RPTC apart. -/
def stalledAt (before after : Frag) : Bool := { after with rptc := before.rptc } == before

/-- Whether a fragment is on the way from its issue to its end as if it had not issued: its instruction waits, or only stalls, and executes again, or
it is a LISSUE that stands for the word that fails. A branch to itself does not stall. -/
def standsStill (i : Instr) (before after : Frag) : Bool :=
  let branches := match i with | .bc _ _ _ | .bcMask _ _ _ | .jmp _ | .call _ | .ret _ | .split _ _ _ => true | _ => false
  match after.slot with
  | .parked (.page _ _) | .parked .store | .parked .waitaddr | .waiting _ => true
  | _ => (after.lissue.isSome && after.lissue != before.lissue) || (!branches && stalledAt before after)

/-- A stepping fragment counts an instruction, unless it waits there and will execute it again; one that has issued may stop at a freeze point again
(R254). -/
def Frag.counted (f : Frag) (still : Bool) : Frag :=
  if still then f else { f with passPoint := false, steps := match f.steps with | some (n + 1) => some n | x => x }

/-- What the first instruction after a denial shows of a fragment that was parked: it parks again, or its wait is over, which is a
wake (R37); one that stalls, or stops at its point, shows nothing yet. -/
def State.afterPark (s : State) (f : Frag) (stalled : Bool) : State :=
  if !f.repark || stalled then s
  else
    match s.frag? f.ref with
    | none => s.noteWake f.ref.wave.wg.job
    | some x =>
      if x.held then s
      else
        let s1 := s.modFrag f.ref (fun y => { y with repark := false })
        if x.inWait then s1 else s1.noteWake f.ref.wave.wg.job

/-- What follows the issue of a fragment's instruction, from the state in which it issued: it is counted where it steps, its park, its fresh walk and
what was read ahead of its walks are over unless it stalls (R37, R163, R166, R254). -/
def State.afterIssue (t : State) (before : State) (r : FragRef) (i : Instr) (scalar : Bool) : State :=
  match before.frag? r, t.frag? r with
  | some f, some x =>
    let still := standsStill i f x
    let stalled := still && stalledAt f x
    (t.modFrag r (fun y =>
      let z := if stalled then y else { y with afresh := false, walked := [] }
      if scalar then z.counted still else z)).afterPark f stalled
  | some f, none => t.afterPark f false
  | none, _ => t

/-- Issues an instruction of a fragment. -/
def State.issueInstr (s : State) (r : FragRef) (q : QEntry) (i : Instr) (scalar : Bool) (run : Instr → State → Out) : Out :=
  match s.frag? r with
  | none => .next s
  | some f =>
    let s1 := s.issueBy f q
    match run i s1 with
    | .next t => .next (t.afterIssue s1 r i scalar)
    | .fault e => .fault e
    | .refused e => .refused e

/-- Issues an instruction of a fragment, once what it waits for of the fragment's matrix work has entered the engine (R140). -/
def State.issueAfter (s : State) (r : FragRef) (q : QEntry) (i : Instr) (scalar : Bool) : Out :=
  (s.enterBefore r i).issueInstr r q i scalar exec

/-- Issues the lane instruction at the head of the queue. -/
def State.issueLane (s : State) (c : Cur) (q : QEntry) : Out :=
  match q.instr with
  | some i => s.issueAfter c.f.ref q i false
  | none => .next (s.trapLane c (c.active 0) fltIllegal 0x00)

/-- A word of LISSUE, whatever its must-be-0 fields hold (R45). -/
def isLissue (w : BitVec 32) : Bool := w.extractLsb' 26 6 == 0x19 && fieldD w == 0

/-- A word, whatever its must-be-0 fields hold, of an instruction that waits for the fragment's posted stores (R164, R281). -/
def isMemory (w : BitVec 32) : Bool :=
  [0x14, 0x15, 0x16, 0x1A, 0x1B, 0x1D, 0x1E].contains (w.extractLsb' 26 6).toNat
    || (w.extractLsb' 26 6 == 0x18 && [0x05, 0x06, 0x09, 0x0B, 0x0C, 0x0E].contains (fieldD w).toNat)

/-- A scalar word that decodes to nothing (R46). Directly after REP a word that is no LISSUE is REP misuse, which comes before the
word's own checks (R64, log 82); a LISSUE takes its own check (R320). In an exit routine it is an overrun (R245). The trap of a reserved field waits
for the posted stores where the instruction does (R281). -/
def State.badScalar (s : State) (c : Cur) (w : BitVec 32) (e : BadCode) : State :=
  let wait (t : State) : State := if e = .reservedBit ∧ isMemory w then s.afterStores c t else t
  if c.f.rep.isSome && !isLissue w then wait (s.repMisuse c)
  else if c.f.exiting then s.exitOverrun c
  else wait (s.trapScalar c fltIllegal e.sub)

/-- Runs a scalar word at a fragment. -/
def State.runScalar (s : State) (c : Cur) (w : BitVec 32) : Out :=
  match decodeScalar w with
  | .error e => .next (s.badScalar c w e)
  | .ok i => s.issueAfter c.f.ref {} i true

/-- Issues the scalar instruction at SPC; at a freeze point the workgroup freezes instead, and a stepping fragment stands
still again (R254). -/
def State.issueScalar (s : State) (c : Cur) : Out :=
  if c.freezeHere && c.g.frozen then
    .next ((s.modFrag c.f.ref (fun f => { f with steps := none })).freezeIf c.f.ref)
  else if c.freezeHere && c.g.canFreeze then .next (s.freezeGroup c.g.ref)
  else
    match s.fetchScalar c with
    | .error e => .next (s.pageScalar c e c.f.spc .fetch)
    | .ok w =>
      let x := s.afterFetch c.w (blockKey false (scalarBlock c.f.spc))
      (s.setWave x).runScalar { c with w := x } w

/-- A fragment's turn: the head of its lane queue first, else its next scalar instruction (R21). -/
def State.runFrag (s : State) (r : FragRef) : Out :=
  match s.look r with
  | none => .next s
  | some c =>
    if !s.canIssue c then .next s
    else
      match c.f.queue with
      | q :: _ => s.issueLane c q
      | [] => s.issueScalar c

/-! ## Other turns -/

/-- The lane instruction at the head of a fragment's queue, where the fragment issues. -/
def State.headLane (s : State) (r : FragRef) : Option (Lane × Instr) :=
  match s.look r with
  | none => none
  | some c =>
    match c.f.queue with
    | [] => none
    | q :: _ => if s.canIssue c then q.instr.map (fun i => (q.lane c, i)) else none

/-- One lane of the memory or pool instruction at the head of a fragment's queue is performed before the instruction issues as a whole (R168,
R212). -/
def State.laneAhead (s : State) (r : FragRef) (l : Nat) : State :=
  match s.headLane r with | none => s | some (x, i) => s.aheadOf x i l

/-- A BLOAD or an MMA at the head of a fragment's queue issues, and enters the engine later (R140, log 107). -/
def State.matrixLate (s : State) (r : FragRef) : Out :=
  match s.headLane r with
  | none => .next s
  | some (x, i) => match i with | .bload _ | .mma _ => s.issueInstr r x.q i false matrixLater | _ => .next s

/-- A fragment reads a word of host or peer memory ahead of the instruction it belongs to (R177). -/
def State.peek (s : State) (r : FragRef) (va : Word64) : State :=
  match s.look r with
  | none => s
  | some c =>
    if 4 ≤ c.g.die then s
    else
      match s.translate { s.who c false with own := none } va .read with
      | .error _ => s
      | .ok p =>
        match s.remoteWord p with
        | none => s
        | some w => s.setFrag { c.f with peeks := (s.fresh, w, s.remoteValue w) :: c.f.peeks.filter (fun x => x.2.1 != w) }

/-- The next page-table read of a fragment's next access comes ahead of it: of its oldest posted store, or of the instruction it is to issue
(R166). -/
def State.walkRead (s : State) (r : FragRef) (va : Word64) : State :=
  match s.look r with
  | none => s
  | some c =>
    if 4 ≤ c.g.die ∨ s.behindStores c.f ∨ (c.f.posted.isEmpty ∧ !s.canIssue c) then s
    else s.setFrag { c.f with walked := s.readOn (s.who c true) va }

/-- Whether an entry of the table is an event or an input, not an instruction that a fragment issues. -/
def isEvent (i : Instr) : Bool := (encode i).isNone && (match i with | .extensionOpcode _ _ => false | _ => true)

/-- A slot's effective priority. -/
def Cur.prio (c : Cur) : Nat := if c.f.boost then 4 else rolePrio c.role

/-- Whether a slot ranks above another: priority first, then age, a wave's first fragment before its detached ones (R230). -/
def Cur.above (a b : Cur) : Bool :=
  let key (c : Cur) : List Nat :=
    [4 - c.prio, c.g.order, c.w.ref.wave, (if c.f.first then 0 else 1), c.f.order]
  decide (key a < key b)

/-- The slots of a core by rank. -/
def State.ranked (s : State) (die core : Nat) (test : Cur → Bool) : List Cur :=
  (((s.coreFrags die core).filterMap (fun f => s.look f.ref)).filter test).mergeSort (fun a b => !b.above a)

/-- Whether a fragment's instruction would issue to no effect, as a stall does: the fragment stays as it is. -/
def State.stalls (s : State) (c : Cur) : Bool :=
  match s.runFrag c.f.ref with
  | .next t => (t.modFrag c.f.ref (fun f => { f with issuedAt := c.f.issuedAt, boost := c.f.boost })).frags == s.frags
  | _ => false

/-- Whether a slot is the highest-ranked READY one of its core (R230). -/
def State.firstReady (s : State) (c : Cur) : Bool :=
  c.f.slot == .ready && (s.coreFrags c.g.die c.g.core).all (fun f =>
    f.slot != .ready || (match s.look f.ref with | some x => !x.above c | none => true))

/-- The ACTIVE slot that gives its place in a full active set to one that has risen to priority 4: one that stalls, the lowest-ranked of them, or the
lowest-ranked of all below it (R34, log 1). -/
def State.givesWay (s : State) (c : Cur) (act : List Cur) : Option Cur :=
  (act.reverse.find? s.stalls).or (act.getLast?.filter c.above)

/-- How a slot may move into the active set: the highest-ranked READY one takes a free place of the 8 (R33, R230); in a full set one that has risen to
priority 4, and would not stall, takes the place of another, so that every slot issues (R34, log 1). The answer names that other. -/
def State.activates (s : State) (c : Cur) : Option (Option Cur) :=
  let act := s.ranked c.g.die c.g.core (fun x => x.f.slot == .active)
  if 4 ≤ c.g.die ∨ c.f.slot ≠ .ready then none
  else if act.length < 8 then (if s.firstReady c then some none else none)
  else if c.f.boost && !(s.setFrag { c.f with slot := .active }).stalls { c with f := { c.f with slot := .active } } then (s.givesWay c act).map some
  else none

/-- A READY slot moves into the active set. -/
def State.activate (s : State) (r : FragRef) : State :=
  match s.look r with
  | none => s
  | some c =>
    match s.activates c with
    | none => s
    | some x =>
      let s1 := match x with | none => s | some l => s.setFrag { l.f with slot := .ready }
      s1.setFrag { c.f with slot := .active }

/-- A translation is cached, as the leaves of both stages give it; a walk that fails leaves nothing (R160). -/
def State.tlbFill (s : State) (j : Job) (va : Word64) : State :=
  if va.extractLsb' 57 7 ≠ 0 ∨ s.inSaveWindow j.ref.part va.toNat then s
  else
    match s.walk1 j.ref.part va.toNat [0, 1, 2, 3, 4] (j.s1root % 2 ^ 44) with
    | .error _ => s
    | .ok (ipa, b1) =>
      match s.stage2 j.ref.part ipa with
      | .error _ => s
      | .ok (pa, b2) =>
        { s with tlb := s.tlb ++ [
          { job := j.ref, page := va.toNat / 65536, ipage := ipa / 65536, ppage := pa / 65536, leaf1 := b1, leaf2 := b2 }] }

/-- A wave takes a version of a fetch block: a lane block has 48 bytes, a scalar one 64 (R39, R176). -/
def State.blockFill (s : State) (w : WaveRef) (lane : Bool) (va : Word64) : State :=
  match (s.fragsOf w).head?.bind (fun f => s.look f.ref) with
  | none => s
  | some c => if lane then s.fillFetch c true (c.j.laneBlock va) 48 else s.fillFetch c false (scalarBlock va) 64

/-- A turn. Without power only a reset comes to pass (R276). -/
def State.runTurn (s : State) : Turn → Out
  | .event i => if isEvent i && (s.firmware.powered || i == .moduleReset) then exec i s else .next s
  | .frag r => s.runFrag r
  | .time n => .next { s with cycle := s.cycle + n }
  | .activate r => .next (s.activate r)
  | .miss r => .next (s.modFrag r (fun f => if f.slot = .active then { f with slot := .waiting .miss } else f))
  | .tlbFill j va => .next (match s.job? j with | some x => s.tlbFill x va | none => s)
  | .fetchFill w lane va => .next (s.blockFill w lane va)
  | .tokens w => .next (s.refreshWave w)
  | .lane r l => .next (s.laneAhead r l)
  | .storePiece r k => .next (s.storePiece r k)
  | .snapshot r sp a => .next (s.snapshot r sp a)
  | .engineRead c o => .next (s.engineRead c o)
  | .engineWrite c o => .next (s.engineWrite c o)
  | .arrive k => .next (s.arrive k)
  | .readAhead r sp a => .next (match s.headLane r with | none => s | some (x, i) => s.readAhead x i sp a)
  | .peek r va => .next (s.peek r va)
  | .walkRead r va => .next (s.walkRead r va)
  | .engineWalk c va => .next (s.engineWalk c va)
  | .hartPeek h pa => .next (s.hartPeek h pa)
  | .matrixLate r => s.matrixLate r
  | .enterEngine g k => .next (s.enterEngine g k)

/-! ## The choice of a turn (R230) -/

/-- The highest-ranked slot that a test accepts. -/
def State.highest (s : State) (test : Cur → Bool) : Option Cur :=
  (s.frags.filterMap (fun f => s.look f.ref)).foldl (fun best c =>
    if !test c then best else match best with | none => some c | some b => if c.above b then some c else best) none

/-- The events that let waiting fragments go on: posted stores translate, data returns, commands fire, land and complete, TLBIs complete (R34). -/
def State.pending (s : State) : List Instr :=
  (s.frags.filter (fun f => f.posted.any (fun p => p.fault.isNone && !p.killed))).map (fun f => .postedStoreTranslation f.ref)
    ++ (s.frags.filter (fun f => match f.slot with | .waiting _ => true | _ => false)).map (fun f => .dataReturn f.ref)
    ++ s.wgs.flatMap (fun g => g.orphans.map (fun x => .postedStoreTranslation x.1))
    ++ s.cmds.flatMap (fun c =>
      if !c.fired && c.error.isNone then [.copyFire (BitVec.ofNat 8 c.core) (BitVec.ofNat 3 c.chan)]
      else ((List.range (tmplChunks c.tmpl)).find? (fun i => !c.landed.contains i || c.bitDue == some i)).toList.map (fun i =>
        .chunkLand c.id i) ++ [.copyCompletion c.id])
    ++ s.tlbis.flatMap (fun t => [.tlbiCompletion t.id, .tlbiDrainExpiry t.id])

/-- Whether an event changes the state. -/
def State.moves (s : State) (i : Instr) : Bool := match exec i s with | .next t => t != s | _ => false

/-- A turn of what goes on beside the fragments' issue: a pending event, matrix work's entry into the engine, a remote write's arrival. -/
def State.background (s : State) : Option Turn :=
  match s.pending.find? s.moves with
  | some i => some (.event i)
  | none =>
    match s.wgs.find? (fun g => !g.engine.isEmpty) with
    | some g => some (.enterEngine g.ref 0)
    | none => if s.remote.isEmpty then none else some (.arrive 0)

/-- The highest-ranked slot of all that issues and does not stall, on a core that has not issued in this cycle, which is the highest-ranked of its core
and kind (R33, R230); a fragment parked in WAITADDR reads again where its read now ends the wait (R190). -/
def State.foremost (s : State) : Option Turn :=
  (s.highest (fun c => s.canIssue c && !s.coreBusy c.g.ref && !s.stalls c)).map (fun c => .frag c.f.ref)

/-- The turn that comes where the agenda holds none: the rise of a slot that has waited 64 cycles, a READY slot's move into
the active set, else a fragment's issue and the background by turns, so that neither keeps the other waiting, or a cycle (R34, log 1). -/
def State.defaultTurn (s : State) : Turn :=
  match s.frags.find? (fun f => s.starves f && !f.boost) with
  | some f => .event (.starvationBoost f.ref)
  | none =>
    match s.highest (fun c => (s.activates c).isSome) with
    | some c => .activate c.f.ref
    | none => ((if s.fresh % 2 = 0 then s.foremost.or s.background else s.background.or s.foremost).getD (.time 1))

/-! ## What follows every step -/

/-- Fragments of saving workgroups that have come to their points vector, those of frozen ones stand still (R242, R254). -/
def State.settlePoints (s : State) : State :=
  (s.frags.map (fun f => f.ref)).foldl (fun acc r => (acc.vectorIf r).freezeIf r) s

/-- A service workgroup all of whose waves have ended is dispatched again at once (R258). -/
def State.redispatch (s : State) : State :=
  (s.wgs.filter (fun g => g.ref.job.part == 16)).foldl (fun acc g =>
    match acc.job? g.ref.job with
    | some j => if acc.wgFinished g.ref then ((acc.settleOrphans g j).carve j g.ref g.die g.core 0).sqRestart g.die else acc
    | none => acc) s

/-- Resumed workgroups none of whose fragments runs an entry routine any longer, after its ENTRYDONE or its END, run (R241, R309). -/
def State.settleResumes (s : State) : State :=
  ((s.wgs.filter (fun g => g.state == .resuming)).map (fun g => g.ref)).foldl (fun acc r => acc.resumed r) s

/-- Matrix work enters the engine where its workgroup no longer runs on, or its fragment is gone (R140, R242). -/
def State.settleEngine (s : State) : State :=
  ((s.wgs.filter (fun g => !g.engine.isEmpty)).map (fun g => g.ref)).foldl (fun acc r =>
    let runs := match acc.wg? r with
      | some g => decide (g.die < 4) && !g.frozen && (match g.state with | .running | .draining _ | .resuming => true | _ => false)
      | none => false
    acc.enterIf r (fun m => !runs || !acc.frags.any (fun f => f.ref == ({ wave := { wg := r, wave := m.wave }, frag := m.frag } : FragRef)))) s

/-- The atomics that a fragment left half performed are performed to their end (R199). -/
def State.settleAtoms (s : State) : State :=
  ((s.wgs.filter (fun g => !g.halfway.isEmpty)).map (fun g => g.ref)).foldl State.finishHalfway s

/-- What follows a step: matrix work and atomics of fragments that do not go on, points, resumes, the service job, the remote writes of workgroups that are gone, and the tokens of every wave (R192). -/
def State.afterStep (s : State) : State := s.settleAtoms.settleEngine.settlePoints.settleResumes.redispatch.settleRemote.refresh

end Sys2Proof.Machine
end

