-- ==== Sys2Proof/Machine/Step.lean ====
section
/-! DEFINITION. One step: the turn at the head of the agenda (or the default one) is taken, and what follows
a step follows (log 1). Beside it, an instruction placed where the next step fetches (log 43). -/

namespace Sys2Proof.Machine

open Sys2Proof

/-- The free-value counter advances (log 5); a cycle passes where a core issues again, and by itself (`State.issueBy`, `Turn.time`). -/
def State.tick (s : State) : State := { s with fresh := s.fresh + 1 }

/-- The turn a step takes, and the state that has taken it from the agenda. -/
def State.nextTurn (s : State) : Turn × State :=
  match s.agenda with
  | t :: ts => (t, { s with agenda := ts })
  | [] => (s.defaultTurn, s)

/-- One step. -/
def step (s : State) : Host.Outcome State Fault Refusal :=
  let n := s.tick.nextTurn
  match n.2.runTurn n.1 with
  | .next t => .next t.afterStep
  | .fault r => .fault r
  | .refused r => .refused r

/-- The fragment that `withFetchWord` places. -/
def placedRef : FragRef := { wave := { wg := { job := { part := 0, id := 0 }, wg := 0 }, wave := 0 }, frag := 0 }

/-- Where its scalar and lane code stand, virtual and physical alike. -/
def placedScalar : Nat := 0x100000
def placedLane : Nat := 0x200010

/-- The launch record and kernel descriptor of the placed job: one wave of width 32 with every register, all panels. -/
def placedJob : Job :=
  let at' (v lo : Nat) : BitVec 2048 := BitVec.ofNat 2048 v <<< lo
  let rec' : BitVec 2048 := at' 1 128 ||| at' 0x3000 320 ||| at' 128 648
  let role : BitVec 2048 := at' 1 64 ||| at' 8 72 ||| at' 256 80 ||| at' 64 96
  let desc : BitVec 2048 := at' 32 256 ||| at' 1 264 ||| at' 0x80000 288 ||| at' placedScalar 320 ||| at' placedLane 384
    ||| at' 0x10000 448 ||| at' 0xC000 480 ||| (role <<< 1088)
  { ({ part := 0, addr := 0, record := rec', traps := [], armed := false, copies := none, caller := none } : Queued).job 0 0 with kdesc := desc }

/-- Page tables that map the first GiB, at both stages, to itself, and a scalar word at the placed address. -/
def placedMem (w : Nat) : Sparse 8 → Sparse 8 := fun m =>
  ((((((m.setBytes 0x1000 8 0x2003).setBytes 0x2000 8 0x0D).setBytes 0x3000 8 0x4003).setBytes 0x4000 8 0x5003).setBytes 0x5000 8 0x0D)).setBytes
    placedScalar 4 w

/-- The state with an instruction where the next step fetches: a job with one wave is loaded and running, and the turn is its
fragment's. A word of up to 32 bits stands at SPC; a wider one at the head of the lane queue (log 43). -/
def State.withFetchWord (s : State) (nbits w : Nat) : State :=
  let j := placedJob
  let g := placedRef.wave.wg
  let lane := decide (32 < nbits)
  let f := { j.freshFrag g 0 0 1 s.cycle with
    spc := BitVec.ofNat 64 placedScalar, lpc := BitVec.ofNat 64 placedLane, slot := .active
    queue := if lane then [{ word := BitVec.ofNat 96 (w % 2 ^ nbits), addr := BitVec.ofNat 64 placedLane }] else [] }
  let s1 := s.modPart 0 (fun p => { p with s2root := 0x1000 })
  { s1 with
    mem := placedMem (if lane then 0 else w % 2 ^ nbits) s1.mem
    jobs := j :: s1.jobs, wgs := j.freshWg g 0 1 0 :: s1.wgs, waves := j.freshWave g 0 0 :: s1.waves, frags := f :: s1.frags
    serial := s1.serial + 2, agenda := .frag placedRef :: s1.agenda }

end Sys2Proof.Machine
end

