-- ==== Sys2Proof/Safety.lean ====
section
/-! DEFINITION. The vocabulary of claims: when an instruction is ready to have its own effect, what a result looks like, what
two states have in common, and what holds of every safe state. -/

/-- An instruction that a program's own code can hold: it has an encoding. -/
def Sys2Proof.Instr.coded (i : Sys2Proof.Instr) : Bool := (Sys2Proof.encode i).isSome

/-- The destination of a register-only scalar instruction, one that writes a scalar register, a counter or FMODE and touches no
memory; none for other instructions. -/
def Sys2Proof.Instr.scalarDest : Sys2Proof.Instr → Option (Option (BitVec 6))
  | .saddR d _ _ | .ssub d _ _ | .smul d _ _ | .smulh d _ _ | .sandR d _ _ | .sorR d _ _ | .sxorR d _ _ | .sshlR d _ _
  | .sshrR d _ _ | .ssraR d _ _ | .smin d _ _ | .smax d _ _ | .scmp _ d _ _ | .ssel _ d _ _ | .saddI d _ _ | .sandI d _ _
  | .sorI d _ _ | .sxorI d _ _ | .sshlI d _ _ | .sshrI d _ _ | .ssraI d _ _ | .sli d _ | .slui d _ _ | .sldk d _ => some (some d)
  | .ljump _ | .ljumpReg _ | .smode _ | .nop | .bc _ _ _ | .bcMask _ _ _ | .jmp _ | .ret _ => some none
  | _ => none

namespace Sys2Proof.Machine

open Sys2Proof

/-! ## When an instruction has its own effect -/

/-- The surroundings of the instruction at issue are `c`, and no REP stands before it (R64). -/
def Issues (s : State) (c : Cur) : Prop := s.current = some c ∧ c.f.rep = none

/-- As `Issues`, in no exit routine (R245). -/
def Plain (s : State) (c : Cur) : Prop := Issues s c ∧ c.f.exiting = false

/-- The registers lie in the allotment of the wave's role (R17, R46). -/
def Cur.has (c : Cur) (rs : List (BitVec 6)) : Prop := ∀ r ∈ rs, r.toNat < roleSregs c.role

/-- No scalar register of the list is poisoned (R249). -/
def Cur.clean (c : Cur) (rs : List (BitVec 6)) : Prop := ∀ r ∈ rs, c.f.sPoisoned r = false

/-- Every store the fragment, or its parent before the SPLIT, has posted is performed (R28, R164). -/
def Settled (s : State) (c : Cur) : Prop := c.f.posted = [] ∧ s.behindStores c.f = false

/-- The job of the fragment neither records nor replays (R257). -/
def Cur.unlogged (c : Cur) : Prop := c.j.log.mode ≠ 1 ∧ c.j.log.mode ≠ 2

/-- A lane instruction of an opcode is at issue with its mask select clean, and an exit routine permits it (R245, R249). -/
structure LaneReady (s : State) (c : Cur) (op : BitVec 10) (f : LaneOps) : Prop where
  current : s.current = some c
  permitted : c.f.exiting = false ∨ exitLane op = true
  clean : c.w.mPoisoned f.msel.toNat c.f.exec = false

/-- The lane instruction as it issues: its active lanes, and the operands it was enqueued with (R21, R51). -/
def laneAt (s : State) (c : Cur) (f : LaneOps) : Lane :=
  { c := { c with f := c.f.laneBegin }, f := f, q := s.issue, act := c.active f.msel, width := c.j.width }

/-- The `n` bytes from a translated place stand in device memory, in lines written under the page's key (R10, R159). -/
def PlainBytes (s : State) (p : Phys) (n : Nat) : Prop :=
  ∀ i, i < n → regionOf (p.pa + i) = .device ∧ s.lineKey.get ((p.pa + i) / 128) = s.keyTag p.key

/-- An element of a lane's access holds `v`: it stands in the workgroup's scratchpad outside the stash windows, or translates
to plain device memory (R151, R155, R158). -/
def Holds (s : State) (c : Cur) (u : Use) (e : Piece) (v : Nat) : Prop :=
  if e.scratch then c.g.stashAddr e.addr.toNat = none ∧ Sparse.bytesNat c.g.scratch e.addr.toNat e.size = v
  else ∃ p, s.translate (s.who c false) e.addr u = .ok p ∧ PlainBytes s p e.size ∧ Sparse.bytesNat s.mem p.pa e.size = v

/-- The element at an offset of a record lies in its extent and is aligned (R89, R151). -/
def InRecord (c : Cur) (r : BitVec 256) (off n : Nat) : Prop :=
  off + n ≤ recSize r ∧ (recordPiece r off n).addr.toNat % n = 0
    ∧ (recScratch r = true → (recBase r).toNat + recSize r ≤ c.j.scratchSize)

/-! ## What a result looks like -/

/-- A scalar result: the destination, and SPC at the next instruction. -/
def scalarResult (s : State) (c : Cur) (d : BitVec 6) (v : Word64) : Out :=
  .next (s.setFrag { c.f.setS d v with spc := c.f.spc + 4 })

/-- Only SPC moves on. -/
def onward (s : State) (c : Cur) : Out := .next (s.setFrag { c.f with spc := c.f.spc + 4 })

/-- A scalar instruction ends in its trap, at its own address (R232). -/
def trapResult (s : State) (c : Cur) (fault sub : BitVec 8) (faddr : Word64) : Out :=
  .next (s.raise c.f.ref (c.f.scalarTrap fault sub faddr))

/-- ARM answers a next state in which the slot of the wave is bound to the token, its handler at the label and its start now, and
the fragment is at its next instruction (R191, R288). -/
def Arms (i : Instr) (s : State) (c : Cur) (n : BitVec 4) (kind : BitVec 3) (arg arg2 : Word64) (off : BitVec 11) : Prop :=
  ∃ t w e f, exec i s = .next t ∧ t.wave? c.w.ref = some w ∧ w.evslots[n.toNat]? = some e ∧ e.armed = true ∧ e.kind = kind
    ∧ e.arg = arg ∧ e.arg2 = arg2 ∧ e.handler = c.f.spc + off.signExtend 64 * 4 ∧ e.start = s.cycle
    ∧ t.frag? c.f.ref = some f ∧ f.spc = c.f.spc + 4

/-- A lane result: `h l` in every active lane `l` of the destination, `fl` ORed into FFLAGS, the head of the lane queue done
(R65, R69). -/
def laneResult (s : State) (x : Lane) (t : BitVec 5) (d : BitVec 8) (h : Nat → Word64) (fl : BitVec 7) : Out :=
  .next ((s.setFrag x.c.f).laneEnd x.c (x.write x.c.w t d h) (x.c.f.flag fl))

/-- A mask result in the active lanes of a mask register, or of EXEC (R50, R128). -/
def maskResult (s : State) (x : Lane) (code : BitVec 8) (bits : Word64) (fl : BitVec 7) : Out :=
  .next ((s.setFrag x.c.f).endMask x (x.c.f.flag fl) code bits)

/-- The lane instruction is complete and has written nothing. -/
def laneIdle (s : State) (x : Lane) : Out := .next ((s.setFrag x.c.f).laneEnd x.c x.c.w x.c.f)

/-- A lane instruction ends in its trap (R232, R234). -/
def laneTrapResult (s : State) (x : Lane) (fault sub : BitVec 8) (faddr : Word64) : Out :=
  .next ((s.setFrag x.c.f).raise x.c.f.ref (x.c.f.laneTrap fault sub faddr x.act))

/-- The flags of all active lanes (R112). -/
def Lane.flags (x : Lane) (h : Nat → BitVec 7) : BitVec 7 := x.lanes.foldl (fun acc l => acc ||| h l) 0

/-- The instruction answers a state in which only a partition's control block has changed: it is `y`. -/
def PartTo (i : Instr) (s : State) (p : BitVec 4) (y : Part) : Prop :=
  ∃ t, exec i s = .next t ∧ t = { s with parts := t.parts } ∧ t.part? p.toNat = some y
    ∧ ∀ q, q ≠ p.toNat → t.part? q = s.part? q

/-- The instruction answers a state in which only a die's registers and queues have changed: they are `y`. -/
def DieTo (i : Instr) (s : State) (d : BitVec 2) (y : Die) : Prop :=
  ∃ t, exec i s = .next t ∧ t = { s with dies := t.dies } ∧ t.die? d.toNat = some y
    ∧ ∀ e, e ≠ d.toNat → t.die? e = s.die? e

/-- The instruction answers `t`, in which the monitor's request is answered with a status (R255). -/
def Answers (i : Instr) (s : State) (status : Byte) (t : State) : Prop :=
  exec i s = .next t ∧ t.monitor.done = s.monitor.bell ∧ t.monitor.resp.extractLsb' 0 8 = status

/-- A call of a control program of a partition, as it is performed (R263). -/
def ecallAsked (p : BitVec 4) (a0 a1 : Word64) : Asked :=
  { part := p.toNat, job := none, who := { src := .ecall p a0 a1, lane := 0, callId := none }, a0 := a0, a1 := a1 }

/-- A partition's mailbox request, as it is performed (R265; the place of its operands is the model's reading, log 63). -/
def mailboxAsked (p : BitVec 4) (m : Mailbox) : Asked :=
  { part := p.toNat, job := none, who := { src := .mailbox p, lane := 0, callId := none }
    a0 := m.arg 0, a1 := m.arg 1 }

/-- The call `mk` performs `eff` and answers with what it gives, to a control program, to a mailbox, and to the one active lane of
a batch record, where a call already completed is answered REPLAYED, one that is not idempotent leaves its completion record, and
a trap is raised at the SVC (R259 to R265); in the states in which Bilgil accepts it (R258). -/
def Performs (mk : CallSrc → Instr) (num : Nat) (idem : Bool) (eff : State → Asked → State × Answer)
    (accepts : State → Bool := fun _ => true) : Prop :=
  ∀ s : State, accepts s = true →
    (∀ p a0 a1 u st v, eff s (ecallAsked p a0 a1) = (u, .reply st v) →
      exec (mk (.ecall p a0 a1)) s = .next { u with results := u.results ++ [(.ecall p a0 a1, st, v)] })
    ∧ (∀ p a0 a1 u st, eff s (ecallAsked p a0 a1) = (u, .later st) → exec (mk (.ecall p a0 a1)) s = .next u)
    ∧ (∀ p x, s.part? p.toNat = some x → x.mailbox.bell ≠ x.mailbox.done → (x.mailbox.req.extractLsb' 8 10).toNat = num →
        ∀ u st v y, eff s (mailboxAsked p x.mailbox) = (u, .reply st v) → u.part? p.toNat = some y →
          ∃ t z, exec (mk (.mailbox p)) s = .next t ∧ t.part? p.toNat = some z ∧ z.mailbox.done = y.mailbox.bell
            ∧ z.mailbox.resp.extractLsb' 0 8 = st ∧ z.mailbox.resp.extractLsb' 64 64 = v)
    ∧ ∀ (d : BitVec 2) seq r j l, s.openCall d.toNat seq (fun n => n == num) = some r →
        s.job? r.caller.wave.wg.job = some j → lanesOf 64 r.lanes = [l] →
        (∀ m, j.completed r.callId = some m → ∃ t z, exec (mk (.svc d seq)) s = .next t ∧ t = { s with dies := t.dies }
          ∧ t.die? d.toNat = some z ∧ (z.sq.reply seq 0).1 = 4)
        ∧ (j.completed r.callId = none →
          (∀ u st v y, eff s (s.askedOf d.toNat r j 0) = (u, .reply st v) → u.die? d.toNat = some y →
            ∃ t z, exec (mk (.svc d seq)) s = .next t ∧ t.die? d.toNat = some z ∧ z.sq.reply seq 0 = (st, v)
              ∧ (∀ q ∈ z.sq.opened, q.seq = seq → q.performed = true)
              ∧ (idem = false → ∀ k, u.job? j.ref = some k →
                  ∃ i, t.job? j.ref = some i ∧ (i.completed r.callId).isSome = true))
          ∧ ∀ u f b, eff s (s.askedOf d.toNat r j 0) = (u, .trap f b) →
              exec (mk (.svc d seq)) s = .next (s.callTrap d.toNat r f b))

/-! ## What states have in common -/

/-- Every byte of device, host and peer memory reads as before, and so do the keys of its lines. -/
def SameMemory (s t : State) : Prop :=
  (∀ a, Sparse.get t.mem a = Sparse.get s.mem a) ∧ (∀ a, Sparse.get t.hostMem a = Sparse.get s.hostMem a)
    ∧ (∀ a, Sparse.get t.peerMem a = Sparse.get s.peerMem a) ∧ (∀ l, Sparse.get t.lineKey l = Sparse.get s.lineKey l)

/-- Every workgroup's scratchpad and panels read as before. -/
def SameCore (s t : State) : Prop :=
  ∀ r g, s.wg? r = some g → ∃ h, t.wg? r = some h ∧ (∀ a, Sparse.get h.scratch a = Sparse.get g.scratch a)
    ∧ (∀ a, Sparse.get h.panels a = Sparse.get g.panels a)

/-- Every fragment but one is as before. -/
def OthersAlike (s t : State) (r : FragRef) : Prop := ∀ q, q ≠ r → t.frag? q = s.frag? q

/-- What only the firmware, the monitor and Bilgil may change (R272 to R277): the firmware and its markers, the microcode, the
key slots, the protected contexts, the peer windows and the failed ports. -/
def SameRoot (s t : State) : Prop :=
  t.firmware = s.firmware ∧ t.microcode = s.microcode ∧ t.archMinor = s.archMinor ∧ t.keySlots = s.keySlots
    ∧ t.contexts = s.contexts ∧ t.peerWins = s.peerWins ∧ t.planes = s.planes

/-! ## Safe states -/

/-- Device, host and peer memory are in canonical form. -/
def State.memWf (s : State) : Prop :=
  Memory.wf s.mem = true ∧ Memory.wf s.hostMem = true ∧ Memory.wf s.peerMem = true

end Sys2Proof.Machine
end

