-- ==== Sys2Proof/Certificates/Slice0/Obligations.lean ====
section
/-! DEFINITION. The statements for the provers, from the numbered rules of spec/. -/

open Sys2Proof Sys2Proof.Machine

/-- Words of the spec, among them the worked encodings of R46 and R341 and lane words laid out by R47, decode to their
instructions with their operands; one unassigned opcode is refused as such. (R42, R43, R44, R45, R46, R47, R60) -/
def Obligations.DecodeKnownWords : Prop :=
  decodeScalar 0x04514001 = .ok (.saddI 5 5 1) ∧ decodeScalar 0x4043FFFB = .ok (.bc 1 3 0xFFFB)
    ∧ decodeScalar 0x64000001 = .ok (.lissue 1) ∧ decodeScalar 0x18300400 = .ok (.sli 3 0x400)
    ∧ decodeScalar 0x1C30C000 = .ok (.slui 3 3 0) ∧ decodeScalar 0x64200350 = .ok (.rep 0x350)
    ∧ decodeScalar 0xFC000000 = .error .unassigned
    ∧ decodeLane 0x001000000801020000000000 = .ok (.vadd
        { ty := 0x08, msel := 0, rnd := 0, sat := 0, kA := 0, kB := 0, kC := 0, flags := 0, dest := 8, a := 1, b := 2, c := 0, w2 := 0 })

/-- For every well-formed instruction that has an encoding, with every operand at every value the encoding admits, the
decoder reads its word, and its bytes as R39 stores them before any other bytes, as that instruction. (R39, R42, R43,
R44, R45, R46, R47, R60, R61) -/
def Obligations.DecodeEncodeAgree : Prop :=
  ∀ (i : Instr) (w : Code), i.wf = true → encode i = some w →
    decode w = .ok i
    ∧ ∀ rest : List Byte, match w with
      | .scalar _ => decodeScalarBytes (w.bytes ++ rest) = .ok (i, rest)
      | .lane _ => decodeLaneBytes (w.bytes ++ rest) = .ok (i, rest)

/-- Whenever the decoder reads a scalar or lane word as an instruction, that instruction is well formed and its
encoding is the word: no bit of a word is dropped, and no two words stand for one instruction. (R42, R43, R44, R45,
R46, R47, R60, R61) -/
def Obligations.EncodeDecodeAgree : Prop :=
  ∀ (w : Code) (i : Instr), decode w = .ok i → i.wf = true ∧ encode i = some w

/-- Where the wave holds no older copy of a code block, SPC translates for a fetch to device memory, and its four
bytes stand in lines of the page's key, the scalar word fetched is the little-endian value of those four bytes. (R39,
R176, R318) -/
def Obligations.FetchReadsLittleEndian : Prop :=
  ∀ (s : State) (c : Cur) (p : Phys), c.w.fetched = [] → s.translate (s.who c true) c.f.spc .fetch = .ok p →
    PlainBytes s p 4 →
    s.fetchScalar c = .ok (s.mem.get (p.pa + 3) ++ s.mem.get (p.pa + 2) ++ s.mem.get (p.pa + 1) ++ s.mem.get p.pa)

/-- For every state whose device, host and peer memory are in canonical form, whatever turn the step takes, the next
state's are too: keys rise strictly and no listed byte equals what an unlisted one reads as (the model's own form of
memory, log 3). (R10, R39, R158) -/
def Obligations.StepKeepsMemoryCanonical : Prop :=
  ∀ s t : State, s.memWf → step s = .next t → t.memWf

/-- From every state, reachable or not, whatever turn it takes, a step answers a next state: every fault of the spec
is taken as a trap in a next state, and an extension opcode under loaded microcode, whose effect is a free value (log
96), runs too. (R46, R62, R232, R277) -/
def Obligations.StepNeverFaults : Prop :=
  ∀ s : State, ∃ t, step s = .next t

/-- Whatever instruction with an encoding a fragment executes, in whatever mode and state, the firmware slots and
markers, the microcode, the key slots, the protected contexts, the peer windows and the failed ports are as before:
only calls, control registers and module events reach them. (R268, R272, R275, R276, R277) -/
def Obligations.ProgramsLeaveTheRootAlone : Prop :=
  ∀ (i : Instr) (s t : State), i.coded = true → exec i s = .next t → SameRoot s t

/-- When a step's turn is a fragment's that may issue: with no lane instruction queued and no freeze point there, the
step is exec of the instruction that the word fetched at SPC decodes to; with a lane queue, it is exec of the
instruction that the head entry's word names, its operand fields stepped by the repeat in progress, with the entry's
captured operands. Around exec: matrix work that the instruction waits for enters the engine first (R140; none where
the workgroup has none under way, then the fragment and the state are the ones found), a stepping fragment is counted
and its freeze point re-armed, a denied one found awake counts as a wake, and what follows every step follows. That
such a turn takes the queued lane instruction before any later scalar instruction is the model's choice (log 1): R233
lets scalar instructions issue ahead of queued lane work. (R37, R64, R140, R176, R230, R254) -/
def Obligations.StepRunsDecodedInstruction : Prop :=
  (∀ (s : State) (r : FragRef) (c : Cur) (w : BitVec 32) (i : Instr),
    s.tick.nextTurn.1 = .frag r → s.tick.nextTurn.2.look r = some c → s.tick.nextTurn.2.canIssue c = true →
    c.f.queue = [] → c.freezeHere = false → s.tick.nextTurn.2.fetchScalar c = .ok w → decodeScalar w = .ok i →
    let u := (s.tick.nextTurn.2).setWave (s.tick.nextTurn.2.afterFetch c.w (blockKey false (scalarBlock c.f.spc)))
    ∃ f, (u.enterBefore r i).frag? r = some f ∧ (c.g.engine = [] → u.enterBefore r i = u ∧ f = c.f) ∧
    step s = match exec i ((u.enterBefore r i).issueBy f {}) with
      | .next t => .next (t.afterIssue ((u.enterBefore r i).issueBy f {}) r i true).afterStep
      | .fault x => .fault x
      | .refused x => .refused x)
  ∧ ∀ (s : State) (r : FragRef) (c : Cur) (q : QEntry) (qs : List QEntry) (i : Instr),
    s.tick.nextTurn.1 = .frag r → s.tick.nextTurn.2.look r = some c → s.tick.nextTurn.2.canIssue c = true →
    c.f.queue = q :: qs → q.instr = some i →
    let u := s.tick.nextTurn.2
    ∃ f, (u.enterBefore r i).frag? r = some f ∧ (c.g.engine = [] → u.enterBefore r i = u ∧ f = c.f) ∧
    step s = match exec i ((u.enterBefore r i).issueBy f q) with
      | .next t => .next (t.afterIssue ((u.enterBefore r i).issueBy f q) r i false).afterStep
      | .fault x => .fault x
      | .refused x => .refused x

/-- After reset there are 16 partitions; each has CLUSTERS 0, S2ROOT 0, QOS 1, FEATMASK all ones, MSIX 0, KEYSLOTS 0,
SIGPOLICY 0, PARKLIMIT 0x10_0000, PREEMPTCFG 0x40002000E020, SAVEWIN 0, no enrolled key, no reset in progress and no
scrub pending; ARCHVER reads 0x20100. Device, host and peer memory list nothing, in the canonical form that every step
keeps (log 3). (That the list is empty where nothing has been written, reading 0, is the model's choice, log 3.) (R10,
R35, R70, R238, R239, R270) -/
def Obligations.ResetValues : Prop :=
  (∀ p, p < 16 → ∃ b, State.reset.part? p = some b ∧ b.clusters = 0 ∧ b.s2root = 0 ∧ b.qos = 1
      ∧ b.featmask = BitVec.allOnes 64 ∧ b.msix = 0 ∧ b.keyslots = 0 ∧ b.sigpolicy = 0 ∧ b.parklimit = 0x100000
      ∧ b.preemptcfg = 0x000040002000E020 ∧ b.savewin = 0
      ∧ b.enroll = List.replicate 8 0 ∧ b.resetting = false ∧ b.scrubPending = false)
    ∧ State.reset.parts.length = 16 ∧ State.reset.archver = 0x20100
    ∧ State.reset.memWf ∧ State.reset.mem = [] ∧ State.reset.hostMem = [] ∧ State.reset.peerMem = []

/-- With its registers in the allotment and its sources clean, each instruction of the scalar ALU group answers a next
state that differs from the old one in s_d, which takes the result R339 gives from a and b, with b the register or the
extended immediate or amount, and in SPC; no value faults. (R339) -/
def Obligations.ScalarAluResults : Prop :=
  ∀ (s : State) (c : Cur) (d a b amt : BitVec 6) (imm : BitVec 14), Issues s c → c.has [d, a] → c.clean [a] →
    (exec (.saddI d a imm) s = scalarResult s c d (c.f.s a + imm.signExtend 64)
      ∧ exec (.sandI d a imm) s = scalarResult s c d (c.f.s a &&& imm.signExtend 64)
      ∧ exec (.sorI d a imm) s = scalarResult s c d (c.f.s a ||| imm.signExtend 64)
      ∧ exec (.sxorI d a imm) s = scalarResult s c d (c.f.s a ^^^ imm.signExtend 64)
      ∧ exec (.sshlI d a amt) s = scalarResult s c d (c.f.s a <<< amt.toNat)
      ∧ exec (.sshrI d a amt) s = scalarResult s c d (c.f.s a >>> amt.toNat)
      ∧ exec (.ssraI d a amt) s = scalarResult s c d ((c.f.s a).sshiftRight amt.toNat))
    ∧ (c.has [b] → c.clean [b] →
      exec (.saddR d a b) s = scalarResult s c d (c.f.s a + c.f.s b)
      ∧ exec (.ssub d a b) s = scalarResult s c d (c.f.s a - c.f.s b)
      ∧ exec (.smul d a b) s = scalarResult s c d (c.f.s a * c.f.s b)
      ∧ exec (.smulh d a b) s = scalarResult s c d
          (((c.f.s a).signExtend 128 * (c.f.s b).signExtend 128).extractLsb' 64 64)
      ∧ exec (.sandR d a b) s = scalarResult s c d (c.f.s a &&& c.f.s b)
      ∧ exec (.sorR d a b) s = scalarResult s c d (c.f.s a ||| c.f.s b)
      ∧ exec (.sxorR d a b) s = scalarResult s c d (c.f.s a ^^^ c.f.s b)
      ∧ exec (.sshlR d a b) s = scalarResult s c d (c.f.s a <<< ((c.f.s b).toNat % 64))
      ∧ exec (.sshrR d a b) s = scalarResult s c d (c.f.s a >>> ((c.f.s b).toNat % 64))
      ∧ exec (.ssraR d a b) s = scalarResult s c d ((c.f.s a).sshiftRight ((c.f.s b).toNat % 64))
      ∧ exec (.smin d a b) s = scalarResult s c d (if (c.f.s a).toInt ≤ (c.f.s b).toInt then c.f.s a else c.f.s b)
      ∧ exec (.smax d a b) s = scalarResult s c d (if (c.f.s a).toInt ≤ (c.f.s b).toInt then c.f.s b else c.f.s a))

/-- With registers in the allotment and sources clean, SCMP writes 1 where its condition holds and else 0, for each of
its six codes; SSEL writes s_a where s_c is not 0 and else s_b; SLI writes the extended immediate; SLUI shifts s_a
left by 14 and ORs the immediate; SLDK writes word k of the constant section, and traps with FLT_RECORD, SUB 0x06 at
or beyond its end. (R340, R341, R344) -/
def Obligations.CompareSelectConstantResults : Prop :=
  ∀ (s : State) (c : Cur) (e d a b : BitVec 6) (imm k : BitVec 14), Issues s c → c.has [d] →
    exec (.sli d imm) s = scalarResult s c d (imm.signExtend 64)
    ∧ (c.f.exiting = false → exec (.sldk d k) s =
        if h : k.toNat < c.j.consts.length then scalarResult s c d (c.j.consts[k.toNat]'h) else trapResult s c 0x04 0x06 0)
    ∧ (c.has [a] → c.clean [a] →
      exec (.slui d a imm) s = scalarResult s c d ((c.f.s a <<< 14) ||| imm.setWidth 64)
      ∧ (c.has [b] → c.clean [b] →
        exec (.scmp 0 d a b) s = scalarResult s c d (if c.f.s a = c.f.s b then 1 else 0)
        ∧ exec (.scmp 1 d a b) s = scalarResult s c d (if c.f.s a ≠ c.f.s b then 1 else 0)
        ∧ exec (.scmp 2 d a b) s = scalarResult s c d (if (c.f.s a).toInt < (c.f.s b).toInt then 1 else 0)
        ∧ exec (.scmp 3 d a b) s = scalarResult s c d (if (c.f.s a).toInt ≤ (c.f.s b).toInt then 1 else 0)
        ∧ exec (.scmp 4 d a b) s = scalarResult s c d (if (c.f.s a).toNat < (c.f.s b).toNat then 1 else 0)
        ∧ exec (.scmp 5 d a b) s = scalarResult s c d (if (c.f.s a).toNat ≤ (c.f.s b).toNat then 1 else 0)
        ∧ (c.has [e] → c.clean [e] →
          exec (.ssel e d a b) s = scalarResult s c d (if c.f.s e ≠ 0 then c.f.s a else c.f.s b))))

/-- With d in the allotment, SYSRD of each number of R67 writes s_d with that register, zero-extended: identity, EXEC,
counters, modes, flags, events, RPTC, trap registers, ARCHVER and FEATURES as the state holds them, SAVEBASE 0 outside
a routine and with a frame the program part of it, CYCLE and some LTIME where the job keeps no log; a number that R67
does not list traps with FLT_ILLEGAL, SUB 0x00. (R16, R65, R67, R70, R71, R72, R243, R348, R349) -/
def Obligations.SystemRegisterReads : Prop :=
  ∀ (s : State) (c : Cur) (d : BitVec 6), Issues s c → c.has [d] →
    (∀ nv ∈ ([(0x000, (waveid c.w.ref).setWidth 64), (0x001, BitVec.ofNat 64 c.g.ref.wg), (0x002, BitVec.ofNat 64 c.j.ref.id),
        (0x003, BitVec.ofNat 64 c.w.role), (0x004, BitVec.ofNat 64 c.j.width), (0x005, c.f.exec), (0x008, c.f.spc),
        (0x009, c.f.lpc), (0x010, c.f.fmode.setWidth 64), (0x011, c.f.fflags.setWidth 64), (0x018, c.w.pev.setWidth 64),
        (0x019, c.w.evmask.setWidth 64), (0x01A, c.f.evslot), (0x01B, c.f.evinfo), (0x020, c.f.rptc),
        (0x028, c.f.trapcause.setWidth 64), (0x029, c.f.trapaddr), (0x02A, c.f.traplpc),
        (0x038, 0x20000#64 ||| (s.archMinor.setWidth 64 <<< 8)), (0x039, c.j.features)] : List (BitVec 14 × Word64)),
      exec (.sysrd d nv.1) s = scalarResult s c d nv.2)
    ∧ (c.f.routine = .none → exec (.sysrd d 0x040) s = scalarResult s c d 0)
    ∧ (∀ n p, c.f.routine ≠ .none → c.f.frame = some n → s.part? c.j.ref.part = some p →
        exec (.sysrd d 0x040) s = scalarResult s c d
          (BitVec.ofNat 64 ((p.savewin.extractLsb' 30 27).toNat * 2 ^ 30 + n * 0x4800 + 0x800)))
    ∧ (c.unlogged → exec (.sysrd d 0x030) s = scalarResult s c d (BitVec.ofNat 64 s.cycle)
        ∧ ∃ v, exec (.sysrd d 0x031) s = scalarResult (s.modDie c.g.die (fun x => { x with ltime := v })) c d v)
    ∧ ∀ n : BitVec 14, sysListed n.toNat = false → exec (.sysrd d n) s = trapResult s c 0x01 0x00 0

/-- With s_a in the allotment and clean, outside an exit routine, SYSWR of EXEC stores s_a within the lane set, of
FMODE and FFLAGS their low bits, of PEV clears the bits written as 1, and of EVMASK stores 16 bits, whereupon parked
AWAITs are evaluated again; SMODE stores its immediate; SYSWR of any other register R67 lists traps with FLT_PRIV, of
another number with FLT_ILLEGAL, SUB 0x00. (R67, R128, R345, R348, R350) -/
def Obligations.SystemRegisterWrites : Prop :=
  ∀ (s : State) (c : Cur) (a : BitVec 6) (m : BitVec 3) (n : BitVec 14), Issues s c →
    exec (.smode m) s = .next (s.setFrag { c.f with fmode := m, spc := c.f.spc + 4 })
    ∧ (c.f.exiting = false → c.has [a] →
        (sysListed n.toNat = true → exec (.syswrReadonly a n) s = trapResult s c 0x0A 0x00 0)
        ∧ (sysListed n.toNat = false → exec (.syswrReadonly a n) s = trapResult s c 0x01 0x00 0)
        ∧ (c.clean [a] →
          exec (.syswrExec a) s = .next (s.setFrag { c.f with exec := c.f.s a &&& c.f.laneSet, spc := c.f.spc + 4 })
          ∧ exec (.syswrFmode a) s = .next (s.setFrag { c.f with fmode := (c.f.s a).setWidth 3, spc := c.f.spc + 4 })
          ∧ exec (.syswrFflags a) s = .next (s.setFrag { c.f with fflags := (c.f.s a).setWidth 7, spc := c.f.spc + 4 })
          ∧ exec (.syswrPev a) s = .next ((s.setWave { c.w with pev := c.w.pev &&& ~~~(c.f.s a).setWidth 16 }).setFrag
              { c.f with spc := c.f.spc + 4 })
          ∧ exec (.syswrEvmask a) s = .next (((s.setWave { c.w with evmask := (c.f.s a).setWidth 16 }).setFrag
              { c.f with spc := c.f.spc + 4 }).settle c.w.ref)))

/-- BC on a register or on a mask within EXEC goes to SPC + 4 times its extended offset where its condition holds and
otherwise to the next instruction, JMP always goes there, in an exit routine only forward; CALL writes s63 with the
address of the next instruction and goes; RET goes to s_a, or traps with FLT_ALIGN where s_a is no multiple of 4. NOP
moves to the next instruction; YIELD does so and makes its slot READY; LJUMP adds 12 times its immediate to LPC, or
takes s_a, trapping with FLT_ALIGN where that is no multiple of 12; REP stands as the pending prefix where no repeat
is in progress and otherwise waits, and any scalar instruction but LISSUE after it, shown for NOP, discards it and
traps with FLT_ILLEGAL, SUB 0x08. (R40, R42, R64, R298, R300, R319, R322, R327, R334, R335, R336, R374) -/
def Obligations.ControlTransferResults : Prop :=
  (∀ (s : State) (c : Cur) (a : BitVec 6) (m : BitVec 3) (off : BitVec 16) (far : BitVec 26), Issues s c →
    (let goes (p : Prop) [Decidable p] : Out :=
        .next (s.setFrag { c.f with spc := if p then c.f.spc + off.signExtend 64 * 4 else c.f.spc + 4 })
      let v := c.f.s a
      let mask := c.w.m c.j.width m.toNat &&& c.f.exec
      (c.f.exiting = false ∨ 0 < off.toInt) →
      (c.has [a] → c.clean [a] →
        exec (.bc 0 a off) s = goes (v = 0) ∧ exec (.bc 1 a off) s = goes (v ≠ 0)
        ∧ exec (.bc 2 a off) s = goes (v.toInt < 0) ∧ exec (.bc 3 a off) s = goes (0 ≤ v.toInt))
      ∧ (c.w.mPoisoned m.toNat c.f.exec = false →
        exec (.bcMask 0 m off) s = goes (mask ≠ 0) ∧ exec (.bcMask 1 m off) s = goes (mask = c.f.exec)
        ∧ exec (.bcMask 2 m off) s = goes (mask = 0)))
    ∧ ((c.f.exiting = false ∨ 0 < far.toInt) →
        exec (.jmp far) s = .next (s.setFrag { c.f with spc := c.f.spc + far.signExtend 64 * 4 }))
    ∧ (c.f.exiting = true → ¬ 0 < far.toInt → exec (.jmp far) s = .next (s.exitOverrun c))
    ∧ (c.f.exiting = false → c.has [63] →
        exec (.call far) s = .next (s.setFrag
          { c.f.setS 63 (c.f.spc + 4) with spc := c.f.spc + far.signExtend 64 * 4 }))
    ∧ (c.f.exiting = false → c.has [a] → c.clean [a] →
        exec (.ret a) s = if (c.f.s a).toNat % 4 = 0 then .next (s.setFrag { c.f with spc := c.f.s a })
          else trapResult s c 0x05 0x00 0))
  ∧ ∀ (s : State) (c : Cur) (a : BitVec 6) (imm : BitVec 14), s.current = some c →
    (∀ r, c.f.rep = some r → exec .nop s = .next ((s.setFrag { c.f with rep := none }).raise c.f.ref
      (({ c.f with rep := none } : Frag).scalarTrap 0x01 0x08 0)))
    ∧ (c.f.rep = none →
      exec .nop s = onward s c
      ∧ exec (.ljump imm) s = .next (s.setFrag { c.f with lpc := c.f.lpc + imm.signExtend 64 * 12, spc := c.f.spc + 4 })
      ∧ exec (.rep imm) s = (if c.f.rptc.extractLsb' 16 7 = 0 then
          .next (s.setFrag { c.f with rep := some imm, spc := c.f.spc + 4 }) else .next s)
      ∧ (c.has [a] → c.clean [a] → exec (.ljumpReg a) s =
          if (c.f.s a).toNat % 12 = 0 then .next (s.setFrag { c.f with lpc := c.f.s a, spc := c.f.spc + 4 })
          else trapResult s c 0x05 0x00 0)
      ∧ (c.f.exiting = false → exec .yieldSlot s = .next (s.setFrag { c.f with slot := .ready, spc := c.f.spc + 4 })))

/-- After a write of s_d every scalar register reads as before but s_d, which reads the value; s0 reads 0 always and a
write of it changes nothing; the write clears the poison of s_d and of no other register. (R66, R249) -/
def Obligations.ScalarRegisterFile : Prop :=
  ∀ (f : Frag) (d r : BitVec 6) (v : Word64),
    (f.setS d v).s r = (if r = 0 then 0 else if r = d then v else f.s r)
    ∧ f.setS 0 v = f
    ∧ (f.setS d v).sPoisoned r = (if r = d then false else f.sPoisoned r)

/-- When an instruction of the scalar ALU group, SLI, SLUI, SLDK, LJUMP, SMODE, NOP, BC, JMP or RET answers a next
state, whether with its result or its trap, every byte of memory, scratchpads and panels and every wave is as before,
every other fragment is as before, and of its own fragment every scalar register but the destination, EXEC, FFLAGS,
RPTC, the event registers, the join stack and, but for SMODE, FMODE are as before. SPC, LPC, the slot and the trap
registers may change. (R66, R232, R249, R339) -/
def Obligations.ScalarRegisterFrame : Prop :=
  ∀ (i : Instr) (dest : Option (BitVec 6)) (s t : State) (c : Cur), i.scalarDest = some dest → s.current = some c →
    exec i s = .next t →
    SameMemory s t ∧ SameCore s t ∧ t.waves = s.waves ∧ OthersAlike s t c.f.ref
    ∧ ∃ f, t.frag? c.f.ref = some f ∧ (∀ r, some r ≠ dest → f.s r = c.f.s r) ∧ f.exec = c.f.exec
      ∧ f.fflags = c.f.fflags ∧ f.rptc = c.f.rptc ∧ f.evslot = c.f.evslot ∧ f.evinfo = c.f.evinfo ∧ f.join = c.f.join
      ∧ ((∀ m, i ≠ .smode m) → f.fmode = c.f.fmode)

/-- Outside an exit routine, with its mask clean: with no taken lane SPLIT goes to the next instruction, with only
taken lanes to its target. With both and a join stack of fewer than 16 entries the side of fewer lanes (the taken side
on a tie) is the minority: where the wave has fewer than 4 fragments and the core a free slot it detaches as a
fragment of the lowest free index with its own EXEC and SPC, the parent's LPC, registers, FMODE and FFLAGS, an empty
lane queue and the parent's stack with emptied saved lanes under a detached entry; elsewhere it is deferred in a join
entry. The fragment goes on with the majority. (The order of the checks, and what the detached half starts with beyond
R24's list, are the model's readings, logs 47 and 78; the free slot that log 91 counts.) (R24, R26, R28, R42, R234,
R345, R346) -/
def Obligations.SplitRule : Prop :=
  ∀ (s : State) (c : Cur) (m : BitVec 3) (k : BitVec 6) (off : BitVec 16), Plain s c →
    c.w.mPoisoned m.toNat c.f.exec = false →
    let T := c.f.exec &&& c.w.m c.j.width m.toNat
    let N := c.f.exec &&& ~~~c.w.m c.j.width m.toNat
    let target := c.f.spc + off.signExtend 64 * 4
    let minority := if laneCount T ≤ laneCount N then T else N
    let majority := if laneCount T ≤ laneCount N then N else T
    let minoritySpc := if laneCount T ≤ laneCount N then target else c.f.spc + 4
    let majoritySpc := if laneCount T ≤ laneCount N then c.f.spc + 4 else target
    (T = 0 → exec (.split m k off) s = onward s c)
    ∧ (T ≠ 0 → N = 0 → exec (.split m k off) s = .next (s.setFrag { c.f with spc := target }))
    ∧ (T ≠ 0 → N ≠ 0 → c.f.join.length < 16 →
        (∀ idx, idx < 4 → (∀ f ∈ s.frags, f.ref ≠ { wave := c.w.ref, frag := idx }) →
          (∀ j, j < idx → ∃ f ∈ s.frags, f.ref = { wave := c.w.ref, frag := j }) →
          (s.fragsOf c.w.ref).length < 4 → s.slotsTaken c.g.die c.g.core < 32 →
          ∃ t f g, exec (.split m k off) s = .next t ∧ t.frag? c.f.ref = some f
            ∧ f.exec = majority ∧ f.spc = majoritySpc ∧ f.lpc = c.f.lpc ∧ f.sregs = c.f.sregs
            ∧ f.join = { token := k, kind := .parent, partner := idx, lanes := 0, spc := 0, lpc := 0, hasLpc := false } :: c.f.join
            ∧ t.frag? { wave := c.w.ref, frag := idx } = some g
            ∧ g.exec = minority ∧ g.spc = minoritySpc ∧ g.lpc = c.f.lpc ∧ g.sregs = c.f.sregs ∧ g.fmode = c.f.fmode
            ∧ g.fflags = c.f.fflags ∧ g.queue = [] ∧ g.slot = .ready
            ∧ g.join = { token := k, kind := .detached, partner := c.f.ref.frag, lanes := 0, spc := 0, lpc := 0, hasLpc := false }
                :: c.f.join.map (fun e => if e.kind = .deferred ∨ e.kind = .second then { e with lanes := 0 } else e))
        ∧ (¬ ((s.fragsOf c.w.ref).length < 4 ∧ s.slotsTaken c.g.die c.g.core < 32) →
            exec (.split m k off) s = .next (s.setFrag { c.f with
              exec := majority, spc := majoritySpc
              join := { token := k, kind := .deferred, partner := 0, lanes := minority, spc := minoritySpc, lpc := c.f.lpc
                        hasLpc := true } :: c.f.join })))

/-- With 16 entries on the join stack a SPLIT whose taken and falling-through lanes are both there traps with
FLT_ILLEGAL, SUB 0x09; one with no taken lane, or with only taken lanes, goes on with its stack as it was. (R27) -/
def Obligations.JoinOverflow : Prop :=
  ∀ (s : State) (c : Cur) (m : BitVec 3) (k : BitVec 6) (off : BitVec 16), Plain s c →
    c.w.mPoisoned m.toNat c.f.exec = false → 16 ≤ c.f.join.length →
    (c.f.exec &&& c.w.m c.j.width m.toNat ≠ 0 → c.f.exec &&& ~~~c.w.m c.j.width m.toNat ≠ 0 →
        exec (.split m k off) s = trapResult s c 0x01 0x09 0)
    ∧ (c.f.exec &&& c.w.m c.j.width m.toNat = 0 → exec (.split m k off) s = onward s c)
    ∧ (c.f.exec &&& c.w.m c.j.width m.toNat ≠ 0 → c.f.exec &&& ~~~c.w.m c.j.width m.toNat = 0 →
        exec (.split m k off) s = .next (s.setFrag { c.f with spc := c.f.spc + off.signExtend 64 * 4 }))

/-- Outside an exit routine RECONV k goes on where the stack is empty or the top token differs; at a deferred entry it
switches to the deferred lanes, SPC and LPC and saves its own; at a second half it takes the saved lanes back and
pops; at a parent or detached entry it parks until the partner waits there, and then both merge: the parent goes on
after RECONV with the union of the lanes, its own LPC and scalar registers and both FFLAGS, and the detached fragment
is gone; where the partner has ended it pops and goes on, with the FFLAGS, the stores and the commands that the
partner left before it in program order. (R25, R26, R69, R333) -/
def Obligations.ReconvRule : Prop :=
  ∀ (s : State) (c : Cur) (k : BitVec 6), Plain s c →
    ((c.f.join = [] ∨ ∃ e es, c.f.join = e :: es ∧ e.token ≠ k) → exec (.reconv k) s = onward s c)
    ∧ ∀ e es, c.f.join = e :: es → e.token = k →
      (e.kind = .deferred → exec (.reconv k) s = .next (s.setFrag { c.f with
          exec := e.lanes, spc := e.spc, lpc := e.lpc
          join := { e with kind := .second, lanes := c.f.exec, lpc := c.f.lpc, hasLpc := true } :: es }))
      ∧ (e.kind = .second → exec (.reconv k) s = .next (s.setFrag { c.f with
          exec := c.f.exec ||| e.lanes, lpc := if e.hasLpc then e.lpc else c.f.lpc, join := es, spc := c.f.spc + 4 }))
      ∧ ((e.kind = .parent ∨ e.kind = .detached) → e.partner = 4 → ∃ t f, exec (.reconv k) s = .next t
          ∧ t.frag? c.f.ref = some f ∧ f.join = es ∧ f.spc = c.f.spc + 4 ∧ f.fflags = c.f.fflags ||| e.flags
          ∧ f.behind = c.f.behind ++ e.behind ∧ f.exec = c.f.exec ∧ f.lpc = c.f.lpc ∧ f.sregs = c.f.sregs
          ∧ ∀ x ∈ t.cmds, x.id ∈ e.cmds → c.f.ref.frag ∈ x.owners)
      ∧ ∀ p, e.partner ≠ 4 → e.partner ≠ c.f.ref.frag → s.frag? { wave := c.f.ref.wave, frag := e.partner } = some p →
        ((e.kind = .parent ∨ e.kind = .detached) → p.waitsFor k c.f.ref.frag = false →
            exec (.reconv k) s = .next (s.setFrag { c.f with slot := .parked (.reconv k), parkedAt := s.parkTime c.f }))
        ∧ (e.kind = .parent → p.waitsFor k c.f.ref.frag = true → ∃ t f, exec (.reconv k) s = .next t
            ∧ t.frag? p.ref = none ∧ t.frag? c.f.ref = some f ∧ f.exec = c.f.exec ||| p.exec ∧ f.lpc = c.f.lpc
            ∧ f.spc = c.f.spc + 4 ∧ f.join = es ∧ f.fflags = c.f.fflags ||| p.fflags ∧ f.sregs = c.f.sregs)
        ∧ (e.kind = .detached → p.waitsFor k c.f.ref.frag = true → ∃ t f, exec (.reconv k) s = .next t
            ∧ t.frag? c.f.ref = none ∧ t.frag? p.ref = some f ∧ f.exec = p.exec ||| c.f.exec ∧ f.lpc = p.lpc
            ∧ f.spc = p.spc + 4 ∧ f.join = p.join.tail ∧ f.fflags = p.fflags ||| c.f.fflags ∧ f.sregs = p.sregs
            ∧ f.slot = .ready)

/-- Outside an exit routine END drops the second halves, and the entries whose partner has ended, from the top of the
stack. With nothing left the fragment is gone, and where it was its wave's last the wave has ended and none of its
event slots is armed. At a deferred entry the fragment goes on with the deferred lanes, SPC and LPC under a second
half that holds no lanes and no LPC. At a detached entry the fragment is gone and the parent has no partner left
there: one parked at that RECONV is READY behind it with its own lanes and both FFLAGS, another stays where it is. At
a parent entry the fragment is gone and the partner has the rest of its stack under its own nested entries: one parked
at that RECONV is READY behind it. (R25, R26, R28, R38, R69, R164, R309) -/
def Obligations.EndRule : Prop :=
  ∀ (s : State) (c : Cur), Plain s c →
    let js := c.f.join.dropWhile (fun e => e.kind == .second || ((e.kind == .parent || e.kind == .detached) && e.partner == 4))
    (js = [] → ∃ t, exec .endFrag s = .next t ∧ t.frag? c.f.ref = none
      ∧ ((∀ f ∈ s.frags, f.ref.wave = c.f.ref.wave → f.ref = c.f.ref) → ∃ w, t.wave? c.f.ref.wave = some w ∧ w.ended = true
          ∧ ∀ e ∈ w.evslots, e.armed = false))
    ∧ ∀ e es, js = e :: es →
      let partner : FragRef := { wave := c.f.ref.wave, frag := e.partner }
      (e.kind = .deferred → ∃ t f, exec .endFrag s = .next t ∧ t.frag? c.f.ref = some f ∧ f.exec = e.lanes ∧ f.spc = e.spc
          ∧ f.lpc = e.lpc ∧ f.join = { e with kind := .second, lanes := 0, hasLpc := false } :: es)
      ∧ (e.kind = .detached → partner ≠ c.f.ref → ∃ t, exec .endFrag s = .next t ∧ t.frag? c.f.ref = none
          ∧ ∀ y, s.frag? partner = some y →
            (∀ k x xs, y.slot = .parked (.reconv k) → y.join = x :: xs → x.token = k → x.kind = .parent →
                x.partner = c.f.ref.frag → ∃ f, t.frag? partner = some f ∧ f.slot = .ready ∧ f.spc = y.spc + 4 ∧ f.join = xs
                  ∧ f.exec = y.exec ∧ f.sregs = y.sregs ∧ f.fflags &&& (y.fflags ||| c.f.fflags) = y.fflags ||| c.f.fflags)
            ∧ ((y.slot = .active ∨ y.slot = .ready) → ∃ f, t.frag? partner = some f ∧ f.slot = y.slot ∧ f.spc = y.spc
                ∧ f.exec = y.exec ∧ f.join.length = y.join.length
                ∧ ∀ x xs, y.join = x :: xs → x.kind = .parent → x.partner = c.f.ref.frag → ∃ z zs, f.join = z :: zs ∧ z.partner = 4))
      ∧ (e.kind = .parent → partner ≠ c.f.ref → ∃ t, exec .endFrag s = .next t ∧ t.frag? c.f.ref = none
          ∧ ∀ y, s.frag? partner = some y → ∀ x xs, y.join = x :: xs → x.kind = .detached → x.partner = c.f.ref.frag →
            ∃ f, t.frag? partner = some f ∧ f.join = es ∧ f.exec = y.exec ∧ f.sregs = y.sregs
              ∧ (y.slot = .parked (.reconv x.token) → f.slot = .ready ∧ f.spc = y.spc + 4)
              ∧ ((y.slot = .active ∨ y.slot = .ready) → f.slot = y.slot ∧ f.spc = y.spc))

/-- Where the lane queue has room, the n words at LPC are fetched and every one passes its checks at enqueue, LISSUE
appends them in order with the scalar operands and FMODE as they stand, the first with the pending REP and its repeat
count, moves LPC by 12 for each and clears the prefix; without room it waits; n of 0 or above 16 traps with
FLT_ILLEGAL, SUB 0x07. As a repeat begins RPTC takes its LEFT and REPIMM; at the end of a lane instruction, which
every lane meaning completes by, the workgroup's progress rises by one, and of the fragment only its queue, RPTC and
what it holds of the instruction under way change: without a repeat the head leaves the queue and RPTC stays; after
the last repeat it leaves and LEFT is 0; after an earlier one the head stays with one repeat fewer, LEFT the repeats
not yet completed and REPIMM the REP's field, and the next instruction is the word with each stepped field increased
by the next repeat's number times its step. (R21, R22, R61, R64, R65, R240, R281, R320, R334) -/
def Obligations.LissueRule : Prop :=
  (∀ (s : State) (c : Cur) (n : BitVec 5), s.current = some c →
    ((n.toNat = 0 ∨ 16 < n.toNat) → exec (.lissue n) s = trapResult s c 0x01 0x07 0)
    ∧ (1 ≤ n.toNat → n.toNat ≤ 16 →
      (16 < c.f.queue.length + c.f.lissue.getD n.toNat → exec (.lissue n) s = .next s)
      ∧ ∀ ws, c.f.queue.length + c.f.lissue.getD n.toNat ≤ 16 →
          s.fetchLanes c c.f.lpc (c.f.lissue.getD n.toNat) = .ok ws →
          (∀ p ∈ ws.zipIdx, enqueueFault c.laneEnv c.f c.j.kernel s.microcode.isSome p.1
            (if p.2 = 0 then c.f.rep else none) = none) →
          ∃ w, w = { c.w with fetched := w.fetched } ∧ exec (.lissue n) s = .next ((s.setWave w).setFrag { c.f with
            queue := c.f.queue ++ ws.zipIdx.map (fun p => queueEntry c.f p.1 (c.f.lpc + BitVec.ofNat 64 (12 * p.2))
              (if p.2 = 0 then c.f.rep else none))
            lpc := c.f.lpc + BitVec.ofNat 64 (12 * ws.length), spc := c.f.spc + 4, lissue := none, rep := none })))
  ∧ ∀ (s : State) (c : Cur) (w : Wave) (f y : Frag) (q : QEntry) (qs : List QEntry), f.queue = q :: qs →
    (q.left = 0 → f.laneBegin = f ∧ q.fields = laneFields q.word)
    ∧ (q.left ≠ 0 → q.left ≤ 64 → ∃ r, f.laneBegin = { f with rptc := r } ∧ (r.extractLsb' 16 7).toNat = q.left
        ∧ r.extractLsb' 0 14 = q.rep ∧ q.fields = repFields q.rep (repCount q.rep - q.left) (laneFields q.word))
    ∧ (s.frag? f.ref = some y →
      let t := s.laneEnd c w f
      (∀ g, s.wg? c.g.ref = some g → t.wg? c.g.ref = some { g with done := g.done + 1 })
      ∧ ∃ h, t.frag? f.ref = some h ∧ h = { f with queue := h.queue, rptc := h.rptc, flight := none, seen := [] }
        ∧ (q.left = 0 → h.queue = qs ∧ h.rptc = f.rptc)
        ∧ (q.left = 1 → h.queue = qs ∧ h.rptc.extractLsb' 16 7 = 0 ∧ h.rptc.extractLsb' 0 14 = q.rep)
        ∧ (1 < q.left → q.left ≤ 64 → ∃ n, h.queue = n :: qs ∧ n = { q with left := q.left - 1 }
            ∧ (h.rptc.extractLsb' 16 7).toNat = q.left - 1 ∧ h.rptc.extractLsb' 0 14 = q.rep
            ∧ n.fields = repFields q.rep (repCount q.rep - (q.left - 1)) (laneFields q.word)))

/-- A fault of a fragment in a job's wave, running no exit routine and on its way to no point, parks it with TRAPADDR,
TRAPLPC and TRAPCAUSE set, its lane queue taken away, SPC, LPC, registers and EXEC kept and the return points held;
where its die's service queue has room, SQHEAD rises by one and the next slot holds the record laid out as R234 lays
it out, SEQ the old SQHEAD, NESTED whether a trap is in progress. (The LANES and trap registers of a trap at enqueue
and of a nested one are the model's readings, logs 24 and 25.) (R67, R72, R232, R233, R234, R260) -/
def Obligations.TrapTaken : Prop :=
  ∀ (s : State) (r : FragRef) (c : Cur) (x : TrapCtx), s.look r = some c → c.f.exiting = false → c.draining = false →
    c.j.kernel = false →
    (∃ f y, (s.raise r x).frag? r = some f ∧ f.slot = .parked .trap ∧ f.trapaddr = x.addr ∧ f.traplpc = x.lpc
      ∧ f.trapcause = x.cause ∧ f.queue = [] ∧ f.spc = c.f.spc ∧ f.lpc = c.f.lpc ∧ f.sregs = c.f.sregs ∧ f.exec = c.f.exec
      ∧ f.waiting = some y ∧ y.retry = x.retry ∧ y.skip = x.skip ∧ y.nested = c.f.inTrap.isSome)
    ∧ ∀ d, s.die? c.g.die = some d → d.sq.room = true → d.sq.late = [] →
      ∃ e, (s.raise r x).die? c.g.die = some e ∧ e.sq.head = d.sq.head + 1
        ∧ e.sq.bytes.bytesNat (4096 * (d.sq.head.toNat % 2048)) 64 = (x.addr ++ x.lpc ++ x.faddr ++ x.lanes
            ++ BitVec.ofNat 32 c.j.ref.id ++ waveid c.w.ref ++ x.cause ++ x.code ++ d.sq.head ++ 0#120
            ++ BitVec.ofNat 4 c.j.ref.part ++ BitVec.ofBool c.f.inTrap.isSome ++ 0#1 ++ BitVec.ofNat 2 c.f.ref.frag).toNat

/-- Outside an exit routine and with its stores performed, TRAP raises a trap with FAULT 0x10, SUB its code's low
byte, CODE its code, LANES EXEC, and both return points at the next instruction; TRET with a trap in progress clears
the mark and goes on at the trap's retry point with its held queue, LISSUE count and REP, EXEC and registers as they
are, or traps with FLT_ALIGN where that point's SPC is no multiple of 4 or its LPC none of 12, and without one traps
with FLT_ILLEGAL, SUB 0x0C. (R40, R72, R232, R236, R355, R356) -/
def Obligations.TrapAndReturnRule : Prop :=
  ∀ (s : State) (c : Cur) (code : BitVec 14), Plain s c →
    (Settled s c → exec (.trap code) s = .next (s.raise c.f.ref
      { addr := c.f.spc, lpc := c.f.traplpc, faddr := 0, lanes := c.f.exec, code := code
        cause := 0#2 ++ code.extractLsb' 0 8 ++ 0x10#8
        retry := { spc := c.f.spc + 4, lpc := c.f.lpc, queue := c.f.queue, lissue := none, rep := none }
        skip := { spc := c.f.spc + 4, lpc := c.f.lpc, queue := c.f.queue, lissue := none, rep := none } }))
    ∧ (c.f.inTrap = none → exec .tret s = trapResult s c 0x01 0x0C 0)
    ∧ ∀ x, c.f.inTrap = some x →
      ((x.retry.spc.toNat % 4 ≠ 0 ∨ x.retry.lpc.toNat % 12 ≠ 0) → exec .tret s = trapResult s c 0x05 0x00 0)
      ∧ (x.retry.spc.toNat % 4 = 0 → x.retry.lpc.toNat % 12 = 0 → exec .tret s = .next (s.setFrag { c.f with
        spc := x.retry.spc, lpc := x.retry.lpc, queue := x.retry.queue, lissue := x.retry.lissue, rep := x.retry.rep
        inTrap := none, callSeq := x.callSeq, passPoint := x.retry.passPoint, parkedAt := 0 }))

/-- For a fragment waiting on a trap: RETRY and SKIP continue it at its return point with the queue held there, READY,
its registers and EXEC unchanged; HANDLER, with HSPC a multiple of 4 within the scalar section, HLPC within the lane
section and the trap not nested, continues it at the handler with the trap in progress and the trap registers of the
record; END, any reserved bit, and any other HANDLER end every fragment of the wave; a verdict for a fragment that
waits on none changes nothing. (R26, R232, R235, R236, R237) -/
def Obligations.VerdictRule : Prop :=
  ∀ (s : State) (r : FragRef) (c : Cur), s.look r = some c →
    (∀ v, c.f.waiting = none → s.verdict r v = s)
    ∧ ∀ (x : TrapCtx) (v : Word64), c.f.waiting = some x →
      let hspc := (v.extractLsb' 32 32).toNat
      let hlpc := 12 * (v.extractLsb' 8 24).toNat
      let goesTo (f : Frag) (p : RetPoint) : Prop := f.spc = p.spc ∧ f.lpc = p.lpc ∧ f.queue = p.queue ∧ f.lissue = p.lissue
        ∧ f.passPoint = p.passPoint ∧ f.waiting = none ∧ f.slot = .ready ∧ f.sregs = c.f.sregs ∧ f.exec = c.f.exec
      let handled : Prop := x.nested = false ∧ hspc % 4 = 0 ∧ hspc < c.j.scalarSize ∧ hlpc < c.j.laneSize
      (v.extractLsb' 0 8 = 1 → ∃ f, (s.verdict r v).frag? r = some f ∧ goesTo f x.retry)
      ∧ (v.extractLsb' 0 8 = 2 → ∃ f, (s.verdict r v).frag? r = some f ∧ goesTo f x.skip)
      ∧ (v.extractLsb' 0 8 = 3 → handled → ∃ f, (s.verdict r v).frag? r = some f
          ∧ goesTo f { spc := c.j.scalarBase + BitVec.ofNat 64 hspc, lpc := c.j.laneBase + BitVec.ofNat 64 hlpc }
          ∧ f.inTrap = some x ∧ f.trapcause = x.cause ∧ f.trapaddr = x.addr ∧ f.traplpc = x.lpc)
      ∧ ((v.extractLsb' 0 2 = 0 ∨ v.extractLsb' 2 6 ≠ 0 ∨ (v.extractLsb' 0 2 = 3 ∧ ¬ handled)) →
          ∀ f ∈ (s.verdict r v).frags, f.ref.wave ≠ r.wave)

/-- With the stores performed, outside kernel mode, with at least 4 lane registers and v0 to v3 clean in the active
lanes, SVC with EXEC not 0 takes the next call number of the wave, or keeps the one it has, parks, and where the queue
has room posts the record, whose slot holds 16 bytes of v0 to v3 for each active lane; with EXEC 0 it goes on and
keeps no number. In kernel mode it traps with SUB 0x0E, with fewer registers with SUB 0x03. SVCRET in kernel mode
answers the record that s2 names, as a store to SQDONE does, and outside it traps with FLT_PRIV. (R72, R249, R259,
R260, R347) -/
def Obligations.ServiceCallRule : Prop :=
  ∀ (s : State) (c : Cur) (n : BitVec 10), Plain s c →
    (Settled s c →
      (roleVregs c.role < 4 → exec (.svc n) s = trapResult s c 0x01 0x03 0)
      ∧ (4 ≤ roleVregs c.role → c.j.kernel = true → exec (.svc n) s = trapResult s c 0x01 0x0E 0)
      ∧ (c.j.kernel = false → exec .svcret s = trapResult s c 0x0A 0x00 0))
    ∧ (c.j.kernel = true → c.clean [2] → Settled s c →
        exec .svcret s = .next ((s.setFrag { c.f with spc := c.f.spc + 4 }).sqDone c.g.die ((c.f.s 2).setWidth 32)))
    ∧ (4 ≤ roleVregs c.role → c.j.kernel = false → Settled s c →
      (c.f.exec = 0 → exec (.svc n) s = .next (s.setFrag { c.f with callSeq := none, spc := c.f.spc + 4 }))
      ∧ (c.f.exec ≠ 0 → (∀ l ∈ lanesOf c.j.width c.f.exec, ∀ r, r < 4 → c.w.vPoisoned r l = false) →
        let seq := c.f.callSeq.getD c.w.seqctr
        ∃ t f w, exec (.svc n) s = .next t ∧ t.frag? c.f.ref = some f ∧ f.slot = .parked (.svc seq) ∧ f.callSeq = some seq
          ∧ f.spc = c.f.spc ∧ t.wave? c.w.ref = some w
          ∧ w.seqctr = (if c.f.callSeq.isSome then c.w.seqctr else c.w.seqctr + 1)
          ∧ ∀ d, s.die? c.g.die = some d → d.sq.room = true → d.sq.late = [] → c.f.exec.toNat < 2 ^ c.j.width →
            ∃ e q, t.die? c.g.die = some e ∧ e.sq.head = d.sq.head + 1 ∧ q ∈ e.sq.opened ∧ q.seq = d.sq.head ∧ q.batch = true
              ∧ q.caller = c.f.ref ∧ q.callSeq = seq ∧ q.number = n ∧ q.lanes = c.f.exec
              ∧ ∀ i l, (lanesOf c.j.width c.f.exec)[i]? = some l →
                  e.sq.bytes.bytesNat (4096 * (d.sq.head.toNat % 2048) + 64 + 16 * i) 16
                    = (c.w.v 3 l ++ c.w.v 2 l ++ c.w.v 1 l ++ c.w.v 0 l).toNat))

/-- With its register in the allotment and the stores performed, each form of TLBI outside kernel mode traps with
FLT_PRIV; in kernel mode with s_a clean, reserved bits of the operand trap with FLT_ILLEGAL, SUB 0x01, and otherwise
the invalidation stands with its operand and the slot waits for it, unparked. (R46, R164, R165, R281, R353, R354) -/
def Obligations.TlbiRule : Prop :=
  ∀ (s : State) (c : Cur) (a : BitVec 6), Plain s c → Settled s c → c.has [a] →
    (c.j.kernel = false → exec (.tlbiPage a) s = trapResult s c 0x0A 0x00 0 ∧ exec (.tlbiJob a) s = trapResult s c 0x0A 0x00 0
      ∧ exec (.tlbiPartition a) s = trapResult s c 0x0A 0x00 0)
    ∧ (c.j.kernel = true → c.clean [a] →
      let stands (kind : BitVec 2) : Out := .next (({ s with
        serial := s.serial + 1
        tlbis := s.tlbis ++ [{ id := s.serial, kind := kind, operand := c.f.s a, caller := c.f.ref, since := s.cycle }] } : State).setFrag
          { c.f with slot := .waiting (.tlbi s.serial) })
      ((c.f.s a).extractLsb' 57 7 ≠ 0 → exec (.tlbiPage a) s = trapResult s c 0x01 0x01 0)
      ∧ ((c.f.s a).extractLsb' 16 48 ≠ 0 → exec (.tlbiJob a) s = trapResult s c 0x01 0x01 0)
      ∧ ((c.f.s a).extractLsb' 4 60 ≠ 0 → exec (.tlbiPartition a) s = trapResult s c 0x01 0x01 0)
      ∧ ((c.f.s a).extractLsb' 57 7 = 0 → exec (.tlbiPage a) s = stands 0)
      ∧ ((c.f.s a).extractLsb' 16 48 = 0 → exec (.tlbiJob a) s = stands 1)
      ∧ ((c.f.s a).extractLsb' 4 60 = 0 → exec (.tlbiPartition a) s = stands 2))

/-- EXITDONE in an exit routine whose deadline has not passed marks it done and moves SPC on, and a later one ends the
routine as an overrun does; ENTRYDONE in an entry routine whose verification finds no mismatch restores SPC, LPC, EXEC
and RPTC as saved, puts the saved queue behind the present one, brings back the trap in progress and ends the routine,
where no request is held; outside their routines both trap with FLT_ILLEGAL, SUB 0x0C. (R237, R241, R245, R250, R251,
R310) -/
def Obligations.RoutineEndRule : Prop :=
  ∀ (s : State) (c : Cur), Issues s c →
    (∀ t n d p, c.f.routine = .exit t n d → s.part? c.j.ref.part = some p →
      (s.cycle ≤ t + p.exitdl → exec .exitdone s = .next (s.setFrag { c.f with routine := .exit t n true, spc := c.f.spc + 4 }))
      ∧ (t + p.exitdl < s.cycle → exec .exitdone s = .next (s.modWg c.g.ref (fun g => g.fallBack s.cycle))))
    ∧ (c.f.exiting = false → exec .exitdone s = trapResult s c 0x01 0x0C 0)
    ∧ (c.f.routine = .none → exec .entrydone s = trapResult s c 0x01 0x0C 0)
    ∧ ∀ r, c.f.routine = .entry → c.f.resume = some r → s.entryMismatch c r = none → c.g.held = none →
      ∃ t f, exec .entrydone s = .next t ∧ t.frag? c.f.ref = some f ∧ f.spc = r.spc ∧ f.lpc = r.lpc ∧ f.exec = r.exec
        ∧ f.rptc = r.rptc ∧ f.queue = c.f.queue ++ r.queue ∧ f.lissue = r.lissue ∧ f.inTrap = r.trap ∧ f.callSeq = r.callSeq ∧ f.routine = .none
        ∧ f.sregs = c.f.sregs

/-- Outside an exit routine, with registers in the allotment, sources clean and stores performed: at an aligned
address that translates to device memory in lines of its key SLD writes s_d with the eight little-endian bytes there,
and CPTEST, where the job keeps no log, with 1 where all, or under ANY some, bits of the mask s_b are set in the word
and else 0; at an aligned address of the address space that leads to no channel word SST posts the store of s_d and
moves on, with all of memory as before; a misaligned address traps with FLT_ALIGN and the address in FADDR. Where an
aligned address does not translate, outside kernel mode and on its way to no point, SLD parks for the fault's verdict
with SPC, registers and memory as they were: with no open entry of its job and 64 KB page in its die's fault queue,
and room there, FQHEAD rises by one and the slot of the old FQHEAD holds the record of R162 (the address, the
intermediate address, SPC, one waiter, SEQ the old FQHEAD, a scalar issuer, the cause); the first such open entry
otherwise takes the fault as one waiter more, FQHEAD unchanged. (FADDR of a misaligned access is the model's reading,
log 35; the moment of a posted store's translation, log 83.) (R39, R149, R153, R161, R162, R163, R164, R187, R303,
R342, R343) -/
def Obligations.ScalarMemoryRule : Prop :=
  ∀ (s : State) (c : Cur) (d a b : BitVec 6) (off : BitVec 14), Plain s c → Settled s c → c.has [d, a] → c.clean [a] →
    let va := c.f.s a + off.signExtend 64
    (va.toNat % 8 ≠ 0 → exec (.sld d a off) s = trapResult s c 0x05 0x00 va)
    ∧ (∀ p, va.toNat % 8 = 0 → s.translate (s.who c true) va .read = .ok p → PlainBytes s p 8 →
        exec (.sld d a off) s = scalarResult s c d (BitVec.ofNat 64 (Sparse.bytesNat s.mem p.pa 8)))
    ∧ (∀ e x, va.toNat % 8 = 0 → s.translate (s.who c true) va .read = .error e → c.j.kernel = false → c.draining = false →
        s.die? c.g.die = some x →
        let parks (t : State) : Prop := t.mem = s.mem ∧ ∃ f, t.frag? c.f.ref = some f
          ∧ f.slot = .parked (.page s.serial (c.f.scalarTrap 0x02 e.cause va)) ∧ f.spc = c.f.spc ∧ f.lpc = c.f.lpc
          ∧ f.sregs = c.f.sregs ∧ f.queue = c.f.queue ∧ f.exec = c.f.exec
        let merges (y : FqEntry) : Prop := y.opened = true ∧ y.gone = false ∧ y.job = c.j.ref
          ∧ y.vaddr.extractLsb' 16 41 = va.extractLsb' 16 41
        ((∀ y ∈ x.fq.entries, ¬ merges y) → x.fq.room = true →
          ∃ t z, exec (.sld d a off) s = .next t ∧ parks t ∧ t.die? c.g.die = some z ∧ z.fq.head = x.fq.head + 1
            ∧ (∃ n ∈ z.fq.entries, n.seq = x.fq.head ∧ n.opened = true ∧ n.who = [.frag c.f.ref s.serial])
            ∧ ∀ i, i < 64 → t.queueByte c.g.die (64 * (x.fq.head.toNat % 4096) + i) = byteOf
                (va ++ BitVec.ofNat 64 e.ipa ++ c.f.spc ++ BitVec.ofNat 32 c.j.ref.id ++ waveid c.w.ref ++ 1#32 ++ x.fq.head
                  ++ 0#168 ++ BitVec.ofNat 4 c.j.ref.part ++ 1#2 ++ 0#10 ++ e.cause).toNat i)
        ∧ ∀ before y after, x.fq.entries = before ++ y :: after → (∀ z ∈ before, ¬ merges z) → merges y →
          ∃ t z, exec (.sld d a off) s = .next t ∧ parks t ∧ t.die? c.g.die = some z ∧ z.fq.head = x.fq.head
            ∧ z.fq.entries = before ++ { y with waiters := y.waiters + 1, who := y.who ++ [.frag c.f.ref s.serial] } :: after)
    ∧ (c.clean [d] →
        (va.toNat % 8 ≠ 0 → exec (.sst d a off) s = trapResult s c 0x05 0x00 va)
        ∧ (va.toNat % 8 = 0 → va.extractLsb' 57 7 = 0 →
            s.namesChannel (s.who c true) va = false → (∀ p, s.translate (s.who c true) va .write = .ok p → chanOf p.pa = none) →
            exec (.sst d a off) s = .next (({ s with serial := s.serial + 1 } : State).setFrag { c.f with
              spc := c.f.spc + 4
              posted := [{ id := s.serial, elems := [{ scratch := false, addr := va, size := 8, val := c.f.s d }]
                           pc := c.f.spc, lane := false, lanes := 0, fault := none, killed := false }] })))
    ∧ (c.has [b] → c.clean [b] → c.unlogged → ∀ p, (c.f.s a).toNat % 8 = 0 →
        s.translate (s.who c true) (c.f.s a) .read = .ok p → PlainBytes s p 8 →
        let w := BitVec.ofNat 64 (Sparse.bytesNat s.mem p.pa 8)
        exec (.cptest 0 d a b) s = scalarResult s c d (if w &&& c.f.s b = c.f.s b then 1 else 0)
        ∧ exec (.cptest 1 d a b) s = scalarResult s c d (if w &&& c.f.s b ≠ 0 then 1 else 0))

/-- Outside an exit routine, with registers in the allotment, sources clean, stores performed and s_a translating for
a write: where it names no channel CPSTART traps with FLT_RECORD, SUB 0x30; where a check of the command fails it
traps with that; with 32 unfired commands in the channel it waits; otherwise the command joins the channel as its
last, unfired, with the word s_b and the job's template it names, the workgroup counts it as accepted, and the
fragment moves on. (R178, R179, R180, R182, R301) -/
def Obligations.CopyStartRule : Prop :=
  ∀ (s : State) (c : Cur) (a b : BitVec 6) (p : Phys), Plain s c → Settled s c → c.has [a, b] → c.clean [a, b] →
    s.translate (s.who c true) (c.f.s a) .write = .ok p →
    (chanOf p.pa = none → exec (.cpstart a b) s = trapResult s c 0x04 0x30 (c.f.s a))
    ∧ ∀ ch, chanOf p.pa = some ch →
      (∀ flt sub, cmdFault s c (c.f.s b) = some (flt, sub) → exec (.cpstart a b) s = trapResult s c flt sub (c.f.s a))
      ∧ (cmdFault s c (c.f.s b) = none →
        (32 ≤ (s.chanQueue c.g.coreId ch).length → exec (.cpstart a b) s = .next s)
        ∧ ((s.chanQueue c.g.coreId ch).length < 32 → ∃ t x f g, exec (.cpstart a b) s = .next t ∧ t.cmds = s.cmds ++ [x]
            ∧ x.wg = c.g.ref ∧ x.wave = c.w.ref.wave ∧ x.owners = [c.f.ref.frag] ∧ x.core = c.g.coreId ∧ x.chan = ch
            ∧ x.word = c.f.s b ∧ c.j.tmpls[cmdTmpl (c.f.s b)]? = some x.tmpl ∧ x.fired = false ∧ x.landed = [] ∧ x.error = none
            ∧ t.frag? c.f.ref = some f ∧ f.spc = c.f.spc + 4 ∧ f.sregs = c.f.sregs
            ∧ t.wg? c.g.ref = some g ∧ g.accepted.get ch = c.g.accepted.get ch + 1))

/-- Outside an exit routine with the stores performed: WAITADDR at an aligned word of device memory goes on where the
word stands in its condition to s_b, for each of the six conditions, and otherwise parks, and at a misaligned address
traps with FLT_ALIGN and the address in FADDR (that FADDR holds it, as R234's data address involved, is the model's
reading, log 35); EFENCE goes on where no fired command of the fragment's program order remains, at system scope with
the remote writes of its own program order arrived, and of what engines have read ahead for the fragment nothing
counts for commands that fire later, at a narrower scope but for what they read of host or peer memory (logs 28 and
30: the model's form), and otherwise its slot waits; IFENCE drops the wave's older code copies and goes on. (R28,
R176, R177, R186, R190, R234, R308, R318, R371) -/
def Obligations.WaitAndFenceRule : Prop :=
  ∀ (s : State) (c : Cur) (a b : BitVec 6) (scope : BitVec 2), Plain s c → Settled s c →
    exec .ifence s = .next ((s.setWave { c.w with fetched := [] }).setFrag { c.f with spc := c.f.spc + 4 })
    ∧ ((∀ x ∈ s.cmds, ¬ (x.wg = c.g.ref ∧ x.wave = c.w.ref.wave ∧ c.f.ref.frag ∈ x.owners ∧ x.fired = true)) →
        let u := if scope = 3 then s.landOwn c.f.ref else s
        exec (.efence scope) s = .next (({ u with cmds := u.cmds.map (fun (x : Cmd) =>
            if c.owns x && !x.fired then
              (if scope = 3 then { x with seen := [], far := [] }
               else { x with seen := x.seen.filter (fun y => x.far.contains y.1) })
            else x) } : State).setFrag
          { c.f with snaps := if scope = 3 then [] else c.f.snaps.filter (fun y => y.2.1)
                     fenced := u.fresh, sysFenced := if scope = 3 then u.fresh else c.f.sysFenced
                     peeks := if scope = 3 then [] else c.f.peeks, spc := c.f.spc + 4 }))
    ∧ ((∃ x ∈ s.cmds, x.wg = c.g.ref ∧ x.wave = c.w.ref.wave ∧ c.f.ref.frag ∈ x.owners ∧ x.fired = true) →
        exec (.efence scope) s = .next (s.setFrag { c.f with slot := .waiting .efence }))
    ∧ (c.has [a, b] → c.clean [a, b] → c.f.slot = .active →
      ((c.f.s a).toNat % 8 ≠ 0 → exec (.waitaddr 0 a b) s = trapResult s c 0x05 0x00 (c.f.s a))
      ∧ ∀ p, (c.f.s a).toNat % 8 = 0 → s.translate (s.who c true) (c.f.s a) .read = .ok p → PlainBytes s p 8 →
        let w := BitVec.ofNat 64 (Sparse.bytesNat s.mem p.pa 8)
        let v := c.f.s b
        let waits (p : Prop) [Decidable p] : Out :=
          if p then onward s c else .next (s.setFrag { c.f with slot := .parked .waitaddr, parkedAt := s.parkTime c.f })
        exec (.waitaddr 0 a b) s = waits (w = v) ∧ exec (.waitaddr 1 a b) s = waits (w ≠ v)
        ∧ exec (.waitaddr 2 a b) s = waits (w.toNat < v.toNat) ∧ exec (.waitaddr 3 a b) s = waits (v.toNat ≤ w.toNat)
        ∧ exec (.waitaddr 4 a b) s = waits (w.toInt < v.toInt) ∧ exec (.waitaddr 5 a b) s = waits (v.toInt ≤ w.toInt))

/-- Outside an exit routine, active, with 16 event slots and the stores performed: ARM of kind barrier of a
constellation used that has the wave as member, bitmap and the global and scratchpad forms of mailbox and addr at
aligned words that translate, pool with a good handle, reply and baton with field a 0 (baton in a baton-mode role),
and timer with a 32-bit period, binds its slot, with the operand, the handler at the label and its start now; a
timer's reserved bits and a wave outside the constellation trap. (R191, R192, R207, R287, R288) -/
def Obligations.ArmRule : Prop :=
  ∀ (s : State) (c : Cur) (n : BitVec 4) (a : BitVec 6) (off : BitVec 11), Plain s c → Settled s c → c.f.slot = .active →
    c.w.evslots.length = 16 →
    let v := c.f.s a
    let word : Prop := (v.getLsbD 63 = false ∧ v.toNat % 8 = 0 ∧ ∃ p, s.translate (s.who c true) v .read = .ok p)
      ∨ (v.getLsbD 63 = true ∧ v.extractLsb' 19 44 = 0 ∧ (v.extractLsb' 0 19).toNat + 8 ≤ c.j.scratchSize
          ∧ (v.extractLsb' 0 19).toNat % 8 = 0 ∧ c.g.stashAddr (v.extractLsb' 0 19).toNat = none)
    (c.has [0] → Arms (.armReply n 0 off) s c n 5 0 0 off)
    ∧ (c.has [0] → c.batonMode = true → Arms (.armBaton n 0 off) s c n 7 0 0 off)
    ∧ (c.has [0] → c.batonMode = false → exec (.armBaton n 0 off) s = trapResult s c 0x07 0x04 0)
    ∧ (c.has [a] → c.clean [a] →
      (v.extractLsb' 32 32 = 0 → Arms (.armTimer n a off) s c n 6 v 0 off)
      ∧ (v.extractLsb' 32 32 ≠ 0 → exec (.armTimer n a off) s = trapResult s c 0x01 0x01 0)
      ∧ (v.extractLsb' 8 56 = 0 → (c.j.barrier? (v.setWidth 8)).isSome = true → (c.w.member? (v.setWidth 8)).isSome = true →
          Arms (.armBarrier n a off) s c n 0 v 0 off)
      ∧ (v.extractLsb' 8 56 = 0 → (c.w.member? (v.setWidth 8)) = none →
          exec (.armBarrier n a off) s = trapResult s c 0x08 0x01 0)
      ∧ (s.handleFault c v true = none → Arms (.armPool n a off) s c n 3 v 0 off)
      ∧ (word → Arms (.armMailbox n a off) s c n 2 v 0 off ∧ Arms (.armAddr n a off) s c n 4 v 0 off)
      ∧ (a ≠ 63 → c.has [a + 1] → c.clean [a + 1] → v.toNat % 8 = 0 → (∃ p, s.translate (s.who c true) v .read = .ok p) →
          Arms (.armBitmap n a off) s c n 1 v (c.f.s (a + 1)) off))

/-- Outside an exit routine: with the stores performed AWAIT with no slot listed traps with SUB 0x0A and with no
listed slot armed with SUB 0x0B; with no listed armed slot pending and unmasked it parks; otherwise, where the job
keeps no log, at the lowest such slot its PEV bit clears, EVSLOT and EVINFO take the slot and its information, and SPC
its handler. DISARM leaves its slot disarmed, and where it was armed its PEV bit clear, and moves SPC on; where no
fragment of the wave waits in AWAIT that is all it changes: no other slot, no other PEV bit, nothing else of the
fragment, the workgroup or the machine. (R72, R164, R192, R193, R281, R289, R307) -/
def Obligations.AwaitDisarmRule : Prop :=
  ∀ (s : State) (c : Cur) (l : BitVec 16) (n : BitVec 4), Plain s c →
    (Settled s c → exec (.await 0) s = trapResult s c 0x01 0x0A 0
      ∧ (l ≠ 0 →
        let r := c.w.pev &&& (l &&& c.w.armed) &&& ~~~c.w.evmask
        (l &&& c.w.armed = 0 → exec (.await l) s = trapResult s c 0x01 0x0B 0)
        ∧ (l &&& c.w.armed ≠ 0 → r = 0 → exec (.await l) s = .next (({ s with serial := s.serial + 1 } : State).setFrag
            { c.f with slot := .parked (.await l s.serial), parkedAt := s.parkTime c.f }))
        ∧ ∀ k e, l &&& c.w.armed ≠ 0 → r ≠ 0 → c.unlogged → c.f.slot = .active → k < 16 → r.getLsbD k = true →
            (∀ j, j < k → r.getLsbD j = false) → c.w.evslots[k]? = some e →
            exec (.await l) s = .next ((s.setWave { c.w with pev := c.w.pev &&& ~~~(1#16 <<< k) }).setFrag
              { c.f with evslot := BitVec.ofNat 64 k, evinfo := e.info, spc := e.handler })))
    ∧ (∃ t w f, exec (.disarm n) s = .next t ∧ t.wave? c.w.ref = some w ∧ t.frag? c.f.ref = some f
        ∧ (∀ e, w.evslots[n.toNat]? = some e → e.armed = false)
        ∧ (c.w.armed.getLsbD n.toNat = true → w.pev.getLsbD n.toNat = false)
        ∧ (c.f.awaits = none → f.spc = c.f.spc + 4))
    ∧ ((∀ f ∈ s.frags, f.ref.wave = c.w.ref → f.awaits = none) →
        ∃ w : Wave, exec (.disarm n) s = .next ((s.setWave w).setFrag { c.f with spc := c.f.spc + 4 })
          ∧ w = { c.w with pev := w.pev, evslots := w.evslots }
          ∧ w.pev = (if c.w.armed.getLsbD n.toNat then c.w.pev &&& ~~~(1#16 <<< n.toNat) else c.w.pev)
          ∧ w.evslots.length = c.w.evslots.length
          ∧ ∀ (k : Nat) (e : EvSlot), w.evslots[k]? = some e → ∃ x : EvSlot, c.w.evslots[k]? = some x
              ∧ e = { x with armed := x.armed && decide (k ≠ n.toNat) })

/-- Outside an exit routine with the stores performed, each of the three traps with FLT_BARRIER, SUB 0x01, where the
wave is no member. For a member of a used constellation: a broken barrier traps BARARRIVE and BARWAIT with SUB 0x03;
BARARRIVE adds s_a to the pending bytes and counts the wave once a phase, giving it the phase after the present as
target, and where that fills the phase with no bytes pending the phase number rises by one and the count starts at 0;
BARWAIT goes on where its target has come and otherwise parks; BARINIT restores a broken barrier and leaves another as
it is. (R32, R72, R189, R292) -/
def Obligations.BarrierRule : Prop :=
  ∀ (s : State) (c : Cur) (a : BitVec 6) (k : BitVec 8), Plain s c → Settled s c → c.has [a] → c.clean [a] →
    (c.w.member? k = none → exec (.barinit k) s = trapResult s c 0x08 0x01 0
      ∧ exec (.bararrive a k) s = trapResult s c 0x08 0x01 0 ∧ exec (.barwait k) s = trapResult s c 0x08 0x01 0)
    ∧ ∀ b m, c.j.barrier? k = some b → c.w.member? k = some m →
      (b.broken = true → exec (.bararrive a k) s = trapResult s c 0x08 0x03 0 ∧ exec (.barwait k) s = trapResult s c 0x08 0x03 0
        ∧ ∃ t j b', exec (.barinit k) s = .next t ∧ t.job? c.j.ref = some j ∧ j.barrier? k = some b' ∧ b'.broken = false
          ∧ b'.pending = 0 ∧ b'.arrived = 0 ∧ b'.phase = b.phase + 1)
      ∧ (b.broken = false →
        exec (.barinit k) s = onward s c
        ∧ exec (.barwait k) s = (if (b.phase - m.target).toInt < 0 then
            .next (s.setFrag { c.f with slot := .parked (.barwait k), parkedAt := s.parkTime c.f }) else onward s c)
        ∧ (let n := b.pending + (c.f.s a).toInt
           let count := if m.arrived then b.arrived else b.arrived + 1
           let lo : Int := -(2 ^ 31)
           lo ≤ n → n ≤ 2 ^ 31 - 1 → ∃ t j b', exec (.bararrive a k) s = .next t ∧ t.job? c.j.ref = some j
             ∧ j.barrier? k = some b' ∧ b'.pending = n
             ∧ (if 0 < count ∧ count = b.expect ∧ n = 0 then b'.phase = b.phase + 1 ∧ b'.arrived = 0
                else b'.phase = b.phase ∧ b'.arrived = count
                  ∧ ∃ w m', t.wave? c.w.ref = some w ∧ w.member? k = some m' ∧ m'.arrived = true
                    ∧ m'.target = (if m.arrived then m.target else b.phase + 1))))

/-- Outside an exit routine with the stores performed: in a role without baton mode both trap with FLT_BATON, SUB
0x03. Otherwise TAKE goes on where the wave holds the baton and parks where it does not; PASS by a wave that does not
hold it traps with SUB 0x02, and by the holder gives the baton to the next wave of the ring that has not ended,
wrapping, and moves on. (R29, R72, R295, R296, R297) -/
def Obligations.BatonRule : Prop :=
  ∀ (s : State) (c : Cur), Plain s c → Settled s c →
    (c.batonMode = false → exec .batonTake s = trapResult s c 0x07 0x03 0 ∧ exec .batonPass s = trapResult s c 0x07 0x03 0)
    ∧ (c.batonMode = true →
      (c.w.ref.wave ∈ c.g.baton → exec .batonTake s = onward s c)
      ∧ (c.w.ref.wave ∉ c.g.baton →
          exec .batonTake s = .next (s.setFrag { c.f with slot := .parked .baton, parkedAt := s.parkTime c.f })
          ∧ exec .batonPass s = trapResult s c 0x07 0x02 0)
      ∧ ∀ n, c.w.ref.wave ∈ c.g.baton → nextHolder (s.ring c.g.ref c.w.role) c.w.ref.wave = some n →
          ∃ t g, exec .batonPass s = .next t ∧ t.wg? c.g.ref = some g ∧ n ∈ g.baton
            ∧ (n ≠ c.w.ref.wave → c.w.ref.wave ∉ g.baton)
            ∧ ((c.f.ref.wave ≠ { wg := c.g.ref, wave := n } ∨ c.f.slot ≠ .parked .baton) → c.f.awaits = none →
                ∃ f, t.frag? c.f.ref = some f ∧ f.spc = c.f.spc + 4))

/-- With its mask select and the sources it reads clean, in an exit routine too, VADD, VSUB, VMUL and VMAD write each
active lane of D with the exact result wrapped, or clamped under saturate; VMULH with the high half of the product;
VMIN, VMAX and VABS with theirs, VABS without saturation; VDIV with the quotient toward zero and VREM with its
remainder, division by 0 giving all ones and the dividend. The instruction is done, no flag is set and nothing else is
written. (R51, R58, R121, R122, R123, R124) -/
def Obligations.LaneArithmeticResults : Prop :=
  ∀ (s : State) (c : Cur) (f : LaneOps), LaneReady s c 0 f →
    let x := laneAt s c f
    let A (l : Nat) : Int := elemInt f.ty (x.srcA f.ty l)
    let B (l : Nat) : Int := elemInt f.ty (x.srcB f.ty l)
    let C (l : Nat) : Int := elemInt f.ty (x.srcC f.ty l)
    let exact (h : Nat → Int) : Out := laneResult s x f.ty f.dest (fun l => wrapOrClamp f.ty f.sat (h l)) 0
    let plain (h : Nat → Int) : Out := laneResult s x f.ty f.dest (fun l => elemOf f.ty (h l)) 0
    let w := if tyIs64 f.ty then 64 else 32
    (x.poisonSrc f.ty 1 = none → exec (.vabs f) s = plain (fun l => ((A l).natAbs : Int)))
    ∧ (x.poisonSrc f.ty 2 = none →
      exec (.vadd f) s = exact (fun l => A l + B l) ∧ exec (.vsub f) s = exact (fun l => A l - B l)
      ∧ exec (.vmul f) s = exact (fun l => A l * B l) ∧ exec (.vmulh f) s = plain (fun l => A l * B l / 2 ^ w)
      ∧ exec (.vmin f) s = plain (fun l => if A l ≤ B l then A l else B l)
      ∧ exec (.vmax f) s = plain (fun l => if A l ≤ B l then B l else A l)
      ∧ exec (.vdiv f) s = plain (fun l => if B l = 0 then (if tyIsSigned f.ty then -1 else 2 ^ w - 1) else (A l).tdiv (B l))
      ∧ exec (.vrem f) s = plain (fun l => if B l = 0 then A l else A l - B l * (A l).tdiv (B l)))
    ∧ (x.poisonSrc f.ty 3 = none → exec (.vmad f) s = exact (fun l => A l * B l + C l))

/-- For the integer types of 32 and 64 bits: an element written from a number reads as that number modulo 2 to the
width, and as the number itself where it lies in the type's range; saturation gives the nearest number of the range.
For a value below 2^n: VCLZ's count leaves exactly that many zero bits above the highest one, VCTZ's below the lowest
one, reversal swaps bit i with bit n-1-i, and the population count of a value and its complement sum to n. A loaded s8
or s16 is sign-extended to 32 bits. (R48, R104, R123, R125, R126) -/
def Obligations.LaneNumberLaws : Prop :=
  (∀ t ∈ ([0x04, 0x05, 0x08, 0x09] : List (BitVec 5)), ∀ z : Int,
    let w := if tyIs64 t then 64 else 32
    let lo : Int := if tyIsSigned t then -(2 ^ (w - 1)) else 0
    let hi : Int := if tyIsSigned t then 2 ^ (w - 1) - 1 else 2 ^ w - 1
    (elemInt t (elemOf t z) - z) % 2 ^ w = 0 ∧ lo ≤ elemInt t (elemOf t z) ∧ elemInt t (elemOf t z) ≤ hi
    ∧ wrapOrClamp t 0 z = elemOf t z
    ∧ elemInt t (wrapOrClamp t 1 z) = (if z < lo then lo else if hi < z then hi else z))
  ∧ (∀ (n : Nat) (a : Word64), 0 < n → n ≤ 64 → a.toNat < 2 ^ n →
    leadZeros n a ≤ n ∧ a.toNat < 2 ^ (n - leadZeros n a) ∧ (a ≠ 0 → 2 ^ (n - leadZeros n a) ≤ 2 * a.toNat)
    ∧ trailZeros n a ≤ n ∧ (a ≠ 0 → a.getLsbD (trailZeros n a) = true) ∧ (∀ i, i < trailZeros n a → a.getLsbD i = false)
    ∧ (∀ i, i < n → (reverseBits n a).getLsbD i = a.getLsbD (n - 1 - i))
    ∧ popCount n a + popCount n (~~~a) = n)
  ∧ ∀ v, (v < 2 ^ 8 → (((loaded 0x02 v).setWidth 32).toInt - v) % 2 ^ 8 = 0 ∧ -(2 ^ 7) ≤ ((loaded 0x02 v).setWidth 32).toInt
        ∧ ((loaded 0x02 v).setWidth 32).toInt < 2 ^ 7)
      ∧ (v < 2 ^ 16 → (((loaded 0x03 v).setWidth 32).toInt - v) % 2 ^ 16 = 0
        ∧ -(2 ^ 15) ≤ ((loaded 0x03 v).setWidth 32).toInt ∧ ((loaded 0x03 v).setWidth 32).toInt < 2 ^ 15)

/-- With mask select and sources clean: VAND, VOR and VXOR write the bitwise results; VSHL and VSHR the shifts by B
modulo the width and VSRA the arithmetic shift; VPOPC, VCLZ, VCTZ and VBREV the counts and the reversal over the
type's width; VBFE the field of A at the offset and length that B gives, clipped to the element, extended by the type;
VBFI C with that field replaced by the low bits of A. (R58, R122, R125, R126) -/
def Obligations.LaneBitResults : Prop :=
  ∀ (s : State) (c : Cur) (f : LaneOps), LaneReady s c 0 f →
    let x := laneAt s c f
    let A := x.srcA f.ty
    let B := x.srcB f.ty
    let C := x.srcC f.ty
    let w := if tyIs64 f.ty then 64 else 32
    let put (h : Nat → Word64) : Out := laneResult s x f.ty f.dest h 0
    let o (l : Nat) : Nat := (B l).toNat % 2 ^ 7
    let len (l : Nat) : Nat := if o l < w then min ((B l).toNat / 2 ^ 8 % 2 ^ 7) (w - o l) else 0
    let field (l : Nat) : Nat := (A l).toNat / 2 ^ o l % 2 ^ len l
    let hole (l : Nat) : Word64 := BitVec.ofNat 64 ((2 ^ len l - 1) * 2 ^ o l)
    (x.poisonSrc f.ty 1 = none →
      exec (.vpopc f) s = put (fun l => BitVec.ofNat 64 (popCount w (A l)))
      ∧ exec (.vclz f) s = put (fun l => BitVec.ofNat 64 (leadZeros w (A l)))
      ∧ exec (.vctz f) s = put (fun l => BitVec.ofNat 64 (trailZeros w (A l)))
      ∧ exec (.vbrev f) s = put (fun l => reverseBits w (A l)))
    ∧ (x.poisonSrc f.ty 2 = none →
      exec (.vand f) s = put (fun l => A l &&& B l) ∧ exec (.vor f) s = put (fun l => A l ||| B l)
      ∧ exec (.vxor f) s = put (fun l => A l ^^^ B l)
      ∧ exec (.vshl f) s = put (fun l => A l <<< ((B l).toNat % w)) ∧ exec (.vshr f) s = put (fun l => A l >>> ((B l).toNat % w))
      ∧ exec (.vsra f) s = put (fun l => elemOf f.ty (elemInt f.ty (A l) / 2 ^ ((B l).toNat % w)))
      ∧ exec (.vbfe f) s = put (fun l =>
          if tyIsSigned f.ty ∧ len l ≠ 0 ∧ 2 ^ (len l - 1) ≤ field l then elemOf f.ty ((field l : Int) - 2 ^ len l)
          else BitVec.ofNat 64 (field l)))
    ∧ (x.poisonSrc f.ty 3 = none →
      exec (.vbfi f) s = put (fun l => (C l &&& ~~~hole l) ||| ((A l <<< o l) &&& hole l)))

/-- With masks and sources clean: VCMP writes each active bit of D, a mask or EXEC, with its condition, for each of
the six codes; XBALLOT with whether A is not 0; VSEL takes A where the mask bit is 1 and else B; VMOV and VLI copy A;
VLANE writes the lane number; MAND, MOR, MXOR, MANDN, MNOT and MMOV combine masks in the active lanes; MPOPC writes
the count of the mask's active lanes. (R23, R50, R53, R127, R133, R324, R362, R363) -/
def Obligations.LaneCompareMoveMaskResults : Prop :=
  ∀ (s : State) (c : Cur) (f : LaneOps), LaneReady s c 0 f →
    let x := laneAt s c f
    let A := x.srcA f.ty
    let B := x.srcB f.ty
    let ma := x.maskIn f.a
    let mb := x.maskIn f.b
    let put (h : Nat → Word64) : Out := laneResult s x f.ty f.dest h 0
    let mask (bits : Word64) : Out := maskResult s x f.dest bits 0
    exec (.vlane f) s = put (fun l => BitVec.ofNat 64 l)
    ∧ (x.poisonSrc f.ty 1 = none →
      exec (.vmov f) s = put A ∧ exec (.vli f) s = put A
      ∧ exec (.xballot f) s = mask (maskOf x.lanes (fun l => decide (x.selA f.ty l ≠ 0))))
    ∧ (x.poisonSrc f.ty 2 = none →
      (∀ p ∈ ([(0, fun a b => decide (a = b)), (1, fun a b => decide (a ≠ b)), (2, fun a b => decide (a < b)),
            (3, fun a b => decide (a ≤ b)), (4, fun a b => decide (b < a)), (5, fun a b => decide (b ≤ a))]
          : List (BitVec 4 × (Int → Int → Bool))), f.flags = p.1 →
        exec (.vcmp f) s = mask (maskOf x.lanes (fun l => p.2 (elemInt f.ty (A l)) (elemInt f.ty (B l)))))
      ∧ (x.maskPoisoned f.c = false →
        exec (.vsel f) s = put (fun l => if (x.maskIn f.c).getLsbD l then A l else B l)))
    ∧ (x.maskPoisoned f.a = false →
      exec (.mnot f) s = mask (~~~ma) ∧ exec (.mmov f) s = mask ma
      ∧ exec (.mpopc f) s = laneResult s x 0x08 f.dest (fun _ => BitVec.ofNat 64 (laneCount (ma &&& x.act))) 0
      ∧ (x.maskPoisoned f.b = false →
        exec (.mand f) s = mask (ma &&& mb) ∧ exec (.mor f) s = mask (ma ||| mb) ∧ exec (.mxor f) s = mask (ma ^^^ mb)
        ∧ exec (.mandn f) s = mask (ma &&& ~~~mb)))

/-- With mask select and sources clean, each of FADD to FTANH writes each active lane of D with its result under the
rounding of its override or of the FMODE it was enqueued with, on f32 or on both halves of a pair, and ORs the flags
of all active lanes into FFLAGS: the results are the model's operations add, mul, fma, fDiv, fSqrt and the rest, whose
exact values and rounding FloatLaws states and whose method for the functions of R132 is the model's choice (log 31);
FCMP writes its condition into a mask, unordered pairs satisfying only NE and UNORD, with NV where R130 says; FCLASS
writes the class bit of R131 and sets no flag. (R103, R110, R112, R129, R130, R131, R132, R311, R313, R314) -/
def Obligations.FloatResults : Prop :=
  ∀ (s : State) (c : Cur) (f : LaneOps), LaneReady s c 0x100 f →
    let x := laneAt s c f
    let rm := rmOf f.rnd s.issue.fmode
    let sb := subnOf s.issue.fmode
    let put (h : Fmt → Nat → Nat → Nat → Coded) : Out :=
      laneResult s x f.ty f.dest (fun l => (perElem f.ty h (x.srcA f.ty l) (x.srcB f.ty l) (x.srcC f.ty l)).1)
        (x.flags (fun l => (perElem f.ty h (x.srcA f.ty l) (x.srcB f.ty l) (x.srcC f.ty l)).2))
    let a (l : Nat) : FVal := fmtF32.decode sb (x.srcA f.ty l).toNat
    let b (l : Nat) : FVal := fmtF32.decode sb (x.srcB f.ty l).toNat
    let nan (l : Nat) : Bool := (a l).isNan || (b l).isNan
    let cmp (holds : Ordering → Bool) (unordered quiet : Bool) : Out :=
      maskResult s x f.dest (maskOf x.lanes (fun l => if nan l then unordered else holds ((a l).cmp (b l))))
        (x.flags (fun l => if (if quiet then (a l).isSnan || (b l).isSnan else nan l) then flNV else 0))
    (x.poisonSrc f.ty 1 = none →
      exec (.fsqrt f) s = put (fun _ a _ _ => fSqrt rm sb a) ∧ exec (.frcp f) s = put (fun _ a _ _ => fRcp rm sb a)
      ∧ exec (.frsq f) s = put (fun _ a _ _ => fRsq rm sb a) ∧ exec (.fexp2 f) s = put (fun _ a _ _ => fExp2 rm sb a)
      ∧ exec (.flog2 f) s = put (fun _ a _ _ => fLog2 rm sb a) ∧ exec (.fsin f) s = put (fun _ a _ _ => fSin rm sb a)
      ∧ exec (.fcos f) s = put (fun _ a _ _ => fCos rm sb a) ∧ exec (.ftanh f) s = put (fun _ a _ _ => fTanh rm sb a)
      ∧ exec (.fclass f) s = laneResult s x f.ty f.dest (fun l => classOf (x.srcA f.ty l).toNat) 0)
    ∧ (x.poisonSrc f.ty 2 = none →
      exec (.fadd f) s = put (fun fm a b _ => fm.add rm sb false a b)
      ∧ exec (.fsub f) s = put (fun fm a b _ => fm.add rm sb true a b)
      ∧ exec (.fmul f) s = put (fun fm a b _ => fm.mul rm sb a b) ∧ exec (.fdiv f) s = put (fun _ a b _ => fDiv rm sb a b)
      ∧ exec (.fmin f) s = put (fun fm a b _ => fm.minmax false sb a b)
      ∧ exec (.fmax f) s = put (fun fm a b _ => fm.minmax true sb a b)
      ∧ (f.flags = 0 → exec (.fcmp f) s = cmp (fun o => o == .eq) false true)
      ∧ (f.flags = 1 → exec (.fcmp f) s = cmp (fun o => o != .eq) true true)
      ∧ (f.flags = 2 → exec (.fcmp f) s = cmp (fun o => o == .lt) false false)
      ∧ (f.flags = 3 → exec (.fcmp f) s = cmp (fun o => o != .gt) false false)
      ∧ (f.flags = 4 → exec (.fcmp f) s = cmp (fun o => o == .gt) false false)
      ∧ (f.flags = 5 → exec (.fcmp f) s = cmp (fun o => o != .lt) false false)
      ∧ (f.flags = 6 → exec (.fcmp f) s = cmp (fun _ => true) false true)
      ∧ (f.flags = 7 → exec (.fcmp f) s = cmp (fun _ => false) true true))
    ∧ (x.poisonSrc f.ty 3 = none → exec (.ffma f) s = put (fun fm a b c => fm.fma rm sb a b c))

/-- A number m over 2^d, with a tail where sticky, rounds to an integer within half a unit, to the even one on a tie,
under RNE, to the floor under RTZ, and away from zero under RUP only where positive, under RDN only where negative,
inexact where something is lost. In each of the six formats encoding a non-zero value gives, unless OF is set, the
code of its sign whose value is the magnitude so rounded at the format's quantum for it, NX where that was inexact,
and under OF the overflow code, the rounded magnitude being above the largest finite one; under SUBN a subnormal code
of the lane formats becomes a zero with UF and NX; a finite code's value encodes to that code. On finite operands add
(and subtract), mul and fma encode the exact sum, product, and product and addend, once, an exact zero sum having the
sign of R110; fDiv and fSqrt encode the quotient and the root cut to 27 bits or more with a tail where they are not
exact; a conversion between formats encodes the decoded value, one to an integer rounds it and clamps it, one of an
integer encodes it; a dot product of no terms is its finite addend and of one product the exact sum rounded once. A
sum with a NaN is the canonical NaN. (R101, R102, R110, R111, R112, R113, R117, R129, R131, R132) -/
def Obligations.FloatLaws : Prop :=
  let sgn (n : Bool) (z : Int) : Int := if n then -z else z
  let at' (lo : Int) (n : Bool) (m : Nat) (e : Int) : Int := sgn n (m * 2 ^ (e - lo).toNat : Nat)
  let summed (fm : Fmt) (rm : RM) (sb : Bool) (r : Coded) (n1 : Bool) (m1 : Nat) (e1 : Int) (n2 : Bool) (m2 : Nat) (e2 : Int) : Prop :=
    let lo := min e1 e2
    let x := at' lo n1 m1 e1 + at' lo n2 m2 e2
    (x ≠ 0 → r = fm.encode rm sb false (decide (x < 0)) x.natAbs lo false)
    ∧ (x = 0 → r = (fm.signed (if m1 = 0 ∧ m2 = 0 ∧ n1 = n2 then n1 else decide (rm = .rdn)) 0, 0))
  (∀ (rm : RM) (neg sticky : Bool) (m d : Nat), 0 < d →
    let r := (roundInt rm neg m d sticky).1
    let lost : Prop := m % 2 ^ d ≠ 0 ∨ sticky = true
    ((roundInt rm neg m d sticky).2 = true ↔ lost)
    ∧ (rm = .rne → 2 * (r * 2 ^ d) ≤ 2 * m + 2 ^ d ∧ 2 * (m + (if sticky then 1 else 0)) ≤ 2 * (r * 2 ^ d) + 2 ^ d
        ∧ (sticky = false → 2 * (m % 2 ^ d) = 2 ^ d → r % 2 = 0))
    ∧ (rm = .rtz → r = m / 2 ^ d)
    ∧ (rm = .rup → (lost → neg = false → r = m / 2 ^ d + 1) ∧ (¬ (lost ∧ neg = false) → r = m / 2 ^ d))
    ∧ (rm = .rdn → (lost → neg = true → r = m / 2 ^ d + 1) ∧ (¬ (lost ∧ neg = true) → r = m / 2 ^ d)))
  ∧ (∀ fm ∈ [fmtF32, fmtBf16, fmtF16, fmtF8e5, fmtF8e4, fmtF4], ∀ (rm : RM) (sat : Bool),
    (∀ (code : Nat) (n : Bool) (m : Nat) (e : Int), code < 2 ^ (fm.sbit + 1) → fm.decode false code = .fin n m e →
      fm.encode rm false sat n m e false = (code, 0))
    ∧ ∀ (neg sticky : Bool) (m : Nat) (e : Int), m ≠ 0 → (sticky = true → 2 ^ (fm.mbits + 2) ≤ m) →
      let q : Int := max (e + Nat.log2 m - fm.mbits) fm.qmin
      let k := (roundInt rm neg m (q - e) sticky).1
      let r := fm.encode rm false sat neg m e sticky
      (r.2 &&& flOF = 0 → ∃ m' e', fm.decode false r.1 = .fin neg m' e'
        ∧ m' * 2 ^ (e' - min e' q).toNat = k * 2 ^ (q - min e' q).toNat
        ∧ (r.2 &&& flNX ≠ 0 ↔ (roundInt rm neg m (q - e) sticky).2 = true))
      ∧ (r.2 &&& flOF ≠ 0 → r.1 = fm.overflow rm sat neg ∧ r.2 = flOF ||| flNX
        ∧ ∃ m' e', fm.decode false fm.maxCode = .fin false m' e'
          ∧ m' * 2 ^ (e' - min e' q).toNat < k * 2 ^ (q - min e' q).toNat)
      ∧ (let low := r.1 % 2 ^ fm.sbit
         fm.encode rm true sat neg m e sticky
           = if fm.subn = true ∧ low ≠ 0 ∧ low < 2 ^ fm.mbits then (fm.signed neg 0, flUF ||| flNX) else r))
  ∧ (∀ fm ∈ [fmtF32, fmtBf16, fmtF16], ∀ (rm : RM) (sb flip : Bool) (a b : Nat),
    (fm.decode sb a).isNan = true ∨ (fm.decode sb b).isNan = true → (fm.add rm sb flip a b).1 = fm.nan)
  ∧ (∀ fm ∈ [fmtF32, fmtBf16, fmtF16], ∀ (rm : RM) (sb flip : Bool) (a b c : Nat) (n1 n2 n3 : Bool) (m1 m2 m3 : Nat) (e1 e2 e3 : Int),
    fm.decode sb a = .fin n1 m1 e1 → fm.decode sb b = .fin n2 m2 e2 → fm.decode sb c = .fin n3 m3 e3 →
    summed fm rm sb (fm.add rm sb flip a b) n1 m1 e1 (xor n2 flip) m2 e2
    ∧ fm.mul rm sb a b = fm.encode rm sb false (xor n1 n2) (m1 * m2) (e1 + e2) false
    ∧ summed fm rm sb (fm.fma rm sb a b c) (xor n1 n2) (m1 * m2) (e1 + e2) n3 m3 e3)
  ∧ (∀ (rm : RM) (sb : Bool) (a b : Nat) (n1 n2 : Bool) (m1 m2 : Nat) (e1 e2 : Int),
    fmtF32.decode sb a = .fin n1 m1 e1 → fmtF32.decode sb b = .fin n2 m2 e2 → m1 ≠ 0 →
    (m2 ≠ 0 → ∃ k q : Nat, 2 ^ 26 ≤ q ∧ q * m2 ≤ m1 * 2 ^ k ∧ m1 * 2 ^ k < (q + 1) * m2
      ∧ fDiv rm sb a b = fmtF32.encode rm sb false (xor n1 n2) q (e1 - e2 - k) (decide (q * m2 ≠ m1 * 2 ^ k)))
    ∧ (n1 = false → ∃ k q : Nat, 2 ^ 26 ≤ q ∧ (e1 - k) % 2 = 0 ∧ q * q ≤ m1 * 2 ^ k ∧ m1 * 2 ^ k < (q + 1) * (q + 1)
      ∧ fSqrt rm sb a = fmtF32.encode rm sb false false q ((e1 - k) / 2) (decide (q * q ≠ m1 * 2 ^ k))))
  ∧ (∀ (src dst : BitVec 5) (rm : RM) (sb sat : Bool) (v : Nat), v < 2 ^ tyBits (pairElem src) → 1 < (pairElem src).toNat → 1 < (pairElem dst).toNat →
    (∀ fs n m e, fmtOf (pairElem src) = some fs → fs.decode sb v = .fin n m e →
      (∀ fd, fmtOf (pairElem dst) = some fd → convert src dst rm sb sat v = fd.encode rm sb sat n m e false)
      ∧ (fmtOf (pairElem dst) = none →
        let i := sgn n (roundInt rm n m (-e) false).1
        let lo := (intRange (pairElem dst)).1
        let hi := (intRange (pairElem dst)).2
        convert src dst rm sb sat v = (lowBits (tyBits (pairElem dst)) (max lo (min hi i)),
          if i < lo ∨ hi < i then flNV else if (roundInt rm n m (-e) false).2 = true then flNX else 0)))
    ∧ (∀ fd, fmtOf (pairElem src) = none → fmtOf (pairElem dst) = some fd →
      let z : Int := if tyIsSigned (pairElem src) ∧ 2 ^ (tyBits (pairElem src) - 1) ≤ v then (v : Int) - 2 ^ tyBits (pairElem src) else v
      convert src dst rm sb sat v = fd.encode rm sb sat (decide (z < 0)) z.natAbs 0 false))
  ∧ ∀ (key : List Nat) (v : Word32) (n : Bool) (m : Nat) (e : Int), fmtF32.decode false v.toNat = .fin n m e →
    dot key v [] = v.toNat
    ∧ ∀ (n' : Bool) (m' : Nat) (e' : Int),
      let lo := min e e'
      let x := at' lo n m e + at' lo n' m' e'
      (x ≠ 0 → dot key v [.fin n' m' e'] = (fmtF32.encode .rne false false (decide (x < 0)) x.natAbs lo false).1)
      ∧ (x = 0 → dot key v [.fin n' m' e'] = fmtF32.signed (decide (m = 0 ∧ m' = 0 ∧ n = true ∧ n' = true)) 0)

/-- With mask select and the sources read clean: CVT writes each active lane with its converted element or pair, CVTN
with the code in D and the residual in C, QPACK with the two codes, QUNPACK with both values in a pair of registers
and BADCODE where a lane needs it, flags ORed. XBCAST and XPERM write A of the active lane within the width that B
names, else the identity. XRED with a sum, minimum or maximum writes every active lane with the tree's result over all
lanes, an inactive one giving the identity; with an index form the winner and its lane, of f32 as it reads alone (log
33); XSCAN writes the prefixes, the first value as it reads alone. (That the first value is what it reads as alone,
and CVTN's residual where x is zero or exceptional, are the model's readings, log 51.) (R113, R115, R119, R133, R134,
R135, R305, R306, R331, R332, R372, R373) -/
def Obligations.ConversionAndCrossLaneResults : Prop :=
  ∀ (s : State) (c : Cur) (f : LaneOps), LaneReady s c 0x120 f →
    let x := laneAt s c f
    let fm := s.issue.fmode
    let pair (w : Wave) (fl : BitVec 7) : Out := .next ((s.setFrag x.c.f).laneEnd x.c w (x.c.f.flag fl))
    (∀ n, n = (if tyIsPair f.ty then 2 else 1) → x.poisonSrc (f.w2.extractLsb' 0 5) n = none →
      let r (l : Nat) := cvtLane f fm (x.selA (f.w2.extractLsb' 0 5) l) (x.raw (x.opB (f.w2.extractLsb' 0 5)) l)
      exec (.cvt f) s = laneResult s x f.ty f.dest (fun l => (r l).1) (x.flags (fun l => (r l).2)))
    ∧ (∀ fmt, fmtOf f.ty = some fmt → x.poisonSrc 0x0C 2 = none →
      let scale (l : Nat) : Nat := if f.ty = 0x0A ∨ f.ty = 0x0B then 127 else (x.raw (x.opB 0x0C) l).toNat % 256
      let r (l : Nat) := cvtnLane fmt (rmOf f.rnd fm) (subnOf fm) (f.sat == 1) (scale l) (x.selA 0x0C l).toNat
      exec (.cvtn f) s = pair (x.write (x.write x.c.w f.ty f.dest (fun l => BitVec.ofNat 64 (r l).1)) 0x0C f.c
        (fun l => BitVec.ofNat 64 (r l).2.1)) (x.flags (fun l => (r l).2.2)))
    ∧ (x.poisonSrc 0x04 3 = none → exec (.qpack f) s = laneResult s x 0x00 f.dest (fun l =>
        BitVec.ofNat 64 (qpackLane (f.sat == 1) (elemInt 0x04 (x.selA 0x04 l)) (elemInt 0x04 (x.raw (x.opB 0x04) l))
          ((x.raw (x.opC 0x04) l).toNat % 16))) 0)
    ∧ (x.poisonSrc 0x10 1 = none → (∀ l ∈ x.lanes, x.rawPoisoned (x.opC 0x10) l = false) →
      let r (l : Nat) := q4eDecode (x.selA 0x10 l).toNat ((x.selA 0x10 l).toNat / 16) ((x.raw (x.opC 0x10) l).toNat % 16)
      exec (.qunpack f) s = pair (x.write (x.write x.c.w 0x04 f.dest (fun l => elemOf 0x04 (r l).1)) 0x04 (f.dest + 1)
        (fun l => elemOf 0x04 (r l).2.1)) (if x.lanes.any (fun l => (r l).2.2) then flBADCODE else 0))
    ∧ (x.poisonNamed f.ty = none →
      let named (l : Nat) : Nat := (x.raw (x.opB f.ty) l).toNat % 2 ^ 32
      let own (l : Nat) : Word64 := if x.rawPoisoned (x.opA f.ty) l then 0 else x.raw (x.opA f.ty) l
      let take (l : Nat) : Word64 := if named l < x.width ∧ x.act.getLsbD (named l) = true then x.raw (x.opA f.ty) (named l)
        else identity f.ty x.ident (own l)
      exec (.xbcast f) s = laneResult s x f.ty f.dest take 0 ∧ exec (.xperm f) s = laneResult s x f.ty f.dest take 0)
    ∧ (x.poisonSrc f.ty 1 = none →
      let vs := x.redValues f.ty
      let op (k : Nat) := combine f.ty k (rmOf f.rnd fm) (subnOf fm)
      (x.act = 0 → exec (.xred f) s = laneIdle s x)
      ∧ (x.act ≠ 0 → f.flags.toNat < 3 → exec (.xred f) s = laneResult s x f.ty f.dest
          (fun _ => BitVec.ofNat 64 (treeSum (op f.flags.toNat) vs).1) (treeSum (op f.flags.toNat) vs).2)
      ∧ (x.act ≠ 0 → 3 ≤ f.flags.toNat → f.ty ≠ 0x0C → ∃ v l, exec (.xred f) s
            = pair (x.write (x.write x.c.w f.ty f.dest (fun _ => v)) 0x08 (f.dest + 1) (fun _ => BitVec.ofNat 64 l)) 0
          ∧ (0 < x.width → l < x.width ∧ v = x.redA f.ty l ∧ ∀ k, k < x.width →
            let a := elemInt f.ty (x.redA f.ty k)
            let b := elemInt f.ty (x.redA f.ty l)
            if f.flags = 4 then a ≤ b ∧ (a = b → l ≤ k) else b ≤ a ∧ (a = b → l ≤ k)))
      ∧ (x.act ≠ 0 → 3 ≤ f.flags.toNat → f.ty = 0x0C → ∃ v l fl, exec (.xred f) s
            = pair (x.write (x.write x.c.w f.ty f.dest (fun _ => v)) 0x08 (f.dest + 1) (fun _ => BitVec.ofNat 64 l)) fl
          ∧ (0 < x.width → l < x.width ∧ v = BitVec.ofNat 64 (readAlone (subnOf fm) (x.redA f.ty l).toNat).1))
      ∧ (let rs := scanValues f.ty (f.flags.toNat % 8) (f.flags.getLsbD 3) (rmOf f.rnd fm) (subnOf fm) x.ident vs
         exec (.xscan f) s = laneResult s x f.ty f.dest (fun l => BitVec.ofNat 64 (rs.getD l (0, 0)).1)
           (x.flags (fun l => (rs.getD l (0, 0)).2))))

/-- After a write to D each active lane of D, the pair under a 64-bit type, reads the value written and is clean, and
every other lane of every register reads as before, poison included; a mask register takes the bits of its lanes and
keeps the others, m0 ignores writes and reads every lane of the width, and EXEC takes its bits within the lane set;
the mask of a test has exactly the lanes that pass. (R20, R23, R48, R49, R50, R128, R249) -/
def Obligations.LaneWriteRule : Prop :=
  (∀ (x : Lane) (w : Wave) (t : BitVec 5) (d : BitVec 8) (h : Nat → Word64) (r l : Nat), x.width ≤ 64 → l < 64 →
    let v := x.write w t d h
    (l ∈ x.lanes →
      (tyIs64 t = true → v.v64 d.toNat l = h l ∧ v.vPoisoned d.toNat l = false ∧ v.vPoisoned (d.toNat + 1) l = false)
      ∧ (tyIs64 t = false → v.v d.toNat l = (h l).setWidth 32 ∧ v.vPoisoned d.toNat l = false))
    ∧ ((l ∉ x.lanes ∨ (r ≠ d.toNat ∧ (tyIs64 t = true → r ≠ d.toNat + 1))) →
        v.v r l = w.v r l ∧ v.vPoisoned r l = w.vPoisoned r l)
    ∧ v.tiles = w.tiles ∧ v.masks = w.masks ∧ v.pev = w.pev ∧ v.evslots = w.evslots)
  ∧ (∀ (w : Wave) (width k j : Nat) (lanes bits : Word64),
    w.m width 0 = widthMask width
    ∧ (w.setM 0 lanes bits) = w
    ∧ (k ≠ 0 → (w.setM k lanes bits).m width k = (w.m width k &&& ~~~lanes) ||| (bits &&& lanes))
    ∧ (k ≠ j → (w.setM k lanes bits).m width j = w.m width j)
    ∧ (k ≠ 0 → (w.setM k lanes bits).mPoisoned k lanes = false))
  ∧ (∀ (f : Frag) (lanes bits : Word64),
      (f.setExec lanes bits).exec = ((f.exec &&& ~~~lanes) ||| (bits &&& lanes)) &&& f.laneSet)
  ∧ ∀ (ls : List Nat) (p : Nat → Bool) (l : Nat), l < 64 → ((maskOf ls p).getLsbD l = true ↔ l ∈ ls ∧ p l = true)

/-- A source of kind 0 is lane l of its register, the pair under a 64-bit type; of kind 1 the scalar captured at
enqueue, of kind 2 the immediate word, extended under s64, of kind 3 with field 0x40 the lane number, with 0x41 the
width, with 0x42 the wave index. A is read from the lane that its mode names, shifted down or up, by exclusive or,
broadcast, rotated or indexed by B, where that lane is in the width and active, and else is the identity of its code.
Negation and absolute value act on the sign of floats and on integers after selection. (The index taken from the low
word of B before modifiers is the model's reading, log 32.) (R48, R49, R54, R55, R56, R57, R58) -/
def Obligations.OperandForms : Prop :=
  (∀ (x : Lane) (t : BitVec 5) (l : Nat), ∀ p ∈ [(x.f.kA, x.f.a, x.q.a, x.opA t), (x.f.kB, x.f.b, x.q.b, x.opB t),
      (x.f.kC, x.f.c, x.q.c, x.opC t)],
    let r := p.2.1
    let snap := p.2.2.1
    let v := x.raw p.2.2.2 l
    (p.1 = 0 → v = if tyIs64 t then x.c.w.v (r.toNat + 1) l ++ x.c.w.v r.toNat l else (x.c.w.v r.toNat l).setWidth 64)
    ∧ (p.1 = 1 → v = if tyIs64 t then snap else (snap.setWidth 32).setWidth 64)
    ∧ (p.1 = 2 → v = if t = 0x05 then x.f.w2.signExtend 64 else x.f.w2.setWidth 64)
    ∧ (p.1 = 3 → (r = 0x40 → v = BitVec.ofNat 64 l) ∧ (r = 0x41 → v = BitVec.ofNat 64 x.width)
        ∧ (r = 0x42 → v = BitVec.ofNat 64 x.c.w.ref.wave)))
  ∧ (∀ (x : Lane) (t : BitVec 5) (l : Nat),
       let o := x.opA t
       let mode := (x.f.w2.extractLsb' 29 3).toNat
       let n := (x.f.w2.extractLsb' 23 6).toNat
       let from' (k : Nat) : Word64 := if k < x.width ∧ x.act.getLsbD k = true then x.raw o k
         else identity t (x.f.w2.extractLsb' 20 3).toNat (x.raw o l)
       let none' : Word64 := identity t (x.f.w2.extractLsb' 20 3).toNat (x.raw o l)
       (x.f.kA = 2 ∨ x.f.kB = 2 ∨ x.f.kC = 2 → x.selA t l = x.raw o l ∧ x.srcA t l = x.raw o l)
       ∧ (x.f.kA ≠ 2 → x.f.kB ≠ 2 → x.f.kC ≠ 2 →
         (mode = 0 → x.selA t l = x.raw o l) ∧ (mode = 1 → x.selA t l = if n ≤ l then from' (l - n) else none')
         ∧ (mode = 2 → x.selA t l = from' (l + n)) ∧ (mode = 3 → x.selA t l = from' (Nat.xor l n))
         ∧ (mode = 4 → x.selA t l = from' n) ∧ (mode = 5 → x.selA t l = from' ((l + n) % x.width))
         ∧ (mode = 6 → x.selA t l = from' ((x.raw (x.opB t) l).toNat % 2 ^ 32))
         ∧ x.srcA t l = modify t (x.f.w2.getLsbD 19) (x.f.w2.getLsbD 18) (x.selA t l)
         ∧ x.srcB t l = modify t (x.f.w2.getLsbD 17) (x.f.w2.getLsbD 16) (x.raw (x.opB t) l)
         ∧ x.srcC t l = modify t (x.f.w2.getLsbD 15) (x.f.w2.getLsbD 14) (x.raw (x.opC t) l)))
  ∧ (∀ (t : BitVec 5) (own : Word64), identity t 0 own = 0 ∧ identity t 7 own = own
    ∧ (t = 0x04 ∨ t = 0x08 ∨ t = 0x0C → identity t 2 own = 0xFFFFFFFF) ∧ (t = 0x05 ∨ t = 0x09 → identity t 2 own = BitVec.allOnes 64)
    ∧ (t = 0x04 → identity t 1 own = 1 ∧ identity t 3 own = 0x7FFFFFFF ∧ identity t 4 own = 0x80000000
        ∧ identity t 5 own = 0x7FFFFFFF ∧ identity t 6 own = 0x80000000)
    ∧ (t = 0x0C → identity t 1 own = 0x3F800000 ∧ identity t 3 own = 0x7F7FFFFF ∧ identity t 4 own = 0xFF7FFFFF
        ∧ identity t 5 own = 0x7F800000 ∧ identity t 6 own = 0xFF800000))
  ∧ ∀ v : Word64, modify 0x0C true false v = v ^^^ 0x80000000 ∧ modify 0x0C false true v = v &&& ~~~0x80000000
    ∧ modify 0x05 true false v = -v ∧ modify 0x05 false true v = (if v.msb then -v else v)
    ∧ modify 0x04 true false v = (-(v.setWidth 32)).setWidth 64

/-- A lane instruction whose mask select is poisoned in a lane of EXEC traps with FLT_POISON, SUB 0x03, a memory,
matrix or pool instruction once its stores are performed; each arithmetic, bit, compare, move, select, float,
reduction and scan instruction that meets poison in a source it reads traps with SUB 0x02, LANES its active lanes;
VSEL with a poisoned mask C, and the mask family with a poisoned mask A or B, with SUB 0x03; an instruction with no
entry in R74 ends its exit routine. (R126, R233, R237, R245, R249, R351) -/
def Obligations.LanePoisonTraps : Prop :=
  ∀ (s : State) (c : Cur) (i : Instr) (op : BitVec 10) (f : LaneOps), s.current = some c → laneCode i = some (op, f) →
    let x := laneAt s c f
    (c.f.exiting = true → exitLane op = false → op.toNat < 0x300 →
        exec i s = .next ((s.setFrag x.c.f).modWg c.g.ref (fun g => g.fallBack s.cycle)))
    ∧ ((c.f.exiting = false ∨ exitLane op = true) → op.toNat < 0x300 →
        (op.toNat < 0x200 ∨ (0x280 ≤ op.toNat ∧ op.toNat < 0x297) ∨ Settled s c) → c.w.mPoisoned f.msel.toNat c.f.exec = true →
        exec i s = laneTrapResult s x 0x06 0x03 0)
    ∧ (LaneReady s c op f →
      (∀ n, (op, n) ∈ ([(0x000, 2), (0x001, 2), (0x002, 2), (0x003, 2), (0x004, 3), (0x005, 2), (0x006, 2), (0x007, 2), (0x008, 2),
          (0x009, 1), (0x010, 2), (0x011, 2), (0x012, 2), (0x013, 2), (0x014, 2), (0x015, 2), (0x018, 1), (0x019, 1), (0x01A, 1),
          (0x01B, 1), (0x01C, 2), (0x01D, 3), (0x020, 2), (0x022, 1), (0x023, 1), (0x100, 2), (0x101, 2), (0x102, 2), (0x103, 3),
          (0x104, 2), (0x105, 2), (0x106, 2), (0x107, 1), (0x108, 2), (0x109, 1), (0x10A, 1), (0x10B, 1), (0x10C, 1), (0x10D, 1),
          (0x10E, 1), (0x10F, 1), (0x110, 1), (0x280, 1), (0x283, 1), (0x284, 1)] : List (BitVec 10 × Nat)) →
        ∀ sub, x.poisonSrc f.ty n = some sub → exec i s = laneTrapResult s x 0x06 0x02 0)
      ∧ (op = 0x021 →
        (x.maskPoisoned f.c = true → exec i s = laneTrapResult s x 0x06 0x03 0)
        ∧ (x.maskPoisoned f.c = false → (x.poisonSrc f.ty 2).isSome = true → exec i s = laneTrapResult s x 0x06 0x02 0))
      ∧ (op ∈ ([0x290, 0x291, 0x292, 0x293, 0x294, 0x295, 0x296] : List (BitVec 10)) → x.maskPoisoned f.a = true →
        exec i s = laneTrapResult s x 0x06 0x03 0)
      ∧ (op ∈ ([0x290, 0x291, 0x292, 0x293] : List (BitVec 10)) → x.maskPoisoned f.b = true →
        exec i s = laneTrapResult s x 0x06 0x03 0))

/-- When any lane instruction of the opcode table below the extension opcodes answers a next state, with its result,
its trap or its wait, then of memory a VATOM (with no remote write under way, on no queue window or table) changes
only the bytes of its elements, in a line of another key the line, and any other no byte; of the scratchpads a store
to the plain scratchpad and a VATOM change their elements there; of the panels BLOAD changes its own. Every other
fragment and wave is as before. Of its wave no register changes in an inactive lane, and none in an active one but its
destinations (D or the pair at D; C's pair for CVTN; the pairs of A and B too for a PTAKE, of A for a PINIT that
creates; B, A and A + 1 for RLOAD; the COUNT registers from D for ACCREAD; none for stores, VPREF, a VATOM that
returns nothing and what writes a tile or a panel); no mask but a mask result's and RLOAD's segment mask; no tile
element but those of tile D in the active lanes for MMA, MVSTREAM, ACCZERO and ACCWRITE; no event slot or PEV bit. Of
its fragment the scalar registers, SPC, LPC, join stack and FMODE stand, EXEC but for a mask result to it, and no
FFLAGS bit is cleared. VATOM, PTAKE and PSTAT are taken without a log (R257), PTAKE where no pool token is armed,
whose firing is POOL_CENSUS's and R217's. (R50, R51, R69, R121, R128, R133, R137, R142, R145, R147, R199, R211) -/
def Obligations.LaneFrame : Prop :=
  ∀ (i : Instr) (op : BitVec 10) (f : LaneOps) (s t : State) (c : Cur), laneCode i = some (op, f) → op.toNat < 0x300 →
    s.current = some c → c.j.width ≤ 64 → exec i s = .next t →
    (op = 0x206 ∨ op = 0x2D2 ∨ op = 0x2D3 → c.unlogged) →
    (op = 0x2D2 → ∀ w ∈ s.waves, ∀ e ∈ w.evslots, e.armed = true → e.kind ≠ 3) →
    let x := laneAt s c f
    let u := s.setFrag x.c.f
    let n := tyBytes f.ty
    let atom (l : Loc) : Prop := op = 0x206 ∧ ∃ ps ls, x.atomCheck = .ok ps
      ∧ u.laneLocs (u.who x.c false) x .write ps = .ok ls ∧ l ∈ ls.map (·.1)
    let stores (o : Nat) : Prop := (op = 0x201 ∨ op = 0x203 ∨ op = 0x205) ∧ ∃ ps, x.check
        (if op = 0x203 then .blocked else if op = 0x205 then .scratch else if memAddrForm f then .addrForm else .recordForm) true = .ok ps
      ∧ (∀ q ∈ ps, q.2.scratch = true ∧ c.g.stashAddr q.2.addr.toNat = none) ∧ ∃ q ∈ ps, q.2.addr.toNat = o
    let plain : Prop := (op = 0x206 → s.remote = []) ∧ ∀ p, atom (.phys p) →
      (∀ d o, regionOf p.pa ≠ .queues d o) ∧ ∀ o, regionOf p.pa ≠ .tables o
    let masked : Bool := [0x020, 0x106, 0x280, 0x290, 0x291, 0x292, 0x293, 0x294, 0x295].contains op.toNat
    let two (b : BitVec 8) : List Nat := [b.toNat, b.toNat + 1, (b + 1).toNat]
    let dest : List Nat := if tyIs64 f.ty = true ∨ op = 0x123 ∨ (op = 0x283 ∧ 3 ≤ f.flags.toNat) then two f.dest else [f.dest.toNat]
    let written : List Nat :=
      if masked = true ∨ op.toNat ∈ [0x201, 0x203, 0x205, 0x207, 0x2C0, 0x2C1, 0x2C2, 0x2C3, 0x2C5] then []
      else if op = 0x206 ∧ f.w2.getLsbD 19 = true then []
      else if op = 0x121 then dest ++ [f.c.toNat, f.c.toNat + 1]
      else if op = 0x2C4 then (List.range (accCount f)).map (fun k => f.dest.toNat + k)
      else if op = 0x2D0 then two f.dest ++ (match i with | .pinitCreate _ => two f.a | _ => [])
      else if op = 0x2D1 ∨ op = 0x2D3 then two f.dest
      else if op = 0x2D2 then two f.dest ++ two f.a ++ two f.b
      else if op = 0x2E0 then dest ++ [f.b.toNat, f.a.toNat, f.a.toNat + 1]
      else dest
    (op ≠ 0x206 → SameMemory s t)
    ∧ (plain →
      (∀ a, (∀ p, atom (.phys p) → regionOf p.pa = .device → (a < p.pa ∨ p.pa + n ≤ a)
          ∧ (s.lineKey.get (p.pa / 128) = s.keyTag p.key ∨ a / 128 ≠ p.pa / 128)) → Sparse.get t.mem a = Sparse.get s.mem a)
      ∧ (∀ a, (∀ p, atom (.phys p) → regionOf p.pa = .host → a < p.pa ∨ p.pa + n ≤ a) → Sparse.get t.hostMem a = Sparse.get s.hostMem a)
      ∧ ∀ a, (∀ p w o k, atom (.phys p) → regionOf p.pa = .peer w o → s.peerCell w o = some k → a < k ∨ k + n ≤ a) →
          Sparse.get t.peerMem a = Sparse.get s.peerMem a)
    ∧ (plain → ∀ r g, s.wg? r = some g → ∃ h, t.wg? r = some h
      ∧ (∀ a, (r = c.g.ref → ∀ o, atom (.scratch o) ∨ stores o → a < o ∨ o + n ≤ a) → Sparse.get h.scratch a = Sparse.get g.scratch a)
      ∧ ∀ a, (r = c.g.ref → op = 0x2C2 → a < panelKey (f.w2.extractLsb' 13 7).toNat 0
          ∨ panelKey (f.w2.extractLsb' 13 7).toNat 0 + 32768 ≤ a) → Sparse.get h.panels a = Sparse.get g.panels a)
    ∧ (plain → OthersAlike s t c.f.ref ∧ (∀ q, q ≠ c.w.ref → t.wave? q = s.wave? q)
      ∧ (∃ g, t.frag? c.f.ref = some g ∧ g.sregs = c.f.sregs ∧ g.spc = c.f.spc ∧ g.lpc = c.f.lpc ∧ g.join = c.f.join
          ∧ g.fmode = c.f.fmode ∧ g.fflags &&& c.f.fflags = c.f.fflags ∧ (masked = false ∨ f.dest ≠ 8 → g.exec = c.f.exec))
      ∧ ∃ w, t.wave? c.w.ref = some w ∧ w.pev = c.w.pev ∧ w.evslots = c.w.evslots ∧ w.members = c.w.members
        ∧ (∀ k, (masked = false ∨ k ≠ f.dest.toNat) → (op = 0x2E0 → k ≠ (f.w2.extractLsb' 5 3).toNat) →
            w.m c.j.width k = c.w.m c.j.width k)
        ∧ (∀ r l, l < 64 → ((c.active f.msel).getLsbD l = false ∨ r ∉ written) → w.v r l = c.w.v r l)
        ∧ ∀ k l j, l < 64 → j < 128 → (op = 0x2C5 → accCol f + accCount f ≤ 128) →
            ((c.active f.msel).getLsbD l = false ∨ k ≠ f.dest.toNat ∨ op.toNat ∉ [0x2C0, 0x2C1, 0x2C3, 0x2C5]) → w.t k l j = c.w.t k l j)

/-- With the stores performed, no lane performed ahead of the others (which the model allows as a turn of its own, log
6), a type that has bytes and A clean, where every active lane's element is aligned and holds V(l), in scratchpad
outside a stash window or in device memory, each load writes each active lane of D with V(l) placed in its lane: VLD
at the record's base plus the low word of A, within the extent, or at the 64-bit scalar C plus that word; VLDB at the
scalar A plus DISP plus l times the element size; VLDS at the scratchpad offset A plus DISP within the allocation.
With an active lane, a record that does not exist traps with FLT_RECORD, SUB 0x01, an offset beyond its extent with
SUB 0x02, an offset beyond the scratchpad with FLT_SCRATCH_RANGE, SUB 0x05. (The model's readings: canonical
addresses, log 52.) (R89, R104, R151, R153, R155, R195, R364, R365, R366) -/
def Obligations.LaneLoadResults : Prop :=
  ∀ (s : State) (c : Cur) (f : LaneOps), Settled s c → c.f.flight = none → tyBytes f.ty ≠ 0 →
    let x := laneAt s c f
    let n := tyBytes f.ty
    let off (l : Nat) : Nat := (x.raw (x.opA f.ty) l).toNat % 2 ^ 32
    let disp := (f.w2.extractLsb' 0 19).toNat
    let rec' := (f.w2.extractLsb' 20 12).toNat
    let clean : Prop := ∀ l ∈ x.lanes, x.rawPoisoned (x.opA f.ty) l = false
    let lands (i : Instr) (e : Nat → Piece) : Prop := ∀ V : Nat → Nat,
      (∀ l ∈ x.lanes, (e l).addr.toNat % n = 0 ∧ Holds s x.c .read (e l) (V l)) →
        exec i s = laneResult s x f.ty f.dest (fun l => loaded f.ty (V l)) 0
    (LaneReady s c 0x200 f →
      (f.w2.getLsbD 19 = true → clean →
        lands (.vld f) (fun l => { scratch := false, addr := x.q.c + BitVec.ofNat 64 (off l), size := n, val := 0 }))
      ∧ (f.w2.getLsbD 19 = false →
        (∀ r, c.j.recs[rec']? = some r → clean → (∀ l ∈ x.lanes, InRecord c r (off l) n) →
          (recScratch r = true → (recBase r).toNat + recSize r ≤ c.j.scratchSize) →
          lands (.vld f) (fun l => { scratch := recScratch r, addr := recBase r + BitVec.ofNat 64 (off l), size := n, val := 0 }))
        ∧ (x.act ≠ 0 → c.j.recs[rec']? = none → exec (.vld f) s = laneTrapResult s x 0x04 0x01 0)
        ∧ (x.act ≠ 0 → ∀ r, c.j.recs[rec']? = some r → recScratch r = false → (∃ l ∈ x.lanes, recSize r < off l + n) →
            exec (.vld f) s = laneTrapResult s x 0x04 0x02 0)))
    ∧ (LaneReady s c 0x202 f → clean → (x.q.a + BitVec.ofNat 64 disp).toNat % n = 0 →
        lands (.vldb f) (fun l => { scratch := false, addr := x.q.a + BitVec.ofNat 64 (disp + l * n), size := n, val := 0 }))
    ∧ (LaneReady s c 0x204 f → clean →
        ((∀ l ∈ x.lanes, off l + disp + n ≤ c.j.scratchSize) →
          lands (.vlds f) (fun l => { scratch := true, addr := BitVec.ofNat 64 (off l + disp), size := n, val := 0 }))
        ∧ ((∃ l ∈ x.lanes, c.j.scratchSize < off l + disp + n) → exec (.vlds f) s = laneTrapResult s x 0x03 0x05 0))

/-- With the stores performed, no lane performed ahead of the others (log 6), A and B clean and every element aligned,
in an exit routine with every element in the save slot, each store whose elements need a translation posts one store
of all active lanes' elements, the low bytes of B at the address of the form as for loads (a read-only record trapping
with FLT_RECORD, SUB 0x03), and completes with every byte of memory and scratchpad and every lane register as before;
one wholly in plain scratchpad stores at once: each byte of its elements reads, of overlapping ones the highest
lane's, and every other byte as before. (The model's readings: what is posted, log 48; canonical addresses, log 52.)
(R151, R153, R154, R155, R364, R365, R367, R369) -/
def Obligations.LaneStorePosts : Prop :=
  ∀ (s : State) (c : Cur) (f : LaneOps), Settled s c → c.f.flight = none →
    let x := laneAt s c f
    let n := tyBytes f.ty
    let off (l : Nat) : Nat := (x.raw (x.opA f.ty) l).toNat % 2 ^ 32
    let disp := (f.w2.extractLsb' 0 19).toNat
    let rec' := (f.w2.extractLsb' 20 12).toNat
    let val (l : Nat) : Nat := (x.raw (x.opB f.ty) l).toNat % 2 ^ (8 * n)
    let clean : Prop := ∀ l ∈ x.lanes, x.rawPoisoned (x.opA f.ty) l = false ∧ x.rawPoisoned (x.opB f.ty) l = false
    let stores (i : Instr) (e : Nat → Piece) : Prop :=
      (∀ l ∈ x.lanes, (e l).addr.toNat % n = 0) →
      ((∃ l ∈ x.lanes, (e l).scratch = false ∨ (c.g.stashAddr (e l).addr.toNat).isSome = true) →
        ∃ t g p, exec i s = .next t ∧ SameMemory s t ∧ SameCore s t ∧ t.waves = s.waves.map (fun w => if w.ref = c.w.ref then c.w else w)
          ∧ t.frag? c.f.ref = some g ∧ g.posted = [p] ∧ g.sregs = c.f.sregs ∧ g.spc = c.f.spc
          ∧ p.elems = x.lanes.map (fun l => { e l with val := BitVec.ofNat 64 (val l) })
          ∧ p.lanes = x.act ∧ p.lane = true ∧ p.fault = none ∧ p.killed = false)
      ∧ ((∀ l ∈ x.lanes, (e l).scratch = true ∧ c.g.stashAddr (e l).addr.toNat = none) →
        ∃ t g, exec i s = .next t ∧ SameMemory s t ∧ t.wg? c.g.ref = some g
          ∧ (∀ l ∈ x.lanes, ∀ k, k < n → (∀ m ∈ x.lanes, l < m → (e l).addr.toNat + k < (e m).addr.toNat
                ∨ (e m).addr.toNat + n ≤ (e l).addr.toNat + k) →
              Sparse.get g.scratch ((e l).addr.toNat + k) = byteOf (val l) k)
          ∧ ∀ a, (∀ l ∈ x.lanes, a < (e l).addr.toNat ∨ (e l).addr.toNat + n ≤ a) →
              Sparse.get g.scratch a = Sparse.get c.g.scratch a)
    let address : Nat → Piece := fun l => { scratch := false, addr := x.q.c + BitVec.ofNat 64 (off l), size := n, val := 0 }
    let block : Nat → Piece := fun l => { scratch := false, addr := x.q.a + BitVec.ofNat 64 (disp + l * n), size := n, val := 0 }
    let inSlot (e : Nat → Piece) : Prop := c.f.exiting = true → ∀ l ∈ x.lanes, s.inSaveSlot x.c (e l).addr n = true
    (LaneReady s c 0x201 f →
      (f.w2.getLsbD 19 = true → clean → inSlot address → stores (.vst f) address)
      ∧ (f.w2.getLsbD 19 = false → c.f.exiting = false → ∀ r, c.j.recs[rec']? = some r →
        (x.act ≠ 0 → recRo r = true → exec (.vst f) s = laneTrapResult s x 0x04 0x03 0)
        ∧ (recRo r = false → clean → (∀ l ∈ x.lanes, InRecord c r (off l) n) →
            (recScratch r = true → (recBase r).toNat + recSize r ≤ c.j.scratchSize) →
            stores (.vst f) (fun l => { scratch := recScratch r, addr := recBase r + BitVec.ofNat 64 (off l), size := n, val := 0 }))))
    ∧ (LaneReady s c 0x203 f → clean → (x.q.a + BitVec.ofNat 64 disp).toNat % n = 0 → inSlot block → stores (.vstb f) block)
    ∧ (LaneReady s c 0x205 f → clean → (∀ l ∈ x.lanes, off l + disp + n ≤ c.j.scratchSize) →
        stores (.vsts f) (fun l => { scratch := true, addr := BitVec.ofNat 64 (off l + disp), size := n, val := 0 }))

/-- For a fragment of no service wave whose first store that awaits no verdict has had no element performed ahead of
the others (log 6) and has only elements that translate for a write to plain device memory, POSTED_STORE_TRANSLATION
stores each element's bytes at the place of its address, a later element over an earlier one, little-endian; every
byte outside them reads as before, and the store is no longer posted. (R39, R153, R164, R167, R168) -/
def Obligations.PostedStorePerforms : Prop :=
  ∀ (s : State) (r : FragRef) (c : Cur) (p : Posted) (P : Piece → Phys), s.look r = some c → c.j.kernel = false →
    p.placed = [] → c.f.posted.find? (fun q => q.fault.isNone && !q.killed) = some p →
    (∀ e ∈ p.elems, e.scratch = false ∧ s.translate { s.who c (!p.lane) with afresh := p.afresh } e.addr .write = .ok (P e)
      ∧ regionOf (P e).pa = .device ∧ s.lineKey.get ((P e).pa / 128) = s.keyTag (P e).key) →
    ∃ t f, exec (.postedStoreTranslation r) s = .next t ∧ t.frag? r = some f
      ∧ f.posted = c.f.posted.filter (fun q => q.id != p.id)
      ∧ (∀ a, (∀ e ∈ p.elems, a < (P e).pa ∨ (P e).pa + e.size ≤ a) → Sparse.get t.mem a = Sparse.get s.mem a)
      ∧ ∀ es e later, p.elems = es ++ e :: later → ∀ k, k < e.size →
          (∀ d ∈ later, (P e).pa + k < (P d).pa ∨ (P d).pa + d.size ≤ (P e).pa + k) →
          Sparse.get t.mem ((P e).pa + k) = byteOf e.val.toNat k

/-- Stores performed: VATOM with one active lane, not performed ahead (log 6), in a writable record at an aligned
element of a job without log outside the service and with A, B and C clean, stores the new value of its operation and,
unless it returns none, writes D with the old value; memory outside the element stands. RLOAD, with nothing read ahead
(log 6), A the cursor (p, r) and L(i) the rising row ends of its table writes each active lane whose row R(l), the
first from r whose end lies beyond p + l, exists with that element and row, the segment mask where a lane is its row's
first or the lowest active, and the cursor p + width with its row. VPREF with A clean only completes. (The model's
readings: rows beyond the table, log 34.) (R136, R137, R168, R195, R196, R197, R198, R199, R257, R337, R368) -/
def Obligations.AtomicAndRaggedResults : Prop :=
  ∀ (s : State) (c : Cur) (f : LaneOps), Settled s c →
    let x := laneAt s c f
    let n := tyBytes f.ty
    (LaneReady s c 0x207 f → (∀ l ∈ x.lanes, x.rawPoisoned (x.opA f.ty) l = false) → exec (.vpref f) s = laneIdle s x)
    ∧ (LaneReady s c 0x206 f → c.f.flight = none → c.unlogged → c.j.kernel = false → ∀ l r old, x.lanes = [l] → x.act ≠ 0 →
        c.j.recs[(f.w2.extractLsb' 20 12).toNat]? = some r → recRo r = false →
        x.rawPoisoned (x.opA f.ty) l = false → x.rawPoisoned (x.opB f.ty) l = false → x.rawPoisoned (x.opC f.ty) l = false →
        InRecord c r ((x.raw (x.opA f.ty) l).toNat % 2 ^ 32) n →
        let e := recordPiece r ((x.raw (x.opA f.ty) l).toNat % 2 ^ 32) n
        Holds s x.c .write e old → tyBits f.ty = 8 * n →
        let b := (x.raw (x.opB f.ty) l).toNat % 2 ^ (8 * n)
        let k := (x.raw (x.opC f.ty) l).toNat % 2 ^ (8 * n)
        let less (u v : Nat) : Prop := elemInt f.ty (BitVec.ofNat 64 u) ≤ elemInt f.ty (BitVec.ofNat 64 v)
        ∀ new : Nat,
          (f.flags = 0 → f.ty ≠ 0x0C → new = (old + b) % 2 ^ (8 * n)) →
          (f.flags = 0 → f.ty = 0x0C →
            new = (fmtF32.add (rmOf f.rnd s.issue.fmode) (subnOf s.issue.fmode) false old b).1 % 2 ^ (8 * n)) →
          (f.flags = 1 → (less old b → new = old) ∧ (¬ less old b → new = b)) →
          (f.flags = 2 → (less b old → new = old) ∧ (¬ less b old → new = b)) →
          (f.flags = 3 → new = Nat.land old b) → (f.flags = 4 → new = Nat.lor old b) → (f.flags = 5 → new = Nat.xor old b) →
          (f.flags = 6 → new = b) → (f.flags = 7 → new = if old = k then b else old) → f.flags.toNat < 8 →
          ∃ t w g, exec (.vatom f) s = .next t ∧ t.wave? c.w.ref = some w ∧ t.wg? c.g.ref = some g
            ∧ w = (if f.w2.getLsbD 19 then c.w else c.w.put f.ty f.dest l (BitVec.ofNat 64 old))
            ∧ (recScratch r = true → Sparse.bytesNat g.scratch e.addr.toNat n = new
                ∧ (∀ a, a < e.addr.toNat ∨ e.addr.toNat + n ≤ a → Sparse.get g.scratch a = Sparse.get c.g.scratch a)
                ∧ ∀ a, Sparse.get t.mem a = Sparse.get s.mem a)
            ∧ (recScratch r = false → ∀ p, s.translate (s.who x.c false) e.addr .write = .ok p →
                Sparse.bytesNat t.mem p.pa n = new
                ∧ ∀ a, a < p.pa ∨ p.pa + n ≤ a → Sparse.get t.mem a = Sparse.get s.mem a))
    ∧ (LaneReady s c 0x2E0 f → c.f.seen = [] → ∀ (d t' : BitVec 256) (L R V : Nat → Nat) (lo : Nat), c.j.width ≤ 64 → x.lanes.head? = some lo →
        c.j.recs[(f.w2.extractLsb' 20 12).toNat]? = some d → c.j.recs[(f.w2.extractLsb' 8 12).toNat]? = some t' →
        (recScratch d = true → (recBase d).toNat + recSize d ≤ c.j.scratchSize) →
        (recScratch t' = true → (recBase t').toNat + recSize t' ≤ c.j.scratchSize) →
        tyIs64 f.ty = false → f.b ≠ f.dest → f.a ≠ f.dest → f.a.toNat + 1 ≠ f.dest.toNat → f.a ≠ f.b → f.a.toNat + 1 ≠ f.b.toNat →
        c.w.vPoisoned f.a.toNat lo = false → c.w.vPoisoned (f.a.toNat + 1) lo = false →
        let p := (c.w.v f.a.toNat lo).toNat
        let r := (c.w.v (f.a.toNat + 1) lo).toNat
        let rows := recSize t' / 4
        (∀ i, i < rows → s.rowLen (s.who x.c false) c.g t' i = .ok (L i)) → (∀ i, i + 1 < rows → L i ≤ L (i + 1)) →
        (0 < r → r ≤ rows → L (r - 1) ≤ p) →
        (∀ l, l ≤ c.j.width → r ≤ R l ∧ R l ≤ max r rows ∧ (∀ i, r ≤ i → i < R l → L i ≤ p + l) ∧ (R l < rows → p + l < L (R l))) →
        (∀ l ∈ x.lanes, R l < rows → InRecord c d ((p + l) * n) n ∧ Holds s x.c .read (recordPiece d ((p + l) * n) n) (V l)) →
        ∃ t w, exec (.rload f) s = .next t ∧ t.wave? c.w.ref = some w ∧ ∀ l ∈ x.lanes,
          (R l < rows → w.v f.dest.toNat l = (loaded f.ty (V l)).setWidth 32 ∧ w.v f.b.toNat l = BitVec.ofNat 32 (R l))
          ∧ (rows ≤ R l → w.v f.dest.toNat l = c.w.v f.dest.toNat l ∧ w.v f.b.toNat l = c.w.v f.b.toNat l)
          ∧ w.v f.a.toNat l = BitVec.ofNat 32 (p + c.j.width) ∧ w.v (f.a.toNat + 1) l = BitVec.ofNat 32 (R c.j.width)
          ∧ ((f.w2.extractLsb' 5 3) ≠ 0 → ((w.m c.j.width (f.w2.extractLsb' 5 3).toNat).getLsbD l = true ↔
              R l < rows ∧ (p + l = (if R l = 0 then 0 else L (R l - 1)) ∨ l = lo))))

/-- Outside an exit routine, the stores performed and the baton held where the role needs one: MMA, its panel kept,
sources clean, format block good and their scale and OE bytes readable, writes each active row of tile D with the dot
products of A's row and the panel's 128 columns on top of the old elements; MVSTREAM likewise for lanes 0 to 7 and
streamed columns; BLOAD with a lane active fills its panel with the 128 columns read and no other; ACCZERO, ACCREAD
and ACCWRITE zero rows, move tile columns to registers and registers to tile columns in the active lanes. An extension
opcode traps with FLT_ILLEGAL and EXT where no microcode is loaded; under loaded microcode, whose work the spec does
not give, it raises the fault or has the effect of its lane word that the model takes as free (log 96): its flags are
ORed, no inactive lane of a register changes. (R62, R117, R138, R142, R143, R145, R146, R147, R277, R284, R299, R325)
-/
def Obligations.MatrixResults : Prop :=
  ∀ (s : State) (c : Cur) (f : LaneOps), c.j.width ≤ 64 → c.f.exiting = false → Settled s c →
    (c.batonMode = true → c.w.ref.wave ∈ c.g.baton) →
    let x := laneAt s c f
    let who := s.who x.c false
    let tile := f.dest.toNat
    let product (i : Instr) (lanes : List Nat) (b : BitVec 512) (cols : List Nat) : Prop :=
      ∀ as bs, s.operandBytes who x.c (blockA b) (blockK b / descBlk (blockA b)) lanes = .ok as →
        s.operandBytes who x.c (blockB b) (blockK b / descBlk (blockB b)) (List.range 128) = .ok bs →
        ∃ t w, exec i s = .next t ∧ t.wave? c.w.ref = some w ∧ ∀ (ra rb : Nat × List Nat × List Nat) (bits : Nat),
          ra ∈ as → ra.1 < 64 → bs[rb.1]? = some rb → cols[rb.1]? = some bits →
          w.t tile ra.1 rb.1 = BitVec.ofNat 32 (dot [s.issue.word.toNat, tile, ra.1, rb.1] (c.w.t tile ra.1 rb.1) ((List.range (blockK b)).map (fun k => prodVal
            (element (descFmt (blockA b)) (descBlk (blockA b))
              (rowBits c.w f.a.toNat ra.1 (blockK b * matBits (descFmt (blockA b)) / 32)) ra.2.1 ra.2.2 k).1
            (element (descFmt (blockB b)) (descBlk (blockB b)) bits rb.2.1 rb.2.2 k).1)))
    (LaneReady s c 0x2C0 f → x.matPoison = none → (f.w2.extractLsb' 25 7).toNat ∉ c.g.lost → x.act ≠ 0 → ∀ b,
      (s.setFrag x.c.f).formatBlock x who = .ok b →
      8 * (f.w2.extractLsb' 17 8).toNat + blockK b * matBits (descFmt (blockB b)) ≤ 2048 →
      product (.mma f) x.lanes b ((List.range 128).map (fun k =>
        cellsNum (c.g.panels.slice (panelKey (f.w2.extractLsb' 25 7).toNat k) 256) / 256 ^ (f.w2.extractLsb' 17 8).toNat)))
    ∧ (LaneReady s c 0x2C1 f → { x with act := x.act &&& 0xFF }.matPoison = none → x.act &&& 0xFF ≠ 0 → ∀ b r cols,
      (s.setFrag x.c.f).formatBlock { x with act := x.act &&& 0xFF } who = .ok b → c.j.recs[memRecord f]? = some r →
      let n := blockK b * matBits (descFmt (blockB b)) / 8
      let o := (x.q.c.extractLsb' 0 32).toNat
      let st := if f.w2.extractLsb' 4 16 = 0 then n else 16 * (f.w2.extractLsb' 4 16).toNat
      (recScratch r = true → (recBase r).toNat + recSize r ≤ c.j.scratchSize) → o % 16 = 0 → o + 127 * st + n ≤ recSize r →
      s.streamCols who c.g r o st n (List.range 128) = .ok cols →
      product (.mvstream f) ({ x with act := x.act &&& 0xFF } : Lane).lanes b cols)
    ∧ (LaneReady s c 0x2C2 f → x.act ≠ 0 → ∀ r m, c.j.recs[memRecord f]? = some r →
      let o := (x.q.a.extractLsb' 0 32).toNat
      let st0 := (x.q.b.extractLsb' 0 32).toNat
      let st := if st0 = 0 then 256 else st0
      let n := (f.w2.extractLsb' 13 7).toNat
      (recScratch r = true → (recBase r).toNat + recSize r ≤ c.j.scratchSize) → o % 16 = 0 → st0 % 16 = 0 →
      o + 127 * st + 256 ≤ recSize r → s.panelBytes who c.g r o st (List.range 128) = .ok m →
      ∃ t g, exec (.bload f) s = .next t ∧ t.wg? c.g.ref = some g ∧ n ∉ g.lost
        ∧ (∀ col k, col < 128 → k < 256 → Sparse.get g.panels (panelKey n col + k) = Sparse.get m (256 * col + k)
          ∧ (recScratch r = true → c.g.stash = [] → c.f.seen = [] →
              Sparse.get m (256 * col + k) = Sparse.get c.g.scratch ((recBase r).toNat + o + col * st + k)))
        ∧ ∀ a, a < panelKey n 0 ∨ panelKey n 0 + 32768 ≤ a → Sparse.get g.panels a = Sparse.get c.g.panels a)
    ∧ (LaneReady s c 0x2C3 f → ∃ t w, exec (.acczero f) s = .next t ∧ t.wave? c.w.ref = some w ∧ w.vregs = c.w.vregs
        ∧ ∀ l k, l < 64 → k < 128 → w.t tile l k = (if l ∈ x.lanes then 0 else c.w.t tile l k))
    ∧ (LaneReady s c 0x2C4 f → (∀ l ∈ x.lanes, c.w.tPoisoned f.c.toNat l = false) →
        ∃ t w, exec (.accread f) s = .next t ∧ t.wave? c.w.ref = some w ∧ w.tiles = c.w.tiles
          ∧ ∀ l k, l < 64 → k < accCount f → w.v (f.dest.toNat + k) l =
              (if l ∈ x.lanes then c.w.t f.c.toNat l ((f.w2.extractLsb' 0 7).toNat + k) else c.w.v (f.dest.toNat + k) l))
    ∧ (LaneReady s c 0x2C5 f → (∀ l ∈ x.lanes, ∀ k, k < accCount f → c.w.vPoisoned (f.a.toNat + k) l = false) →
        (f.w2.extractLsb' 0 7).toNat + accCount f ≤ 128 →
        ∃ t w, exec (.accwrite f) s = .next t ∧ t.wave? c.w.ref = some w ∧ w.vregs = c.w.vregs
          ∧ ∀ l k, l < 64 → k < accCount f → w.t tile l ((f.w2.extractLsb' 0 7).toNat + k) =
              (if l ∈ x.lanes then c.w.v (f.a.toNat + k) l else c.w.t tile l ((f.w2.extractLsb' 0 7).toNat + k)))
    ∧ ∀ op : BitVec 10, 0x300 ≤ op.toNat →
        (s.microcode = none → LaneReady s c op f → exec (.extensionOpcode op f) s = .next ((s.setFrag x.c.f).raise c.f.ref
            { x.c.f.laneTrap 0x01 0x00 0 x.act with cause := 0x30001#18 }))
        ∧ ∀ m, s.microcode = some m → LaneReady s c op f →
          let e := Config.extension m s.issue.word s.fresh
          match e.fault with
          | some (flt, sub) => exec (.extensionOpcode op f) s = .next ((s.setFrag x.c.f).raise c.f.ref
              { x.c.f.laneTrap flt sub 0 x.act with cause := 3#2 ++ sub ++ flt })
          | none => ∃ t w g, exec (.extensionOpcode op f) s = .next t ∧ t.wave? c.w.ref = some w ∧ t.frag? c.f.ref = some g
              ∧ g.fflags = c.f.fflags ||| e.flags ∧ g.spc = c.f.spc ∧ g.sregs = c.f.sregs ∧ g.exec = c.f.exec
              ∧ w.pev = c.w.pev ∧ w.evslots = c.w.evslots
              ∧ ∀ r l, l < 64 → l ∉ x.lanes → w.v r l = c.w.v r l

/-- With an active lane, none performed ahead of the others (log 6), and the stores performed: PINIT with a good
descriptor of the job's partition gives status 0 and the handle of the lowest free number, its generation one higher,
or status 2 and no handle where none is free; with a good handle it destroys the pool and its elements. With one
active lane: PPUT adds its element to the home shard with status 0, or answers 2 and adds none; PTAKE, without a log,
takes the oldest aged element with status 3, else one whose key has fewer than PBOUND settled elements below with 0,
else answers 1, writes no key or value and counts a census (that an EMPTY take counts just one is the model's choice,
log 38); PSTAT reads the counts and limits of R216, the least key of the home shard (all ones where it has none), the
takes of the constellation, and of the spilled elements a sum over the shards within bounds that the model takes from
R211 (free, log 37). (R205, R206, R207, R208, R209, R211, R213, R214, R215, R216, R329) -/
def Obligations.PoolResults : Prop :=
  ∀ (s : State) (c : Cur) (f : LaneOps), Settled s c → c.f.exiting = false → LaneReady s c 0 f → c.f.flight = none →
    let x := laneAt s c f
    x.act ≠ 0 →
    (∀ p : Phys, x.q.c.toNat % 64 = 0 → s.translate (s.who x.c false) x.q.c .read = .ok p → PlainBytes s p 64 →
      let d : BitVec 512 := BitVec.ofNat 512 (Sparse.bytesNat s.mem p.pa 64)
      poolBad d = false → (c.j.kernel = true ∨ (d.extractLsb' 0 4).toNat = c.j.ref.part) →
      (s.freePool = none → exec (.pinitCreate f) s = laneResult s x 0x01 f.dest (fun _ => 2) 0)
      ∧ ∀ k, s.freePool = some k → ∃ t q w, exec (.pinitCreate f) s = .next t ∧ t.pool? k = some q ∧ t.wave? c.w.ref = some w
          ∧ q.gen = s.poolGen k + 1 ∧ q.job = { part := (d.extractLsb' 0 4).toNat, id := (d.extractLsb' 32 16).toNat }
          ∧ (∀ h ∈ q.shards, h.elems = []) ∧ q.puts = 0
          ∧ w = x.write (x.write c.w 0x01 f.a (fun _ => 0#32 ++ q.gen ++ 0#10 ++ BitVec.ofNat 6 k)) 0x01 f.dest (fun _ => 0))
    ∧ ∀ p, s.handleFault c x.q.c false = none → s.poolOf x.q.c = some p →
      (∃ t q, exec (.pinitDestroy f) s = .next t ∧ t.pool? p.num = some q ∧ q.live = false ∧ q.shards = []
          ∧ t.wave? c.w.ref = some (x.write c.w 0x01 f.dest (fun _ => 0)))
      ∧ ∀ l h, x.lanes = [l] → p.home c.g.die = some h →
        (x.rawPoisoned (x.opA 0x01) l = false → x.rawPoisoned (x.opB 0x01) l = false →
          ∃ t q, exec (.pput f) s = .next t ∧ t.pool? p.num = some q
            ∧ (s.putFull p h l = false → t.wave? c.w.ref = some (c.w.put 0x01 f.dest l 0) ∧ q.puts = p.puts + 1
                ∧ q.shards = p.shards.map (fun g => if g.die = h.die then { g with elems := g.elems ++ [
                    { key := x.raw (x.opA 0x01) l, val := x.raw (x.opB 0x01) l, put := s.cycle, num := p.puts }] } else g))
            ∧ (s.putFull p h l = true → t.wave? c.w.ref = some (c.w.put 0x01 f.dest l 2) ∧ q.shards = p.shards
                ∧ q.fulls = p.fulls + 1))
        ∧ (c.unlogged →
          (∀ e, p.oldestAged h s.cycle = some e → ∃ t q, exec (.ptake f) s = .next t ∧ t.pool? p.num = some q
            ∧ q.shards = (p.remove h.die e.num).shards
            ∧ t.wave? c.w.ref = some (((c.w.put 0x01 f.a l e.key).put 0x01 f.b l e.val).put 0x01 f.dest l 3))
          ∧ (p.oldestAged h s.cycle = none → p.allowed s.cycle = [] → ∃ t q w, exec (.ptake f) s = .next t
            ∧ t.pool? p.num = some q ∧ q.shards = p.shards ∧ q.censuses = p.censuses + 1 ∧ t.wave? c.w.ref = some w
            ∧ w.vregs = (c.w.put 0x01 f.dest l 1).vregs
            ∧ ((∀ e ∈ c.w.evslots, e.watches p = false) → w = c.w.put 0x01 f.dest l 1))
          ∧ (p.oldestAged h s.cycle = none → p.allowed s.cycle ≠ [] → ∃ t q d e, exec (.ptake f) s = .next t
            ∧ (d, e) ∈ p.allowed s.cycle ∧ t.pool? p.num = some q
            ∧ (∀ g ∈ q.shards, ∀ e' ∈ g.elems, ∃ g' ∈ p.shards, g'.die = g.die ∧ e' ∈ g'.elems ∧ (g.die = d → e'.num ≠ e.num))
            ∧ t.wave? c.w.ref = some (((c.w.put 0x01 f.a l e.key).put 0x01 f.b l e.val).put 0x01 f.dest l 0))
          ∧ (∀ p' ∈ ([(0, (p.shards.map (fun h => h.elems.length)).sum), (1, h.elems.length), (3, p.fulls), (4, p.ageds),
                (5, h.steals), (6, p.censuses)] : List (BitVec 4 × Nat)), f.w2.extractLsb' 0 4 = p'.1 →
              exec (.pstat f) s = laneResult s x 0x01 f.dest (fun _ => BitVec.ofNat 64 p'.2) 0)
          ∧ (f.w2.extractLsb' 0 4 = 2 → ∃ n, (p.shards.map (s.spilledLow p)).sum ≤ n
              ∧ n ≤ (p.shards.map (fun g => max (s.spilledLow p g) (min g.elems.length p.share))).sum
              ∧ exec (.pstat f) s = laneResult s x 0x01 f.dest (fun _ => BitVec.ofNat 64 n) 0)
          ∧ (f.w2.extractLsb' 0 4 = 7 → exec (.pstat f) s = laneResult s x 0x01 f.dest (fun _ =>
              BitVec.ofNat 16 p.pstarve ++ BitVec.ofNat 16 p.pbound ++ BitVec.ofNat 8 p.pdepth ++ p.dies ++ 0#3
                ++ BitVec.ofNat 17 p.psumm) 0)
          ∧ (f.w2.extractLsb' 0 4 = 8 → ∃ k : Word64, exec (.pstat f) s = laneResult s x 0x01 f.dest (fun _ => k) 0
              ∧ (∀ e ∈ h.elems, k.toNat ≤ e.key.toNat) ∧ (if h.elems = [] then k = BitVec.allOnes 64 else ∃ e ∈ h.elems, e.key = k))
          ∧ (f.w2.extractLsb' 0 4 = 9 → exec (.pstat f) s = laneResult s x 0x01 f.dest (fun _ =>
              p.takes.get (f.w2.extractLsb' 4 8).toNat) 0))

/-- CLUSTERS takes the bits written of clusters that no other partition owns and no scrub quarantines; PARKLIMIT is at
least 0x1_0000; QOS 0 is stored as 1; every other register of a partition takes the bits it has; a table write keeps
DROPS and FIRES; a doorbell counts only while DONESEQ equals BELL, and the monitor's runs the command in its REQ, or
answers 3 to one that is not assigned (the operands' words and the moment are the model's, log 57); CLKSTEP ends a
thermal trip, which sets every die's step to 0; MARGINCOMMIT takes the proposal only. Nothing else changes. RESET
leaves its partition no job, live pool, queue entry, group, frame or key, and RESET of STATUS reads 1 while it owns
clusters to scrub. (The peer window's operand layout, log 40, and S2ROOT stored whole as written, log 72, are the
model's choices.) (R35, R239, R255, R265, R267, R268, R270, R271, R273, R279, R280) -/
def Obligations.ControlRegisterWrites : Prop :=
  (∀ (s : State) (p : BitVec 4) (x : Part) (v : BitVec 512) (w : BitVec 32) (k : BitVec 3), s.part? p.toNat = some x →
    let lo : Word64 := v.extractLsb' 0 64
    (∃ m : BitVec 32, PartTo (.clusters p w) s p { x with clusters := m } ∧ ∀ i, i < 32 → (m.getLsbD i = true ↔
        w.getLsbD i = true ∧ (∀ q ∈ s.parts, q.id ≠ p.toNat → q.clusters.getLsbD i = false)
          ∧ ∀ c ∈ s.contexts, c.tearing = true → c.clusters.getLsbD i = false))
    ∧ PartTo (.parklimit p w) s p { x with parklimit := if w.toNat < 0x10000 then 0x10000 else w }
    ∧ PartTo (.qos p lo) s p { x with qos := if lo.extractLsb' 0 8 = 0 then 1 else lo.extractLsb' 0 8 }
    ∧ PartTo (.registerWrite (.s2root p) v) s p { x with s2root := lo }
    ∧ PartTo (.registerWrite (.featmask p) v) s p { x with featmask := lo }
    ∧ PartTo (.registerWrite (.preemptcfg p) v) s p { x with preemptcfg := lo }
    ∧ PartTo (.registerWrite (.savewin p) v) s p
        { x with savewin := 0#7 ++ lo.extractLsb' 30 27 ++ 0#14 ++ lo.extractLsb' 0 16 }
    ∧ PartTo (.registerWrite (.msix p) v) s p { x with msix := lo.extractLsb' 0 11 }
    ∧ PartTo (.registerWrite (.keyslots p) v) s p { x with keyslots := lo }
    ∧ PartTo (.registerWrite (.sigpolicy p) v) s p { x with sigpolicy := lo.extractLsb' 0 4 }
    ∧ PartTo (.registerWrite (.enroll p k) v) s p { x with enroll := x.enroll.set k.toNat (v.extractLsb' 0 256) }
    ∧ (∃ r : BitVec 512, PartTo (.registerWrite (.vfReq p k) v) s p { x with mailbox := { x.mailbox with req := r } }
        ∧ ∀ i, i < 8 → r.extractLsb' (64 * i) 64 = if i = k.toNat then lo else x.mailbox.req.extractLsb' (64 * i) 64)
    ∧ PartTo (.registerWrite (.vfBell p) v) s p
        { x with mailbox := { x.mailbox with bell := if x.mailbox.done = x.mailbox.bell then lo else x.mailbox.bell } }
    ∧ ∃ t, exec (.reset p) s = .next t
      ∧ (∀ y, t.part? p.toNat = some y → y.queue = [] ∧ y.groups = [] ∧ y.frames = [] ∧ y.resetting = (x.clusters != 0))
      ∧ (∀ q ∈ t.privQueue, q.part ≠ p.toNat) ∧ (∀ j ∈ t.jobs, j.ref.part ≠ p.toNat) ∧ (∀ q ∈ t.pools, q.job.part = p.toNat → q.live = false)
      ∧ (∀ i, i < 64 → x.keyslots.getLsbD i = true → t.keySlots.get i = 0)
      ∧ ∀ d ∈ t.dies, (∀ e ∈ d.fq.entries ++ d.fq.late, e.job.part ≠ p.toNat)
        ∧ ∀ r ∈ d.sq.opened ++ d.sq.late, r.caller.wave.wg.job.part ≠ p.toNat)
  ∧ (∀ (s : State) (v : BitVec 512) (e : BitVec 12) (b : BitVec 8) (k : BitVec 3),
    let lo : Word64 := v.extractLsb' 0 64
    (∃ t, exec (.registerWrite (.steering e) v) s = .next t ∧ t = { s with steering := t.steering }
      ∧ ∀ i, t.steering.get i = if i = e.toNat then v.extractLsb' 0 128 else s.steering.get i)
    ∧ (∃ t, exec (.registerWrite (.ring b) v) s = .next t ∧ t = { s with rings := t.rings }
      ∧ ∀ i, t.rings.get i = if i = b.toNat then
          v.extractLsb' 192 64 ++ (s.rings.get i).extractLsb' 128 64 ++ v.extractLsb' 0 128 else s.rings.get i)
    ∧ (∃ t, exec (.registerWrite (.binding b) v) s = .next t ∧ t = { s with bindings := t.bindings }
      ∧ ∀ i, t.bindings.get i = if i = b.toNat then
          v.extractLsb' 256 256 ++ (s.bindings.get i).extractLsb' 192 64 ++ v.extractLsb' 0 192 else s.bindings.get i)
    ∧ (∃ t, exec (.registerWrite (.peerwin b) v) s = .next t ∧ t = { s with peerWins := t.peerWins }
      ∧ t.peerWins.find? (fun x => x.num == b.toNat) = some
          { num := b.toNat, enabled := v.getLsbD 0, module := v.extractLsb' 1 10, part := v.extractLsb' 11 4
            base := v.extractLsb' 64 64 })
    ∧ (∃ t, exec (.registerWrite (.monReq k) v) s = .next t ∧ t = { s with monitor := { s.monitor with req := t.monitor.req } }
      ∧ ∀ i, i < 8 → t.monitor.req.extractLsb' (64 * i) 64 = if i = k.toNat then lo else s.monitor.req.extractLsb' (64 * i) 64)
    ∧ (s.monitor.done ≠ s.monitor.bell → exec (.registerWrite .monBell v) s = .next s)
    ∧ (s.monitor.done = s.monitor.bell →
      let u : State := { s with monitor := { s.monitor with bell := lo } }
      let op (i : Nat) : Word64 := s.monitor.req.extractLsb' (64 * i) 64
      let cmd := s.monitor.req.extractLsb' 0 8
      let part := (op 7).extractLsb' 0 4
      let j : JobRef := { part := part.toNat, id := (op 1).toNat }
      let w : WaveRef := { wg := { job := j, wg := (op 2).toNat / 32 }, wave := (op 2).toNat % 32 }
      let does (i : Instr) : Prop := exec (.registerWrite .monBell v) s = exec i u
      (cmd = 1 → does (.freeze j ((op 2).setWidth 32))) ∧ (cmd = 2 → does (.thaw j ((op 2).setWidth 32)))
      ∧ (cmd = 3 → (op 3).toNat < 4 → (op 4).toNat < 65536 →
          does (.step { wave := w, frag := (op 3).toNat } ((op 4).setWidth 16)))
      ∧ (cmd = 4 → (op 2).toNat < 8 → does (.freezept j ((op 2).setWidth 3) (op 3)))
      ∧ (cmd = 5 → does (.read w (op 3))) ∧ (cmd = 6 → does (.write w (op 3)))
      ∧ (cmd = 7 → (op 3).toNat < 2 → does (.checkpoint part (op 1) (op 2) (op 3 == 1)))
      ∧ (cmd = 8 → does (.restore part (op 1)))
      ∧ (cmd = 9 → (op 4).toNat < 4 → does (.log j (op 2) (op 3) ((op 4).setWidth 2)))
      ∧ ((cmd = 0 ∨ 9 < cmd.toNat) → ∃ t, exec (.registerWrite .monBell v) s = .next t ∧ t.monitor.done = lo
          ∧ t.monitor.resp.extractLsb' 0 8 = 3)))
  ∧ ∀ (s : State) (d : BitVec 2) (x : Die) (v : Word64) (c : BitVec 3), s.die? d.toNat = some x →
    (∃ t, exec (.clkstep d c) s = .next t ∧ t = { s with dies := t.dies, trip := false }
      ∧ t.die? d.toNat = some { x with clkstep := c } ∧ ∀ e, e ≠ d.toNat → t.die? e = s.die? e)
    ∧ DieTo (.gate d v) s d { x with gate := v }
    ∧ DieTo (.marginProposal d v) s d { x with marginProp := v }
    ∧ DieTo (.margincommit d v) s d { x with marginCommit := if v = x.marginProp then v else x.marginCommit }
    ∧ ∃ t, exec .thermalTrip s = .next t ∧ t = { s with dies := t.dies, trip := true }
      ∧ t.die? d.toNat = some { x with clkstep := 0 }

/-- FQTAIL and SQTAIL set the tail. FQDONE closes its open entry: RETRY lets the parked fragment execute its access
again, KILL traps it with the access's cause; with none open nothing changes. SQDONE of a trap record applies the
verdict in its slot, of a batch record gives each lane its status and result in v0 to v3 and the caller goes on behind
its SVC. SQRESTART posts an unanswered batch record again with REPOST and a fresh SEQ. A fault or record that waits is
written to the next slot once one is free. A service-fault verdict applies to the record in the slot. (The model's
readings: a slot that holds one record at a time, log 10; a store to a register of any size is taken, log 9.) (R163,
R164, R235, R258, R259, R260, R261, R262) -/
def Obligations.QueueWindowRules : Prop :=
  ∀ (s : State) (d : BitVec 2) (x : Die) (v seq : BitVec 32) (w : Word64), s.die? d.toNat = some x →
    DieTo (.fqtail d v) s d { x with fq := { x.fq with tail := v } }
    ∧ DieTo (.sqtail d v) s d { x with sq := { x.sq with tail := v } }
    ∧ ((∀ e ∈ x.fq.entries, e.seq = seq → e.opened = false) →
        exec (.fqdoneRetry d seq) s = .next s ∧ exec (.fqdoneKill d seq) s = .next s)
    ∧ (∀ e r tok ctx c, x.fq.entries.find? (fun y => y.opened && y.seq == seq) = some e → e.who = [.frag r tok] →
        s.look r = some c → c.f.slot = .parked (.page tok ctx) →
        let closed (t : State) : Prop := ∀ y, t.die? d.toNat = some y → ∀ z ∈ y.fq.entries, z.seq = seq → z.opened = false
        (∃ t f, exec (.fqdoneRetry d seq) s = .next t ∧ t.frag? r = some f ∧ f.slot = .ready ∧ f.spc = c.f.spc
          ∧ f.queue = c.f.queue ∧ closed t)
        ∧ (c.f.exiting = false → c.draining = false → c.j.kernel = false →
          ∃ t f, exec (.fqdoneKill d seq) s = .next t ∧ t.frag? r = some f ∧ f.slot = .parked .trap ∧ f.trapcause = ctx.cause
            ∧ closed t))
    ∧ ((∀ r ∈ x.sq.opened, r.seq ≠ seq) → exec (.sqdone d seq) s = .next s)
    ∧ (∀ r, x.sq.opened.find? (fun y => y.seq == seq) = some r →
      (r.batch = false →
        let u := s.modDie d.toNat (fun y => { y with sq := { y.sq with opened := y.sq.opened.filter (fun z => z.seq != seq) } })
        exec (.sqdone d seq) s = .next (u.verdict r.caller
          (BitVec.ofNat 64 (x.sq.bytes.bytesNat (4096 * (seq.toNat % 2048) + 2048) 8))))
      ∧ ∀ c, r.batch = true → s.look r.caller = some c → c.f.slot = .parked (.svc r.callSeq) → c.unlogged →
          (∀ f ∈ s.frags, f.awaits = none) →
          ∃ t y f, exec (.sqdone d seq) s = .next t ∧ t.wave? c.w.ref = some y ∧ t.frag? r.caller = some f
            ∧ f.spc = c.f.spc + 4 ∧ f.slot = .ready ∧ f.callSeq = none ∧ f.sregs = c.f.sregs
            ∧ ∀ i l, (lanesOf 64 r.lanes)[i]? = some l →
              let at' := 4096 * (seq.toNat % 2048) + 2048 + 16 * i
              y.v 0 l = (x.sq.bytes.get (at' + 8)).setWidth 32 ∧ y.v 1 l = 0
              ∧ (y.v 2 l).toNat = x.sq.bytes.bytesNat at' 4 ∧ (y.v 3 l).toNat = x.sq.bytes.bytesNat (at' + 4) 4)
    ∧ (x.sq.opened.any (fun r => r.batch) = false → DieTo (.sqrestart d) s d x)
    ∧ (∀ r, x.sq.opened = [r] → r.batch = true → x.sq.late = [] → x.sq.head - x.sq.tail ≠ 2048 →
        ∃ y q, DieTo (.sqrestart d) s d y ∧ y.sq.head = x.sq.head + 1 ∧ y.sq.opened = [q] ∧ q.seq = x.sq.head
          ∧ q.head.getLsbD 3 = true ∧ q.head.extractLsb' 128 32 = x.sq.head ∧ q.callSeq = r.callSeq
          ∧ ∀ i, i ≠ 3 → (i < 128 ∨ 160 ≤ i) → q.head.getLsbD i = r.head.getLsbD i)
    ∧ (∀ n, x.fq.late = [n] → (∀ e ∈ x.fq.entries, e.takes n = false) → x.fq.room = true →
        ∃ y, DieTo (.faultQueueWrite d) s d y ∧ y.fq.head = x.fq.head + 1 ∧ y.fq.late = []
          ∧ { n with seq := x.fq.head } ∈ y.fq.entries)
    ∧ (∀ r rs, x.sq.late = r :: rs → x.sq.room = true →
        ∃ y q, DieTo (.serviceQueuePost d) s d y ∧ y.sq.head = x.sq.head + 1 ∧ y.sq.late = rs ∧ y.sq.opened = x.sq.opened ++ [q]
          ∧ q.seq = x.sq.head ∧ q.caller = r.caller ∧ y.sq.bytes.bytesNat (4096 * (x.sq.head.toNat % 2048)) 64 = q.head.toNat)
    ∧ (x.svcFault = [] → exec (.serviceFaultVerdict d w) s = .next s)
    ∧ ∀ r rec rest, x.svcFault = (r, rec) :: rest → exec (.serviceFaultVerdict d w) s =
        .next ((s.modDie d.toNat (fun y => { y with svcFault := y.svcFault.tail })).verdict r w)

/-- FREEZE holds a running workgroup's fragments at their points (one in an entry routine goes on to its ENTRYDONE),
THAW lets them go, STEP gives a held fragment its count (status 3 for 0), FREEZEPT sets its slot; READ copies a frozen
wave's layout to host memory and nothing more; WRITE loads lane and scalar registers from it, and EXEC within the lane
set; both answer 3 where the host's bytes lie outside its window (its place is the model's, log 8); LOG starts its
mode (status 3 for mode 3); a job that is not there answers 1, a workgroup not frozen 2, a full log 5 and a diverged
one 4. CHECKPOINT starts the stop of a graph without a cycle and answers 3 to one with; RESTORE puts the jobs back
running as the area now holds them, and answers 3 where it holds none (the area's bytes are the model's choice, log
17; the graph a handle names is free, log 71). A freeze point freezes its workgroup, and the end of a step freezes the
fragment again; a command's moment and its operands are the model's (log 57). (R246, R254, R255, R256, R257) -/
def Obligations.DebugCommands : Prop :=
  (∀ (s : State) (j : JobRef) (wg : BitVec 32) (r : FragRef) (n : BitVec 16) (k : BitVec 3) (a b : Word64) (m : BitVec 2),
    r.wave.wg.job = j → s.job? j = none →
    (∃ t, Answers (.freeze j wg) s 1 t) ∧ (∃ t, Answers (.thaw j wg) s 1 t) ∧ (∃ t, Answers (.step r n) s 1 t)
    ∧ (∃ t, Answers (.freezept j k a) s 1 t) ∧ (∃ t, Answers (.read r.wave a) s 1 t) ∧ (∃ t, Answers (.write r.wave a) s 1 t)
    ∧ ∃ t, Answers (.log j a b m) s 1 t)
  ∧ (∀ (s : State) (j : JobRef) (x : Job) (g : Wg) (wg : BitVec 32) (k : BitVec 3) (a b : Word64) (m : BitVec 2),
    s.job? j = some x → x.kernel = false →
    (x.log.full = true → ∃ t, Answers (.freezept j k a) s (if x.log.mode = 2 then 4 else 5) t)
    ∧ (x.log.full = false →
      (∃ t y, Answers (.freezept j k a) s 0 t ∧ t.job? j = some y ∧ (k, a) ∈ y.freezes ∧ ∀ c, (k, c) ∈ y.freezes → c = a)
      ∧ (m = 3 → ∃ t, Answers (.log j a b m) s 3 t)
      ∧ (m ≠ 3 → ∃ t, Answers (.log j a b m) s 0 t
          ∧ t.job? j = some { x with log := { mode := m, area := a, bytes := b, next := 0, full := false } })
      ∧ (wg ≠ 0xFFFFFFFF → s.wg? { job := j, wg := wg.toNat } = some g → g.die < 4 →
        (g.state = .running → ∃ t h, Answers (.freeze j wg) s 0 t ∧ t.wg? g.ref = some h ∧ h.frozen = true
          ∧ ∀ r c, s.look r = some c → r.wave.wg = g.ref → r.wave.wave < 32 → r.frag < 4 → c.f.queue = [] → c.f.steps = none →
              c.f.routine = .none →
            ∃ f, t.frag? r = some f ∧ f.held = true)
        ∧ (g.frozen = true → g.held = none → ∃ t, Answers (.thaw j wg) s 0 t ∧ t.wg? g.ref = some { g with frozen := false }
          ∧ ∀ r f, s.frag? r = some f → r.wave.wg = g.ref → f.held = true → ∃ h, t.frag? r = some h ∧ h.slot = .ready)
        ∧ ((∀ h ∈ s.wgs, h.ref = g.ref → h.frozen = false) → ∃ t, Answers (.thaw j wg) s 2 t))))
  ∧ (∀ (s : State) (r : FragRef) (c : Cur) (n : BitVec 16) (host : Word64), s.look r = some c → c.j.kernel = false →
    c.j.log.full = false →
    (c.g.frozen = false → (∃ t, Answers (.step r n) s 2 t) ∧ (∃ t, Answers (.read r.wave host) s 2 t)
      ∧ ∃ t, Answers (.write r.wave host) s 2 t)
    ∧ (c.g.frozen = true →
      (n = 0 → ∃ t, Answers (.step r n) s 3 t)
      ∧ (n ≠ 0 → ∃ t f, Answers (.step r n) s 0 t ∧ t.frag? r = some f ∧ f.steps = some n.toNat
          ∧ (c.f.held = true → f.slot = .ready))
      ∧ (0xA000000000 < host.toNat + c.j.waveBytes c.role →
          (∃ t, Answers (.read r.wave host) s 3 t) ∧ ∃ t, Answers (.write r.wave host) s 3 t)
      ∧ (host.toNat + c.j.waveBytes c.role ≤ 0xA000000000 → ∃ t, Answers (.read r.wave host) s 0 t ∧ t = { s with hostMem := t.hostMem, monitor := t.monitor }
        ∧ (∀ i, i < c.j.waveBytes c.role → t.hostMem.get (hostAt host + i) = (s.waveImage c.w c.g c.j).get i)
        ∧ ∀ i, i < hostAt host ∨ hostAt host + c.j.waveBytes c.role ≤ i → t.hostMem.get i = s.hostMem.get i)
      ∧ (host.toNat + c.j.waveBytes c.role ≤ 0xA000000000 → c.j.width ≤ 64 → roleSregs c.role ≤ 64 → ∃ t w f, Answers (.write r.wave host) s 0 t ∧ t.wave? r.wave = some w
        ∧ (∀ v l, v < roleVregs c.role → l < c.j.width →
            (w.v v l).toNat = s.hostMem.bytesNat (hostAt host + 4 * (v * c.j.width + l)) 4)
        ∧ t.frag? r = some f ∧ f.exec &&& ~~~(c.f.exec ||| savedLanes c.f.join) = 0
        ∧ ∀ i : BitVec 6, i ≠ 0 → i.toNat < roleSregs c.role →
            (f.s i).toNat = s.hostMem.bytesNat (hostAt host + c.j.scalarsAt c.role r.frag + 8 * i.toNat) 8))
    ∧ (c.freezeHere = true → c.g.canFreeze = true → c.g.frozen = false → (c.f.slot = .ready ∨ c.f.slot = .active) →
        ∃ t g, exec (.freezePointHit r) s = .next t ∧ t.wg? c.g.ref = some g ∧ g.frozen = true)
    ∧ (c.f.steps = some 0 → c.f.queue = [] → c.g.frozen = true → (c.f.slot = .ready ∨ c.f.slot = .active) →
        c.f.routine = .none → ∃ t f, exec (.stepEnd r) s = .next t ∧ t.frag? r = some f
        ∧ f.steps = none ∧ f.held = true))
  ∧ ∀ (s : State) (p : BitVec 4) (graph area : Word64) (hold : Bool),
    let g := Config.freeGraph s.fresh graph
    (graphCycle g.1 g.2.1 = false → exec (.checkpoint p graph area hold) s = .next { s with stops := s.stops ++
        [{ part := p.toNat, jobs := g.1, edges := g.2.1, halted := [], denied := [], area := some (area, hold)
           ranges := g.2.2, caller := none }] })
    ∧ (graphCycle g.1 g.2.1 = true → ∃ t, Answers (.checkpoint p graph area hold) s 3 t
        ∧ t.reports = s.reports ++ [.graphCycle p.toNat])
    ∧ (let number := s.deviceNat { pa := area.toNat, key := none } 0 8
       (∀ c ∈ s.checkpoints, c.part = p.toNat → c.id ≠ number) → ∃ t, Answers (.restore p area) s 3 t)
    ∧ ∀ c, s.checkpointAt p.toNat area = some c →
      let d := s.fromArea c area
      (s.newIds p.toNat (d.jobs.map (fun x => x.ref.id))).isSome = true →
      (s.freeFrames p.toNat d.frames.length).isSome = true →
      ∃ t, Answers (.restore p area) s 0 t ∧ ∀ x ∈ d.jobs, ∃ y ∈ t.jobs, y.state = .running ∧ y.record = x.record
        ∧ y.kdesc = x.kdesc ∧ y.ref.part = x.ref.part

/-- Every call is performed for a control program, a mailbox and a batch record, with its number and its idempotence,
LAUNCH once the service job has been launched. NULL answers 0; LAUNCH queues the completed record, FULL with 256
queued; STOPGRAPH starts the stop of a graph without a cycle, RESUMEGRAPH lets its halted jobs run; RESCREATE answers
a new handle, the other residency calls move or free it; MAP writes leaves, UNMAP clears them; ARMLAUNCH binds and
arms a free binding; PROTECT takes a key and a context, FULL under quarantine; TEARDOWN zeroises its keys and starts
its scrub; ATTEST reports the digest over what R278 lists; MCLOAD is FULL with a job resident; COLLGROUP refuses a
malformed descriptor with FLT_RECORD, SUB 0x34; COLLFREE ends the group. A registered number answers with its
handler's status and result. (The model's choices: a caller outside any job, logs 63 and 64; the graphs and contexts
that handles name, logs 69 and 71; pages and leaf bits, log 68; a tier without room, log 87; a record's place, log 89;
what ATTEST covers, log 88; registered numbers, log 70.) (R157, R221, R253, R259, R262, R263, R264, R265, R269, R272,
R273, R277) -/
def Obligations.SystemCallResults : Prop :=
  (Performs .null 0x000 true State.nullCall ∧ Performs .launch 0x001 false State.launch State.served
    ∧ Performs .stopgraph 0x008 false State.stopGraph ∧ Performs .resumegraph 0x009 false State.resumeGraph
    ∧ Performs .rescreate 0x010 false State.resCreate ∧ Performs .resdemote 0x011 true State.resDemote
    ∧ Performs .resevict 0x012 true State.resEvict ∧ Performs .respromote 0x013 true State.resPromote
    ∧ Performs .resfree 0x014 false State.resFree ∧ Performs .map 0x020 false State.mapCall
    ∧ Performs .unmap 0x021 true State.unmapCall ∧ Performs .armlaunch 0x030 false State.armLaunch
    ∧ Performs .protect 0x040 false State.protectCall ∧ Performs .teardown 0x041 true State.teardownCall
    ∧ Performs .attest 0x050 true State.attestCall ∧ Performs .mcload 0x060 false State.mcLoad
    ∧ Performs .collgroup 0x070 false State.collGroup ∧ Performs .collfree 0x071 true State.collFree)
  ∧ (∀ (s : State) (p : BitVec 4) (a0 a1 : Word64) (status : BitVec 8) (result : Word64), ∃ st v,
      exec (.controlProgramCall (.ecall p a0 a1) status result) s =
        .next { s with results := s.results ++ [(.ecall p a0 a1, st, v)] }
      ∧ (s.choose 0 2 = 1 → st = status ∧ v = result))
  ∧ ∀ (t : State) (a : Asked),
    t.nullCall a = (t, .reply 0 0)
    ∧ (∀ p rb tb, t.part? a.part = some p → t.callRead a a.a0 256 = some rb → t.callRead a a.a1 128 = some tb →
        a.a0.toNat % 256 = 0 →
        (256 ≤ p.queue.length → t.launch a = (t, .reply 2 0))
        ∧ (p.queue.length < 256 → ∀ v q, t.completeLaunch a.part a.a0 (BitVec.ofNat 2048 (leNat rb)) (trapWords tb) false
            (some a.who) = (v, some q) →
          ∃ u z, t.launch a = (u, .later 0) ∧ u.part? a.part = some z ∧ z.queue = p.queue ++ [q] ∧ q.addr = a.a0
            ∧ q.part = a.part))
    ∧ (let g := Config.freeGraph t.fresh a.a0
       (graphCycle g.1 g.2.1 = true → ∃ u st v, t.stopGraph a = (u, .reply st v) ∧ u.reports = t.reports ++ [.graphCycle a.part])
       ∧ (graphCycle g.1 g.2.1 = false → ∃ u x, t.stopGraph a = (u, .later 0) ∧ u.stops = t.stops ++ [x] ∧ x.jobs = g.1
            ∧ x.part = a.part)
       ∧ ∃ u, t.resumeGraph a = (u, .reply 0 0) ∧ ∀ i ∈ g.1, ∀ j, t.job? { part := a.part, id := i } = some j →
            j.state = .halted → ∃ k, u.job? { part := a.part, id := i } = some k ∧ k.state = .running)
    ∧ (∃ u st v, t.resCreate a = (u, .reply st v) ∧ ((st = 2 ∧ u = t) ∨ (st = 0 ∧ t.handle? v.toNat = none
        ∧ ∃ r, u.handle? v.toNat = some r ∧ r.base = a.a0 ∧ r.size = a.a1 &&& ~~~0xF ∧ r.lpddr = a.a1.getLsbD 3
          ∧ r.prio = a.a1.extractLsb' 0 3)))
    ∧ (∀ r, t.handle? a.a0.toNat = some r →
        (∃ u st v, t.resDemote a = (u, .reply st v)
          ∧ (u = t ∨ (st = 0 ∧ v = 0 ∧ u.handle? a.a0.toNat = some { r with place := 1 })))
        ∧ (∃ u st v, t.resEvict a = (u, .reply st v)
          ∧ (u = t ∨ (st = 0 ∧ v = 0 ∧ u.handle? a.a0.toNat = some { r with place := 2 })))
        ∧ (∀ place u, (t.placeTensor r.num place) = some u → t.moved r place = (u, .reply 0 0))
        ∧ (∃ u, t.resFree a = (u, .reply 0 0) ∧ u.handle? a.a0.toNat = none)
        ∧ ∃ u st, t.resPromote a = (u, .reply st 0) ∧ ((st = 2 ∧ u = t) ∨ (st = 0
          ∧ ∃ q, u.handle? a.a0.toNat = some q ∧ (q.place = 0 ∨ q.place = 1))))
    ∧ (∃ u st, t.mapCall a = (u, .reply st 0) ∧ (st = 0 ∨ (st = 2 ∧ u = t)))
    ∧ (∀ (tr : Tree) (perm : BitVec 3) va s1 p u, t.pageEntry true tr va tr.levels tr.root = (s1, some p) →
        regionOf p.pa = .device → t.mapPage tr ((Config.mapBits perm).setWidth 64 <<< 2) va = some u →
        let e := BitVec.ofNat 64 (Sparse.bytesNat u.mem p.pa 8)
        e.extractLsb' 0 2 = 1 ∧ e.extractLsb' 2 3 = Config.mapBits perm ∧ e.extractLsb' 5 11 = 0 ∧ e.extractLsb' 44 20 = 0)
    ∧ (∀ (tr : Tree) va s1 p, t.pageEntry false tr va tr.levels tr.root = (s1, some p) →
        regionOf p.pa = .device → Sparse.bytesNat (t.unmapPage tr va).mem p.pa 8 = 0)
    ∧ (∃ u, t.unmapCall a = (u, .reply 0 0) ∧ (∀ va, pagesOf a.a0 (a.a1.extractLsb' 0 61).toNat = [va] →
        u = t.unmapPage (t.treeOf a) va))
    ∧ (∀ bs, t.callRead a a.a0 384 = some bs → a.a0.toNat % 256 = 0 →
        let r := BitVec.ofNat 2048 (leNat (bs.take 256))
        r.getLsbD 780 = true →
        (t.freeBindings = [] → t.armLaunch a = (t, .reply 2 0))
        ∧ ∀ b v q, t.pick 1 t.freeBindings = some b →
          t.completeLaunch a.part a.a0 r (trapWords (bs.drop 256)) true none = (v, some q) →
          ∃ u, t.armLaunch a = (u, .reply 0 (BitVec.ofNat 64 b)) ∧ (u.bindings.get b).getLsbD 0 = true
            ∧ bindPart (u.bindings.get b) = a.part % 16
            ∧ (∃ n, (b, { q with addr := n }) ∈ u.armedRecs ∧ (u.bindings.get b).extractLsb' 448 64 = n)
            ∧ stAction (u.steering.get (r.extractLsb' 768 12).toNat) = 2
            ∧ stTarget (u.steering.get (r.extractLsb' 768 12).toNat) % 256 = b)
    ∧ (∀ p, t.part? a.part = some p →
        let d := Config.freeContext t.fresh a.a0
        (t.quarantined d.1 d.2 = true → t.protectCall a = (t, .reply 2 0))
        ∧ (t.quarantined d.1 d.2 = false → ∀ n k, t.pick 0 t.freeContexts = some n → t.pick 1 (t.freeKeys p) = some k →
          ∃ u, t.protectCall a = (u, .reply 0 (BitVec.ofNat 64 n)) ∧ u.keySlots.get k ≠ 0
            ∧ ∃ x ∈ u.contexts, x.num = n ∧ x.part = a.part ∧ x.keys = 1#64 <<< k ∧ x.clusters = d.1 ∧ x.pages = d.2
              ∧ x.tearing = false))
    ∧ (∀ x, t.contexts.find? (fun y => y.num == a.a0.toNat && y.part == a.part) = some x → x.state = 0 →
        ∃ u, t.teardownCall a = (u, .reply 0 0) ∧ (∀ i, i < 64 → x.keys.getLsbD i = true → u.keySlots.get i = 0)
          ∧ ∃ y ∈ u.contexts, y.num = x.num ∧ y.done = 0 ∧ (y.tearing = true ↔ (x.clusters ≠ 0 ∨ x.pages ≠ [])))
    ∧ (∀ bs p, t.callRead a a.a0 32 = some bs → t.part? a.part = some p →
        ∃ u, t.attestCall a = (u, .reply 0 0) ∧ u.reports = t.reports ++ [.attest (Config.sha3 (t.attested p bs))])
    ∧ (t.jobs.any (fun j => !j.kernel) = true → t.mcLoad a = (t, .reply 2 0))
    ∧ (t.jobs.any (fun j => !j.kernel) = false → t.choose 0 2 = 0 → ∃ u m, t.mcLoad a = (u, .reply 0 (m.setWidth 64))
        ∧ u.microcode.isSome = true ∧ u.archMinor = m)
    ∧ (∀ p hb mb, t.part? a.part = some p → t.callRead a a.a0 16 = some hb →
        let head := BitVec.ofNat 128 (leNat hb)
        let n := min 1024 (head.extractLsb' 0 32).toNat
        t.callRead a (a.a0 + 16) (4 * n) = some mb →
        let x := readGroup a.part head ((List.range n).map (fun i => BitVec.ofNat 32 (leNat ((mb.drop (4 * i)).take 4))))
        (x = none → t.collGroup a = (t, .trap 0x04 0x34))
        ∧ ∀ g k, x = some g → t.pick 0 (t.freeGroups a.part) = some k →
          ∃ u y, t.collGroup a = (u, .reply 0 (BitVec.ofNat 64 k)) ∧ u.part? a.part = some y
            ∧ y.groups = p.groups ++ [{ g with num := k }])
    ∧ ∃ u, t.collFree a = (u, .reply 0 0) ∧ u.group? a.part a.a0.toNat = none

/-- LAUNCH_START takes the head of a partition's queue, or of its privileged queue, a pre-armed record as memory now
holds it, whose kernel is chosen anew where its KERNEL has changed, while the partition is not in reset; it gives it
the partition's next JOBID and either drops it (SIGNAL misaligned or not translating), stores the refusal's signal
(cause 0x01 for a malformed record or one at no multiple of 256), or starts it. DISPATCH of a workgroup that may start
on a core sets its waves as R20 says, or resumes a saved one there. A finished workgroup's storage is released; a
service workgroup starts again at once. A die with nothing left of a job reports once, an aborting job's die discards
what it holds; with all live dies' reports the job signals: bit 63, GONE and the status are stored, its JOBID is free
and its pools are gone. (The model's choices: logs 19, 21 and 59; a storage choice where the spec gives none, log 85;
that a start drops the cached translations of its JOBID, which R160 and R165 do not ask for, log 75.) (R20, R31, R38,
R210, R221, R222, R223, R224, R225, R226, R228, R258) -/
def Obligations.LaunchAndRetirementRules : Prop :=
  (∀ (s : State) (q : BitVec 5) (p : Part) (x : Queued) (xs : List Queued), s.part? (q.toNat % 16) = some p →
    (p.resetting = true → exec (.launchStart q) s = .next s)
    ∧ (p.resetting = false → q.toNat < 16 →
      (p.queue = [] → exec (.launchStart q) s = .next s)
      ∧ (p.queue = x :: xs → exec (.launchStart q) s =
          .next (s.startNext x false (s.modPart p.id (fun y => { y with queue := xs })))))
    ∧ (p.resetting = false → 16 ≤ q.toNat → s.privQueue.find? (fun y => y.part == p.id) = some x →
      ∃ y, exec (.launchStart q) s = .next (s.startNext y (!x.armed) { s with privQueue := s.privQueue.erase x })
        ∧ (x.armed = false → y = x)
        ∧ (x.armed = true → y = { x with record := y.record, traps := y.traps, kernel := y.kernel, copies := y.copies }
          ∧ (y.record.extractLsb' 0 64 = x.record.extractLsb' 0 64 → y.kernel = x.kernel)
          ∧ (y.record.extractLsb' 0 64 ≠ x.record.extractLsb' 0 64 → y.kernel = none)
          ∧ (PlainBytes s { pa := x.addr.toNat, key := none } 384 →
            y.record = BitVec.ofNat 2048 (Sparse.bytesNat s.mem x.addr.toNat 256)
            ∧ ∀ i, i < 16 → y.traps[i]? = some (BitVec.ofNat 64 (Sparse.bytesNat s.mem (x.addr.toNat + 256 + 8 * i) 8)))))
    ∧ (p.resetting = false → 16 ≤ q.toNat → s.privQueue.find? (fun y => y.part == p.id) = none →
      ∃ y : Queued, y.part = p.id ∧ y.armed = false ∧ exec (.launchStart q) s = .next (s.startNext y true s)))
  ∧ (∀ (s u : State) (x : Queued) (priv : Bool), x.service priv = false →
    (s.nextJobid x.part = none → s.startNext x priv u = s)
    ∧ ∀ id, s.nextJobid x.part = some id → x.caller = none →
      let v := u.modPart x.part (fun y => { y with lastJob := some id })
      let j : Job := { x.job id u.serial with features := v.features x.part }
      let s1 : State := { v with serial := u.serial + 1, tlb := u.tlb.filter (fun e => e.job != j.ref) }
      ((j.signalVa.toNat % 8 ≠ 0 ∨ ∃ e, s1.translate j.who j.signalVa .write = .error e) →
          s.startNext x priv u = { s1 with reports := s1.reports ++ [.dropped x.addr] })
      ∧ ∀ pa, j.signalVa.toNat % 8 = 0 → s1.translate j.who j.signalVa .write = .ok pa →
        ((recordBad x.record = true ∨ x.addr.toNat % 256 ≠ 0) → s.startNext x priv u = s1.storeWord j j.signalVa 0xC000000000010000)
        ∧ (∀ v cause, s1.check x j priv = (v, .inl cause) →
            s.startNext x priv u = v.storeWord j j.signalVa (BitVec.ofNat 64 (3 * 2 ^ 62 + 65536 * cause)))
        ∧ ∀ v k, s1.check x j priv = (v, .inr k) → s.startNext x priv u = { v with jobs := v.jobs ++ [k] }
            ∧ k.ref = { part := x.part, id := id } ∧ k.state = .running ∧ k.record = x.record)
  ∧ (∀ (s : State) (w : WgRef) (core : BitVec 8) (j : Job), s.job? w.job = some j →
    s.mayDispatch j w.wg (core.toNat / 64) (core.toNat % 64) = true →
    (s.wg? w = none → ∃ t g, exec (.dispatch w core) s = .next t ∧ t.wg? w = some g ∧ g.die = core.toNat / 64
        ∧ g.core = core.toNat % 64 ∧ g.state = .running ∧ g.scratch = [] ∧ g.panels = []
        ∧ ∀ i role, j.waveRoles[i]? = some role → ∃ v f, t.wave? { wg := w, wave := i } = some v
          ∧ t.frag? { wave := { wg := w, wave := i }, frag := 0 } = some f ∧ v.role = role ∧ v.vregs = [] ∧ v.masks = []
          ∧ v.pev = 0 ∧ v.evmask = 0 ∧ f.spc = j.scalarBase + (roleSpc (j.role role)).setWidth 64
          ∧ f.lpc = j.laneBase + (roleLpc (j.role role)).setWidth 64 ∧ f.exec = widthMask j.width ∧ f.s 1 = j.args
          ∧ (∀ r : BitVec 6, r ≠ 1 → f.s r = 0) ∧ f.fmode = j.fmode0 ∧ f.fflags = 0 ∧ f.join = [] ∧ f.slot = .ready)
    ∧ ∀ x, s.wg? w = some x → x.state = .saved → x.held = none → ∃ t g, exec (.dispatch w core) s = .next t
        ∧ t.wg? w = some g ∧ g.die = core.toNat / 64 ∧ g.core = core.toNat % 64)
  ∧ (∀ (s : State) (w : WgRef) (j : Job) (g : Wg), s.wg? w = some g → s.job? w.job = some j →
    (s.wgFinished w = false → exec (.workgroupRetirement w) s = .next s)
    ∧ (s.wgFinished w = true → g.die < 4 → g.orphans = [] →
      (j.kernel = false → ∃ t y, exec (.workgroupRetirement w) s = .next t ∧ t.wg? w = none ∧ (∀ v ∈ t.waves, v.ref.wg ≠ w)
        ∧ (∀ f ∈ t.frags, f.ref.wave.wg ≠ w) ∧ t.job? w.job = some y ∧ y.retired = j.retired + 1)
      ∧ (j.kernel = true → ∃ t h, exec (.workgroupRetirement w) s = .next t ∧ t.wg? w = some h ∧ h.state = .running
        ∧ h.die = g.die ∧ h.core = g.core ∧ h.scratch = [])))
  ∧ ∀ (s : State) (j : JobRef) (x : Job) (d : BitVec 2), s.job? j = some x →
    (d.toNat ∉ x.reported →
      (x.state = .running → (∀ g ∈ s.wgs, g.ref.job = j → g.die ≠ d.toNat ∧ g.die ≠ 4) → (∀ r ∈ x.ranges, r.2.2 ≤ r.2.1) →
        ∃ t y, exec (.dieReport j d) s = .next t ∧ t.job? j = some y ∧ d.toNat ∈ y.reported
          ∧ ((∀ e ∈ s.dies, e.lost = false → e.id = d.toNat ∨ e.id ∈ x.reported) → y.state = .signalling)
          ∧ ((∃ e ∈ s.dies, e.lost = false ∧ e.id ≠ d.toNat ∧ e.id ∉ x.reported) → y.state = .running))
      ∧ (x.state = .aborting → ∃ t, exec (.dieReport j d) s = .next t
          ∧ ∀ g ∈ t.wgs, g.ref.job = j → g.die ≠ d.toNat ∧ g.die ≠ 4))
    ∧ (x.state ≠ .signalling → exec (.completionSignal j) s = .next s)
    ∧ ∀ p, x.state = .signalling → s.translate x.who x.signalVa .write = .ok p → regionOf p.pa = .device →
      ∃ t, exec (.completionSignal j) s = .next t
        ∧ Sparse.bytesNat t.mem p.pa 8 = 2 ^ 63 + 256 * (if x.gone then 1 else 0) + x.status.toNat
        ∧ t.job? j = none ∧ (∀ q ∈ t.pools, q.job = j → q.live = false)
        ∧ t.reports = s.reports ++ (if x.notify then [.msix j.part x.notifyVec] else [])

/-- A request is held while the workgroup is frozen or resuming, of two the stronger; running, it drains a
controller's nearly finished workgroup, flushes an idempotent one that has hardly begun, unless a checkpoint asks
(R256 permits it no flush), and saves any other. A save begins with the matrix work under way done (R144). A fragment
at its point in a region vectors into its exit routine. The drain limit starts the save, the exit deadline the
fallback, and copies no chunk of which is under way are squashed at DRAINLIM (started chunks land first). A save
completes once every exit is done and copies have settled; without a dump a fallback flushes an idempotent workgroup,
a checkpoint's apart (R256), or denies. The park rule requests one eviction or stops once all are denied. A graph's
jobs halt one by one, and the stop is answered. A starving slot is boosted; returning data makes a slot READY. (The
model's choices: frames taken at once, log 55; held requests, log 56; a stop or checkpoint that takes over a drain or
a save, log 94; frames that a checkpoint holds, log 17.) (R33, R36, R37, R240, R241, R245, R246, R247, R248, R253,
R256, R375) -/
def Obligations.PreemptionRules : Prop :=
  (∀ (s : State) (w : WgRef) (k : PreemptKind) (g : Wg) (j : Job) (p : Part), s.wg? w = some g → s.job? w.job = some j →
    s.part? w.job.part = some p →
    let drain := k = .controller ∧ j.workest ≠ 0 ∧ p.drainthr * j.workest ≤ 256 * g.done
    let fresh := j.idemp = true ∧ j.workest ≠ 0 ∧ 256 * g.done ≤ p.restartthr * j.workest ∧ k ≠ .checkpoint
    ((g.frozen = true ∨ g.state = .resuming) → ∃ t, exec (.preemptionRequest w k) s = .next t
        ∧ t.wg? w = some { g with held := some (match g.held with | some h => stronger h k | none => k) })
    ∧ (g.frozen = false → g.state = .running →
      (drain → ∃ t, exec (.preemptionRequest w k) s = .next t
          ∧ t.wg? w = some { g with state := .draining s.cycle, kind := k, held := none })
      ∧ (¬ drain → fresh → ∃ t h y, exec (.preemptionRequest w k) s = .next t ∧ t.wg? w = some h ∧ h.state = .waiting s.cycle
          ∧ h.die = 4 ∧ (∀ f ∈ t.frags, f.ref.wave.wg ≠ w) ∧ t.job? w.job = some y ∧ w.wg ∈ y.line)
      ∧ (¬ drain → ¬ fresh → exec (.preemptionRequest w k) s = .next (s.startSave g j k s.cycle)))
    ∧ (g.frozen = false → (k = .stop ∨ k = .checkpoint) →
      (∀ n, g.state = .draining n → exec (.preemptionRequest w k) s = .next (s.startSave g j k n))
      ∧ ∀ n, (g.state = .saving n ∨ g.state = .fallback n) → ∃ t, exec (.preemptionRequest w k) s = .next t
          ∧ t.wg? w = some { g with kind := stronger g.kind k })
    ∧ (let u := s.enterIf w (fun _ => true)
       let need := (u.wgFrags w).length + (if u.cmds.any (fun c => c.wg == w) then 1 else 0) + j.scratchFrames
       (g.engine = [] → u = s) ∧ ∀ h, u.wg? w = some h →
       (u.freeFrames j.ref.part need = none → ∀ n, (s.startSave g j k n).wg? w =
          some { h with state := .fallback n, kind := k, held := none })
       ∧ ∀ ns, u.freeFrames j.ref.part need = some ns → (∀ f ∈ u.wgFrags w, f.atPoint = false) → ∀ n,
          (s.startSave g j k n).wg? w = some { h with state := .saving n, kind := k, held := none, frames := ns })
    ∧ (∀ n, g.state = .draining n → g.frozen = false →
        (n + p.drainlim ≤ s.cycle → exec (.drainLimitExpiry w) s = .next (s.startSave g j g.kind n))
        ∧ (s.cycle < n + p.drainlim → exec (.drainLimitExpiry w) s = .next s))
    ∧ (∀ n i c, g.state = .saving n → n + p.drainlim ≤ s.cycle → s.cmd? i = some c → c.wg = w → c.fired = true →
        c.bitDue = none → c.squashed = false → c.error = none → (∀ d ∈ s.cmds, d.wg = w → d.seen = [] ∧ d.wrote = []) →
        ∃ t x, exec (.copySquash w) s = .next t ∧ t.cmd? i = some x ∧ x.squashed = true)
    ∧ (∀ n, g.state = .saving n → s.cycle < n + p.drainlim → exec (.copySquash w) s = .next s)
    ∧ (∀ n, g.state = .saving n → (∀ f ∈ s.wgFrags w, f.exitComplete = true) → s.copiesSettled w = true →
        ∃ t h y, exec (.saveCompletion w) s = .next t ∧ t.wg? w = some h ∧ h.state = .saved ∧ h.die = 4
          ∧ t.job? w.job = some y ∧ w.wg ∈ y.line)
    ∧ ∀ n, g.state = .fallback n → j.dumpBase = 0 → g.dumpSlot = none →
        (j.idemp = true → g.kind ≠ .checkpoint → ∃ t h, exec (.saveCompletion w) s = .next t ∧ t.wg? w = some h
          ∧ h.state = .waiting n ∧ h.die = 4)
        ∧ ((j.idemp = false ∨ g.kind = .checkpoint) → ∃ t h, exec (.saveCompletion w) s = .next t ∧ t.wg? w = some h ∧ h.state = .running))
  ∧ (∀ (s : State) (r : FragRef) (c : Cur) (p : Part), s.look r = some c → s.part? r.wave.wg.job.part = some p →
    (∀ i reg n, s.regionOfSpc c.j c.f.stop.spc = some (i, reg) → c.f.frame = some n → regionVerify reg = false →
      ∃ f, (s.vector r).frag? r = some f ∧ f.spc = c.j.scalarBase + (regionExit reg).setWidth 64 ∧ f.queue = [] ∧ f.rptc = 0
        ∧ f.exec = c.f.stop.exec ||| savedLanes c.f.stop.join ∧ f.exiting = true ∧ f.sregs = c.f.sregs)
    ∧ (∀ n v, c.f.routine = .exit n v false →
      (n + p.exitdl < s.cycle → ∃ t g m, exec (.exitDeadlineExpiry r) s = .next t ∧ t.wg? c.g.ref = some g
        ∧ g.state = .fallback m)
      ∧ (s.cycle ≤ n + p.exitdl → exec (.exitDeadlineExpiry r) s = .next s))
    ∧ ((c.f.slot = .ready ∨ c.f.slot = .active) → c.g.die < 4 →
        (c.f.issuedAt + 64 ≤ s.cycle → ∃ t, exec (.starvationBoost r) s = .next t ∧ t.frag? r = some { c.f with boost := true })
        ∧ (s.cycle < c.f.issuedAt + 64 → ∃ t, exec (.starvationBoost r) s = .next t ∧ t.frag? r = some c.f))
    ∧ (c.f.slot = .waiting .miss → ∃ t, exec (.dataReturn r) s = .next t ∧ t.frag? r = some { c.f with slot := .ready }))
  ∧ (∀ (s : State) (j : JobRef) (x : Job) (p : Part) (n d : Nat), s.job? j = some x → s.part? j.part = some p →
    s.nextInLine x = some n → x.state = .running → x.noEvict = false →
    (∀ g ∈ s.wgs, g.ref.job = j → g.frozen = false
      ∧ (g.kind = .eviction → ∀ m, g.state ≠ .saving m ∧ g.state ≠ .fallback m)) →
    (s.parkedOut x p.parklimit.toNat = false → exec (.parkLimitExpiry j) s = .next s)
    ∧ (s.parkedOut x p.parklimit.toNat = true → s.evictDie x n = some d →
      ((s.pickCore x (s.slotsNeeded x n) d).isSome = true → exec (.parkLimitExpiry j) s = .next s)
      ∧ (s.pickCore x (s.slotsNeeded x n) d = none →
        (∀ g gs, s.evictable x d = g :: gs → exec (.parkLimitExpiry j) s =
            exec (.preemptionRequest { job := j, wg := g } .eviction) s)
        ∧ (s.evictable x d = [] →
          ((∃ g ∈ s.wgs, g.ref.job = j ∧ g.die = d ∧ g.ref.wg ∉ x.denied) → exec (.parkLimitExpiry j) s = .next s)
          ∧ ((∀ g ∈ s.wgs, g.ref.job = j → g.die = d → g.ref.wg ∈ x.denied) →
            ∃ t y, exec (.parkLimitExpiry j) s = .next t ∧ t.job? j = some y ∧ y.noEvict = true
              ∧ t.reports = s.reports ++ [.preemptDenied j])))))
  ∧ ∀ (s : State) (p : BitVec 4) (x : Stop),
    ((∀ y ∈ s.stops, y.part ≠ p.toNat) → exec (.graphStopJob p) s = .next s)
    ∧ (s.stops.find? (fun y => y.part == p.toNat) = some x → x.denied = [] →
      (∀ i j, x.ready = some i → s.job? { part := p.toNat, id := i } = some j →
        (∀ g ∈ s.wgs, g.ref.job = j.ref → ¬ g.die < 4) →
        (j.state = .running → ∃ t y, exec (.graphStopJob p) s = .next t ∧ t.job? j.ref = some y ∧ y.state = .halting)
        ∧ (j.state = .halting → ∃ t y, exec (.graphStopJob p) s = .next t ∧ t.job? j.ref = some y ∧ y.state = .halted
            ∧ ∃ z ∈ t.stops, z.part = x.part ∧ i ∈ z.halted))
      ∧ ∀ q a b c, x.ready = none → x.area = none → x.caller = some c → c.callId = none → c.src = .ecall q a b →
        ∃ t, exec (.graphStopJob p) s = .next t ∧ x ∉ t.stops ∧ t.results = s.results ++ [(.ecall q a b, 0, 0)])

/-- The head command of a channel fires when its rings allow, counted in its workgroup, or its pointer pair's page
fault is posted; a chunk in flight lands: the bytes of the aligned 8-byte units it enters, as read by then, are stored
where they are not yet written, its bitmap bit set and its bytes subtracted from its barrier; once all has landed the
ring pointers advance and the completion word is stored last, 1 or the error's code. A group's k-th collective
combines the ranks' contributions. A due timer fires and its next period begins; a summary reaches the other shards,
an agreeing census, one a period, fires the due tokens; a TLBI completes once the accesses that used a translation of
its scope are performed and no chunk that used one is left, with none cached; at DRAINLIM such chunks are squashed. A
peer's change of a group is recorded, its end fails the fired commands that wait. (The model's choices: contributions
and reads ahead come with steps, logs 28 and 50; a TLBI of a JOBID covers every partition, log 22; what a census
counts, and summaries as events of their own, which R216 leaves to the device, log 38; a release ahead of the
completion word, log 112.) (R165, R182, R183, R184, R185, R191, R214, R217, R269) -/
def Obligations.EngineAndPoolEvents : Prop :=
  (∀ (s : State) (core : BitVec 8) (chan : BitVec 3), (s.chanQueue core.toNat chan.toNat = [] → exec (.copyFire core chan) s = .next s)
    ∧ ∀ c cs j g, s.chanQueue core.toNat chan.toNat = c :: cs → s.job? c.wg.job = some j → s.wg? c.wg = some g →
      (∀ e va, c.fault = none → s.pairFault c j g = some (e, va) →
          exec (.copyFire core chan) s = .next (s.cmdPage c j e va .read))
      ∧ ((c.fault ≠ none ∨ s.pairFault c j g = none) → s.mayFire c j g = false → exec (.copyFire core chan) s = .next s)
      ∧ (s.mayFire c j g = true → ∃ t x h, exec (.copyFire core chan) s = .next t ∧ t.cmd? c.id = some x ∧ x.fired = true
        ∧ t.wg? c.wg = some h ∧ h.fired.get c.chan = g.fired.get c.chan + 1
        ∧ (∀ v, tmplSrcRing c.tmpl ≠ 0 → s.pairAt (c.who j) g (tmplSrcPtr c.tmpl) = .ok v → x.srcPtr = v.extractLsb' 32 32)
        ∧ ∀ v, tmplDstRing c.tmpl ≠ 0 → s.pairAt (c.who j) g (tmplDstPtr c.tmpl) = .ok v → x.dstPtr = v.extractLsb' 0 32))
  ∧ (∀ (s : State) (i k : Nat) (c : Cmd) (j : Job) (g : Wg), s.cmd? i = some c → s.job? c.wg.job = some j →
    s.wg? c.wg = some g →
    (c.mayLand k = false → c.bitDue = none → exec (.chunkLand i k) s = .next s)
    ∧ (c.bitDue = some k → c.fault = none → c.error = none → exec (.chunkLand i k) s = .next (s.chunkBit c j g k))
    ∧ (c.mayLand k = true → ¬ (c.bitDue = some k ∧ c.fault = none ∧ c.error = none) → ∀ bs dst,
        let m := chunkSize c.tmpl k
        let lo := unitBefore c.dstAt (512 * k)
        let o := 512 * k - lo
        let n := lo + (m - 1) + unitFrom c.dstAt (512 * k + m - 1) (tmplBytes c.tmpl)
        s.srcBytes c (c.who j (some k)) g o n = .ok bs → s.engineLocs (c.who j (some k)) g c.dstAt .write o n = .ok dst →
        ∃ d : Cmd, d = { c with landed := c.landed ++ [k], wrote := d.wrote, seen := d.seen, walked := [], afresh := d.afresh }
          ∧ d.afresh = (c.afresh && c.stuck != some k)
          ∧ (∀ x ∈ c.seen, x ∈ d.seen) ∧ (∀ y ∈ d.wrote, y / 512 ≠ k ∧ (y ∈ c.wrote ∨ (o ≤ y ∧ y < o + n)))
          ∧ exec (.chunkLand i k) s = .next (((s.storeLocs c.writer (c.unwritten o (dst.zip bs))).setCmd d).chunkBit d j g k))
    ∧ (c.result = none → c.seen = [] → ∀ o n src, s.engineLocs (c.who j) g c.srcAt .read o n = .ok src →
        s.srcBytes c (c.who j) g o n = .ok (src.map (fun l => s.locByte (c.who j) g l 0)))
    ∧ (∀ r o n, c.result = some r → s.srcBytes c (c.who j) g o n = .ok ((List.range n).map (fun x => Sparse.get r (o + x))))
    ∧ (c.wrote = [] → c.landed = [] → ∀ o xs, c.unwritten o xs = xs)
    ∧ (tmplBitmap c.tmpl = 0 → s.chunkBit c j g k =
        (let t := s.setCmd { c.accessed with bitDue := none }
         if tmplBaren c.tmpl then t.subtractBytes j.ref (tmplBarrier c.tmpl) (chunkSize c.tmpl k) else t))
    ∧ (tmplBitmap c.tmpl ≠ 0 → tmplBaren c.tmpl = false → ∀ p,
        s.translate (c.who j) (tmplBitmap c.tmpl + BitVec.ofNat 64 (8 * (k / 64))) .write = .ok p → PlainBytes s p 8 →
        Sparse.bytesNat (s.chunkBit c j g k).mem p.pa 8 = Sparse.bytesNat s.mem p.pa 8 ||| 2 ^ (k % 64))
    ∧ (c.fault = none → c.squashed = false → ∀ p, (tmplCword c.tmpl ≠ 0 →
        (if tmplReleases c.tmpl then s.landCmd c.id else s).translate (c.who j) (tmplCword c.tmpl) .write = .ok p ∧ regionOf p.pa = .device) →
      let ends (v : Nat) : Prop := ∃ t, exec (.copyCompletion i) s = .next t ∧ t.cmd? i = none
        ∧ (tmplCword c.tmpl ≠ 0 → Sparse.bytesNat t.mem p.pa 8 = v)
      (c.error = none → c.allLanded = false → exec (.copyCompletion i) s = .next s)
      ∧ (∀ code sub, c.error = some (code, sub) → ends (2 ^ 63 + 256 * sub.toNat + code.toNat))
      ∧ (c.error = none → c.allLanded = true →
        ((tmplSrcRing c.tmpl = 0 ∨ c.tailDone = true) → (tmplDstRing c.tmpl = 0 ∨ c.headDone = true) → ends 1)
        ∧ (tmplSrcRing c.tmpl ≠ 0 → c.tailDone = false → g.stashAddr (tmplSrcPtr c.tmpl + 4) = none →
            ∃ t h, exec (.copyCompletion i) s = .next t ∧ t.wg? c.wg = some h ∧ t.cmd? i = some { c.accessed with tailDone := true }
              ∧ Sparse.bytesNat h.scratch (tmplSrcPtr c.tmpl + 4) 4 =
                (Sparse.bytesNat g.scratch (tmplSrcPtr c.tmpl + 4) 4 + tmplBytes c.tmpl) % 2 ^ 32)
        ∧ ((tmplSrcRing c.tmpl = 0 ∨ c.tailDone = true) → tmplDstRing c.tmpl ≠ 0 → c.headDone = false →
            g.stashAddr (tmplDstPtr c.tmpl) = none →
            ∃ t h, exec (.copyCompletion i) s = .next t ∧ t.wg? c.wg = some h ∧ t.cmd? i = some { c.accessed with headDone := true }
              ∧ Sparse.bytesNat h.scratch (tmplDstPtr c.tmpl) 4 =
                (Sparse.bytesNat g.scratch (tmplDstPtr c.tmpl) 4 + tmplBytes c.tmpl) % 2 ^ 32)))
    ∧ ∀ x own contribs ranks, c.fired = true → c.waitsOn j.ref.part (tmplGroup c.tmpl) = true → c.fault = none → c.squashed = false →
        (∀ k, k ≠ c.nth → exec (.collectiveResult i { kth := k, ranks := contribs }) s = .next s) ∧
        (s.group? j.ref.part (tmplGroup c.tmpl) = some x → s.groupBroken x = false → x.complete = true →
        s.srcBytes c (c.who j) g 0 (tmplBytes c.tmpl) = .ok own →
        (List.range x.n).mapM (fun r => if r = x.rank then some own
          else (contribs.find? (fun y => y.1 == r)).map (fun y => y.2)) = some ranks →
        (∀ bs ∈ ranks, bs.length = tmplBytes c.tmpl) → ∃ t y, exec (.collectiveResult i { kth := c.nth, ranks := contribs }) s = .next t
          ∧ t.cmd? i = some y ∧ y.result = some (Sparse.setList [] 0
              (collBytes (tmplCtype c.tmpl) (tmplCop c.tmpl) (tmplBytes c.tmpl) ranks))))
  ∧ (∀ a b : Nat, a < 2 ^ 32 → b < 2 ^ 32 → collElement 0x08 0 [a, b] = (a + b) % 2 ^ 32
    ∧ collElement 0x08 1 [a, b] = min a b ∧ collElement 0x08 2 [a, b] = max a b)
  ∧ (∀ (s : State) (r : WaveRef) (n : BitVec 4) (w : Wave) (e : EvSlot), s.wave? r = some w → w.evslots[n.toNat]? = some e →
    e.armed = true → e.kind = 6 →
    (s.cycle < e.start + max 64 (e.arg.extractLsb' 0 32).toNat → exec (.timerTokenFire r n) s = .next s)
    ∧ (e.start + max 64 (e.arg.extractLsb' 0 32).toNat ≤ s.cycle → (∀ f ∈ s.frags, f.awaits = none) → ∃ t v d,
        exec (.timerTokenFire r n) s = .next t ∧ t.wave? r = some v ∧ v.pev = w.pev ||| (1#16 <<< n.toNat)
        ∧ v.evslots[n.toNat]? = some d ∧ d.armed = true ∧ d.start = e.start + max 64 (e.arg.extractLsb' 0 32).toNat))
  ∧ (∀ (s : State) (n : BitVec 6) (d : BitVec 2) (p : Pool), s.pool? n.toNat = some p →
    (∀ h, p.shards.find? (fun x => x.die == d.toNat) = some h → ∃ t q, exec (.poolSummary n d) s = .next t
      ∧ t.pool? n.toNat = some q ∧ (∀ x ∈ q.shards, x.die ≠ d.toNat →
          (d.toNat, h.elems.length, (h.report p.pdepth).2) ∈ x.summaries) ∧ (h.report p.pdepth).2.length ≤ p.pdepth)
    ∧ ((p.total ≠ 0 ∨ ∃ c, p.lastCensus = some c ∧ s.cycle < c + p.psumm) → exec (.poolCensus n) s = .next s)
    ∧ (p.total = 0 → p.live = true → (∀ c, p.lastCensus = some c → c + p.psumm ≤ s.cycle) → (∀ f ∈ s.frags, f.awaits = none) → ∀ r w i e, s.wave? r = some w → w.evslots[i]? = some e →
        i < 16 → e.agreeDue p = true → ∃ t q v, exec (.poolCensus n) s = .next t ∧ t.pool? n.toNat = some q
          ∧ q.censuses = p.censuses + 1 ∧ t.wave? r = some v ∧ v.pev.getLsbD i = true))
  ∧ (∀ (s : State) (n : Nat) (x : TlbiWait), s.tlbis.find? (fun y => y.id == n) = some x →
    let u := s.settleAccesses x.coversJob x.touches
    let ends (i : Instr) : Prop := ∃ t, exec i s = .next t ∧ (∀ y ∈ t.tlbis, y.id ≠ n)
      ∧ (∀ e ∈ t.tlb, e ∈ u.tlb ∧ (x.kind = 0 → e.job.id ≠ (x.operand.extractLsb' 0 16).toNat
            ∨ e.page ≠ (x.operand.extractLsb' 16 41).toNat)
          ∧ (x.kind = 1 → e.job.id ≠ (x.operand.extractLsb' 0 16).toNat)
          ∧ (x.kind = 2 → e.job.part ≠ (x.operand.extractLsb' 0 4).toNat))
      ∧ ∀ f, u.frag? x.caller = some f → f.slot = .waiting (.tlbi n) → ∃ h, t.frag? x.caller = some h
          ∧ h = { f with slot := .ready, spc := f.spc + 4, snaps := h.snaps, walked := h.walked }
    (u.startedLeft x.coversJob x.touches = false → ends (.tlbiCompletion n))
    ∧ (u.startedLeft x.coversJob x.touches = true → exec (.tlbiCompletion n) s = .next s)
    ∧ ((∀ k ∈ s.tlbiParts x, ∀ p, s.part? k = some p → x.since + p.drainlim ≤ s.cycle) → ends (.tlbiDrainExpiry n))
    ∧ ∀ k p, k ∈ s.tlbiParts x → s.part? k = some p → s.cycle < x.since + p.drainlim → exec (.tlbiDrainExpiry n) s = .next s)
  ∧ ∀ (s : State) (p : BitVec 4) (k : BitVec 8) (r : BitVec 10) (g : Group), s.group? p.toNat k.toNat = some g →
    r.toNat < g.n → r.toNat ≠ g.rank →
    (∃ t h, exec (.peerGroupChange p k r true) s = .next t ∧ t.group? p.toNat k.toNat = some h ∧ r.toNat ∈ h.created)
    ∧ ∃ t h, exec (.peerGroupChange p k r false) s = .next t ∧ t.group? p.toNat k.toNat = some h ∧ r.toNat ∈ h.gone
      ∧ ∀ i c, s.cmd? i = some c → c.waitsOn p.toNat k.toNat = true → c.fired = true →
          ∃ d, t.cmd? i = some d ∧ d.error = some (0x02, 0x0A)

/-- A frame goes by the first entry that matches: to the stack, into its ring or counted as dropped, or to its armed
binding, which disarms, counts and queues its launch. Remote writes reach device memory, a peer's through its
partition's stage 2, and control-core accesses device memory, and host memory by their next FENCE of I or O (log 74);
LR and SC hold R202's reservation. A failed module lowers the link, the last one loses its die, aborts its jobs (which
signal at once where no die is left) and lets a job that awaited its report alone, with no workgroup left in line,
signal. A scrub clears unit by unit. A reset boots the slot R275 chooses and clears all but memory and firmware; power
loss leaves the booted slot and its marker whole, and a module without power ignores events. A flip writes the
inactive slot and, verified, the other marker; only a signed command raises the floor. (The model's choices: what a
module reset and a power loss keep and clear, log 41; the FENCE by which a host store arrives, logs 30 and 74; a frame
without UDP payload, peers' FMODE, log 42; an armed record's copies, log 89; the harts, log 74; flips, log 73.) (R13,
R177, R202, R229, R266, R267, R268, R269, R273, R275, R276, R278) -/
def Obligations.NetworkAndModuleEvents : Prop :=
  (∀ (s : State) (f : List Byte),
    (s.steer f = none → exec (.frameArrival f) s = .next { s with reports := s.reports ++ [.stackFrame f] })
    ∧ ∀ i e, s.steer f = some (i, e) →
      (stAction e = 0 → exec (.frameArrival f) s = .next { s with reports := s.reports ++ [.stackFrame f] })
      ∧ (stAction e = 1 → exec (.frameArrival f) s = .next (s.ringWrite (stTarget e % 256) i f))
      ∧ (stAction e = 2 → ∀ port p, udpOf f = some (port, p) →
        let b := stTarget e % 256
        let x := s.bindings.get b
        ((x.getLsbD 0 = false ∨ bindBufSize x < 16 + p.length) →
          (stFallback e = 0 → exec (.frameArrival f) s = .next { s with reports := s.reports ++ [.stackFrame f] })
          ∧ (stFallback e = 1 → exec (.frameArrival f) s = .next s)
          ∧ (stFallback e = 2 → exec (.frameArrival f) s = .next (s.ringWrite (stTarget e / 256 % 256) i f)))
        ∧ (x.getLsbD 0 = true → 16 + p.length ≤ bindBufSize x →
          (s.ipaPlaces (bindPart x) .write ((List.range (16 + p.length)).map (fun k => bindBufIpa x + k))).isSome = true →
          ((∀ y ∈ s.armedRecs, y.1 = b → y.2.spent = false) → s.renew b = s) ∧
          ∃ t q, exec (.frameArrival f) s = .next t ∧ (t.bindings.get b).getLsbD 0 = false
            ∧ (t.bindings.get b).extractLsb' 192 64 = x.extractLsb' 192 64 + 1 ∧ t.privQueue = s.privQueue ++ [q]
            ∧ q.armed = true ∧ q.record = ((s.renew b).boundRecord b).record)))
  ∧ (∀ (s : State) (r n : Nat) (f : List Byte), ringEnabled (s.rings.get r) = false →
      ∃ t, s.ringWrite r n f = t ∧ t = { s with rings := t.rings }
        ∧ (t.rings.get r).extractLsb' 128 64 = (s.rings.get r).extractLsb' 128 64 + 1
        ∧ (t.rings.get r).extractLsb' 0 128 = (s.rings.get r).extractLsb' 0 128)
  ∧ (∀ (s : State) (pa : BitVec 44) (bs : List Byte), (∀ i, i < bs.length → regionOf (pa.toNat + i) = .device) →
      ∃ t, exec (.remoteWriteArrival (.host pa) bs) s = .next t ∧ (∀ i b, bs[i]? = some b → t.mem.get (pa.toNat + i) = b)
        ∧ ∀ a, (a < pa.toNat ∨ pa.toNat + bs.length ≤ a) → s.lineKey.get (a / 128) = 0 → t.mem.get a = s.mem.get a)
  ∧ (∀ (s : State) (part : BitVec 4) (ipa : Word64) (b : Byte) (pa : Nat) (leaf : BitVec 64),
      s.stage2 part.toNat ipa.toNat = .ok (pa, leaf) → regionOf pa = .device → leaf.getLsbD 2 = true →
      s.emptyKey (leafKey leaf) = false → (∀ x ∈ s.parts, x.id = part.toNat → x.resetting = false) →
      exec (.remoteWriteArrival (.peer part ipa) [b]) s = .next (s.storeDevice { pa := pa, key := leafKey leaf } 1 b.toNat))
  ∧ (∀ (s : State) (h rd : BitVec 5) (pa : BitVec 44) (k : BitVec 2) (v : Word64) (uns : Bool),
    let n := 2 ^ k.toNat
    let past (t : State) (d : Word64) : Prop := t.hartPcs.get h.toNat = s.hartPcs.get h.toNat + d
    let got (t : State) (x : Word64) : Prop := rd ≠ 0 → t.hartRegs.get (32 * h.toNat + rd.toNat) = x
    let signed (m : Nat) : Word64 := (BitVec.ofNat (8 * n) m).signExtend 64
    (∃ t, exec (.controlCoreAccess h pa (.fence false)) s = .next t ∧ t = { s with hartPcs := t.hartPcs } ∧ past t 4)
    ∧ (∃ t, exec (.controlCoreAccess h pa (.fence true)) s = .next t ∧ past t 4
        ∧ (∀ x ∈ t.remote, x.wg ≠ hartRef h.toNat) ∧ ∀ x ∈ t.hartPeeks, x.1 ≠ h.toNat)
    ∧ (∀ pc : Word64, ∃ t, exec (.controlCoreAccess h pa (.own [(.x rd, v)] pc)) s = .next t ∧ got t v
        ∧ t.hartPcs.get h.toNat = pc ∧ t = { s with hartPcs := t.hartPcs, hartRegs := t.hartRegs })
    ∧ (pa.toNat % n = 0 → (∀ i, i < n → regionOf (pa.toNat + i) = .host) →
      let old := Sparse.bytesNat s.hostMem pa.toNat n
      (s.hartPeeks = [] → ∃ t, exec (.controlCoreAccess h pa (.load rd k uns)) s = .next t
          ∧ got t (if uns then BitVec.ofNat 64 old else signed old) ∧ t.hostMem = s.hostMem)
      ∧ (s.remote = [] → ∃ t u, exec (.controlCoreAccess h pa (.store k v)) s = .next t
          ∧ exec (.controlCoreAccess h pa (.fence true)) t = .next u
          ∧ Sparse.bytesNat u.hostMem pa.toNat n = v.toNat % 256 ^ n
          ∧ ∀ a, a < pa.toNat ∨ pa.toNat + n ≤ a → Sparse.get u.hostMem a = Sparse.get s.hostMem a))
    ∧ (PlainBytes s { pa := pa.toNat, key := none } n → pa.toNat % n = 0 →
      let old := Sparse.bytesNat s.mem pa.toNat n
      let holds (t : State) (m : Nat) : Prop := Sparse.bytesNat t.mem pa.toNat n = m % 256 ^ n
      (∃ t, exec (.controlCoreAccess h pa (.load rd k uns)) s = .next t ∧ got t (if uns then BitVec.ofNat 64 old else signed old)
          ∧ t.mem = s.mem ∧ (past t 2 ∨ past t 4))
      ∧ (∃ t, exec (.controlCoreAccess h pa (.store k v)) s = .next t ∧ holds t v.toNat ∧ (past t 2 ∨ past t 4))
      ∧ (∃ t, exec (.controlCoreAccess h pa (.loadF rd k)) s = .next t ∧ t.mem = s.mem
          ∧ t.hartFregs.get (32 * h.toNat + rd.toNat) = BitVec.ofNat 64 (2 ^ 64 - 2 ^ (8 * n) + old))
      ∧ (∃ t, exec (.controlCoreAccess h pa (.storeF rd k)) s = .next t
          ∧ holds t (s.hartFregs.get (32 * h.toNat + rd.toNat)).toNat)
      ∧ (2 ≤ k.toNat →
        (∃ t, exec (.controlCoreAccess h pa (.amo rd 0 k v)) s = .next t ∧ got t (signed old) ∧ holds t v.toNat ∧ past t 4)
        ∧ (∃ t, exec (.controlCoreAccess h pa (.amo rd 1 k v)) s = .next t ∧ got t (signed old) ∧ holds t (old + v.toNat)
            ∧ past t 4)
        ∧ (∃ t, exec (.controlCoreAccess h pa (.lr rd k)) s = .next t ∧ got t (signed old) ∧ t.mem = s.mem ∧ past t 4
            ∧ ∀ l, (h.toNat, l) ∈ t.reservations ↔ l = pa.toNat / 128)
        ∧ ((h.toNat, pa.toNat / 128) ∈ s.reservations → ∃ t, exec (.controlCoreAccess h pa (.sc rd k v)) s = .next t
            ∧ got t 0 ∧ holds t v.toNat ∧ past t 4 ∧ ∀ l, (h.toNat, l) ∉ t.reservations)
        ∧ ((h.toNat, pa.toNat / 128) ∉ s.reservations → ∃ t, exec (.controlCoreAccess h pa (.sc rd k v)) s = .next t
            ∧ got t 1 ∧ t.mem = s.mem ∧ past t 4 ∧ ∀ l, (h.toNat, l) ∉ t.reservations)))
    ∧ (PlainBytes s { pa := pa.toNat, key := none } 4 → pa.toNat % 4 = 0 →
      (∃ t, exec (.peerAtomicArrival (.host pa) 0x08 0 v 0) s = .next t ∧ Sparse.bytesNat t.mem pa.toNat 4 =
          (Sparse.bytesNat s.mem pa.toNat 4 + v.toNat) % 2 ^ 32 ∧ ∀ x ∈ t.reservations, x.2 ≠ pa.toNat / 128)))
  ∧ (∀ (s : State) (d : BitVec 2) (m : BitVec 4) (x : Die), s.die? d.toNat = some x →
    DieTo (.flitCrcFailure d) s d { x with retries := x.retries + 1 }
    ∧ (x.lost = true → exec (.dieLoss d) s = .next s)
    ∧ (x.lost = false → ∃ t y, exec (.dieLoss d) s = .next t ∧ t.die? d.toNat = some y ∧ y.lost = true
        ∧ t.reports = s.reports ++ [.dieLost d.toNat]
        ∧ ∀ r j, s.job? r = some j → s.holds r d.toNat = true → ∃ k, t.job? r = some k ∧ k.status = 5
          ∧ ((∃ e ∈ s.dies, e.lost = false ∧ e.id ≠ d.toNat) → k.state = .aborting)
          ∧ ((∀ e ∈ s.dies, e.lost = false → e.id = d.toNat) → k.state = .signalling)
          ∧ ∀ g ∈ t.wgs, g.ref.job = r → g.die ≠ d.toNat)
    ∧ (x.lost = false → ∀ r j, s.job? r = some j → s.holds r d.toNat = false → ((j.state = .running ∧ s.hasWaiting j = false) ∨ j.state = .aborting) →
        j.reported ≠ [] → (∀ e ∈ s.dies, e.lost = false → e.id = d.toNat ∨ e.id ∈ j.reported) →
        ∃ t k, exec (.dieLoss d) s = .next t ∧ t.job? r = some k ∧ k.state = .signalling)
    ∧ (x.failed.getLsbD m.toNat = true → exec (.ucieModuleFailure d m) s = .next s)
    ∧ (x.failed.getLsbD m.toNat = false → x.lost = false → ∃ t y, exec (.ucieModuleFailure d m) s = .next t
        ∧ t.die? d.toNat = some y ∧ y.failed = x.failed ||| (1#16 <<< m.toNat)
        ∧ (y.lost = true ↔ ∀ i, i < 16 → i ≠ m.toNat → x.failed.getLsbD i = true)))
  ∧ (∀ (s : State) (p : BitVec 5) (m : BitVec 10),
    ((24 ≤ p.toNat ∨ (m.toNat, p.toNat) ∈ s.planes) → exec (.portFailure p m) s = .next s)
    ∧ (p.toNat < 24 → (m.toNat, p.toNat) ∉ s.planes → ∃ t, exec (.portFailure p m) s = .next t
        ∧ t.planes = s.planes ++ [(m.toNat, p.toNat)]))
  ∧ (∀ (s : State) (n : Nat) (x : Context), s.contexts.find? (fun y => y.num == n) = some x →
    (x.tearing = false → exec (.scrubUnit n) s = .next s)
    ∧ (x.tearing = true → ∃ t y, exec (.scrubUnit n) s = .next t ∧ t.contexts.find? (fun z => z.num == n) = some y
        ∧ y.done = x.done + 1 ∧ (x.done + 1 < x.total → y.tearing = true) ∧ (x.total ≤ x.done + 1 → y.tearing = false ∧ y.state = 2)
        ∧ ∀ pa, 8 * (clusterList x.clusters).length ≤ x.done →
            x.pages[x.done - 8 * (clusterList x.clusters).length]? = some pa →
            ∀ i, i < 65536 → t.mem.get (pa + i) = 0))
  ∧ ∀ (s : State) (digest : BitVec 256) (version : Nat) (signed : Bool),
    let f := s.firmware
    (∃ t, exec .moduleReset s = .next t ∧ t.firmware = { f with booted := t.firmware.booted, powered := true }
      ∧ t.firmware.booted = (if (f.slot f.named).signed ∧ f.floor ≤ (f.slot f.named).version then some f.named
          else if (f.slot (!f.named)).signed ∧ f.floor ≤ (f.slot (!f.named)).version then some (!f.named) else none)
      ∧ (t.firmware.booted = none → .recovery ∈ t.reports)
      ∧ t.mem = s.mem ∧ t.jobs = [] ∧ t.frags = [] ∧ t.pools = [] ∧ t.tlb = [] ∧ t.keySlots = [] ∧ t.parts = State.reset.parts
      ∧ ∀ c ∈ t.contexts, c.tearing = true ∧ c.done = 0)
    ∧ (∃ t, exec .powerLoss s = .next t ∧ t.firmware.powered = false ∧ t.mem = [] ∧ t.firmware.floor = f.floor
      ∧ t.firmware.slot (!f.inactive) = f.slot (!f.inactive)
      ∧ (f.current = some false → t.firmware.mark0 = f.mark0) ∧ (f.current = some true → t.firmware.mark1 = f.mark1))
    ∧ (∃ g, exec (.firmwareFlip digest version signed) s = .next { s with firmware := g }
      ∧ g.slot f.inactive = { digest := digest, version := version, signed := signed }
      ∧ g.slot (!f.inactive) = f.slot (!f.inactive) ∧ g.booted = f.booted ∧ g.floor = f.floor
      ∧ (signed = false → g.mark0 = f.mark0 ∧ g.mark1 = f.mark1)
      ∧ (signed = true → f.current = some false → g.mark0 = f.mark0
          ∧ g.mark1 = { slot := f.inactive, seq := f.mark0.seq + 1, valid := true })
      ∧ (signed = true → f.current = some true → g.mark1 = f.mark1
          ∧ g.mark0 = { slot := f.inactive, seq := f.mark1.seq + 1, valid := true }))
    ∧ exec (.floorRaise version signed) s = .next { s with firmware := { f with
        floor := if signed ∧ f.floor < version then version else f.floor } }
    ∧ ∀ (i : Instr) (ts : List Turn), f.powered = false → s.agenda = .event i :: ts → i ≠ .moduleReset →
      step s = .next ({ s with fresh := s.fresh + 1, agenda := ts } : State).afterStep

/-- An address with bits above 57 faults with cause 0x08. Outside the save window, with nothing cached and no entry
read ahead (R166), translation is the walk of both stages and the physical checks. At each level the entry read
through stage 2 is absent (0x01), malformed (0x03), a leaf, or the next table; at stage 2 the causes are 0x04 and
0x06. The job's leaf must allow the use and the mode (0x02), stage 2's leaf the use (0x05, with the intermediate
address). The place must be backed (0x07), an encrypted page's slot hold a key (0x09), a peer window lead somewhere
(0x0A); queue windows and tables are for kernel mode (the model's choice, log 9); a cached translation, where one
serves, permits as its leaves do, to the same checks; a table at no device address faults with 0x07 (log 84), one
under an empty key slot with 0x09. (R149, R158, R159, R161, R163, R239, R258, R267, R268) -/
def Obligations.TranslationRule : Prop :=
  (∀ (s : State) (w : Who) (va : Word64) (u : Use),
    (va.extractLsb' 57 7 ≠ 0 → s.translate w va u = .error { cause := 0x08, ipa := 0 })
    ∧ (va.extractLsb' 57 7 = 0 → s.inSaveWindow w.job.part va.toNat = true → w.own = none →
        s.translate w va u = .error { cause := 0x02, ipa := 0 })
    ∧ (va.extractLsb' 57 7 = 0 → s.inSaveWindow w.job.part va.toNat = false → s.tlb = [] → w.walked = [] →
      (∀ e, s.walk1 w.job.part va.toNat [0, 1, 2, 3, 4] (w.s1root % 2 ^ 44) = .error e → s.translate w va u = .error e)
      ∧ ∀ ipa b, s.walk1 w.job.part va.toNat [0, 1, 2, 3, 4] (w.s1root % 2 ^ 44) = .ok (ipa, b) →
        ((leafAllows b u = false ∨ (b.getLsbD 4 = true ∧ w.kernel = false)) →
            s.translate w va u = .error { cause := 0x02, ipa := 0 })
        ∧ (leafAllows b u = true → (b.getLsbD 4 = true → w.kernel = true) →
          (∀ e, s.stage2 w.job.part ipa = .error e → s.translate w va u = .error e)
          ∧ ∀ pa c, s.stage2 w.job.part ipa = .ok (pa, c) →
            (leafAllows c u = false → s.translate w va u = .error { cause := 0x05, ipa := ipa })
            ∧ (leafAllows c u = true → s.translate w va u = s.checkPhys w pa c u)))
    ∧ (s.translate w va u = ({ s with tlb := [] } : State).translate w va u
      ∨ ∃ e ∈ s.tlb, e.job = w.job ∧ e.page = va.toNat / 65536 ∧
        let refused := leafAllows e.leaf1 u = false ∨ (e.leaf1.getLsbD 4 = true ∧ w.kernel = false)
        (refused → s.translate w va u = .error { cause := 0x02, ipa := 0 })
        ∧ (¬ refused → leafAllows e.leaf2 u = false →
            s.translate w va u = .error { cause := 0x05, ipa := e.ipage * 65536 + va.toNat % 65536 })
        ∧ (¬ refused → leafAllows e.leaf2 u = true →
            s.translate w va u = s.checkPhys w (e.ppage * 65536 + va.toNat % 65536) e.leaf2 u)))
  ∧ (∀ b : BitVec 64, leafAllows b .read = true ∧ leafAllows b .write = b.getLsbD 2 ∧ leafAllows b .fetch = b.getLsbD 3)
  ∧ (∀ (s : State) (part va l : Nat) (ls : List Nat) (tab pa : Nat) (c : BitVec 64), l < 5 →
    s.stage2 part (tab + 8 * (va / 2 ^ ([48, 39, 30, 21, 16].getD l 0) % (if l = 4 then 32 else 512))) = .ok (pa, c) →
    (regionOf pa ≠ .device → s.walk1 part va (l :: ls) tab = .error { cause := 0x07, ipa := 0 })
    ∧ (regionOf pa = .device → s.emptyKey (leafKey c) = true →
        s.walk1 part va (l :: ls) tab = .error { cause := 0x09, ipa := 0 })
    ∧ (PlainBytes s { pa := pa, key := leafKey c } 8 → s.emptyKey (leafKey c) = false →
    let e := BitVec.ofNat 64 (Sparse.bytesNat s.mem pa 8)
    let addr := (e.extractLsb' 8 36).toNat * 256
    let reserved := e.extractLsb' 44 20 ≠ 0 ∨ e.extractLsb' 5 3 ≠ 0
    (e.getLsbD 0 = false → s.walk1 part va (l :: ls) tab = .error { cause := 0x01, ipa := 0 })
    ∧ (e.getLsbD 0 = true → reserved → s.walk1 part va (l :: ls) tab = .error { cause := 0x03, ipa := 0 })
    ∧ (e.getLsbD 0 = true → ¬ reserved → e.getLsbD 1 = false →
        s.walk1 part va (l :: ls) tab =
          (if 2 ≤ l ∧ addr % 2 ^ ([48, 39, 30, 21, 16].getD l 0) = 0 then .ok (addr + va % 2 ^ ([48, 39, 30, 21, 16].getD l 0), e)
           else .error { cause := 0x03, ipa := 0 }))
    ∧ (e.getLsbD 0 = true → ¬ reserved → e.getLsbD 1 = true →
        s.walk1 part va (l :: ls) tab =
          (if l ≠ 4 ∧ addr % (if l = 3 then 256 else 4096) = 0 then s.walk1 part va ls addr
           else .error { cause := 0x03, ipa := 0 }))))
  ∧ (∀ (s : State) (part ipa : Nat), s.stage2 16 ipa = .ok (ipa, 13#64)
    ∧ ∀ p, part < 16 → s.part? part = some p →
        s.stage2 part ipa = s.walk2 ipa [1, 2, 3, 4] ((p.s2root.extractLsb' 8 36).toNat * 256))
  ∧ (∀ (s : State) (ipa l : Nat) (ls : List Nat) (tab : Nat), l < 5 →
    let pa := tab + 8 * (ipa / 2 ^ ([48, 39, 30, 21, 16].getD l 0) % (if l = 4 ∨ l = 1 then 32 else 512))
    let e := BitVec.ofNat 64 (Sparse.bytesNat s.mem pa 8)
    let addr := (e.extractLsb' 8 36).toNat * 256
    let reserved := e.extractLsb' 44 13 ≠ 0 ∨ e.extractLsb' 4 4 ≠ 0 ∨ (e.getLsbD 1 = true ∧ e.extractLsb' 57 7 ≠ 0)
    (regionOf pa ≠ .device → s.walk2 ipa (l :: ls) tab = .error { cause := 0x07, ipa := 0 })
    ∧ (PlainBytes s { pa := pa, key := none } 8 →
      (e.getLsbD 0 = false → s.walk2 ipa (l :: ls) tab = .error { cause := 0x04, ipa := ipa })
      ∧ (e.getLsbD 0 = true → reserved → s.walk2 ipa (l :: ls) tab = .error { cause := 0x06, ipa := ipa })
      ∧ (e.getLsbD 0 = true → ¬ reserved → e.getLsbD 1 = false →
          s.walk2 ipa (l :: ls) tab =
            (if 2 ≤ l ∧ addr % 2 ^ ([48, 39, 30, 21, 16].getD l 0) = 0 then
              .ok (addr + ipa % 2 ^ ([48, 39, 30, 21, 16].getD l 0), e) else .error { cause := 0x06, ipa := ipa }))
      ∧ (e.getLsbD 0 = true → ¬ reserved → e.getLsbD 1 = true →
          s.walk2 ipa (l :: ls) tab =
            (if l ≠ 4 ∧ addr % (if l = 3 then 256 else 4096) = 0 then s.walk2 ipa ls addr
             else .error { cause := 0x06, ipa := ipa }))))
  ∧ ∀ (s : State) (w : Who) (pa : Nat) (b : BitVec 64) (u : Use),
    (regionOf pa = .unbacked → s.checkPhys w pa b u = .error { cause := 0x07, ipa := 0 })
    ∧ (∀ d o, (regionOf pa = .queues d o ∨ regionOf pa = .tables o) → w.kernel = false →
        s.checkPhys w pa b u = .error { cause := 0x07, ipa := 0 })
    ∧ (∀ n o, regionOf pa = .peer n o → (∀ x, s.peerWins.find? (fun y => y.num == n) = some x → x.enabled = false) →
        s.checkPhys w pa b u = .error { cause := 0x0A, ipa := 0 })
    ∧ (∀ n o x, regionOf pa = .peer n o → s.peerWins.find? (fun y => y.num == n) = some x →
        (s.windowDead x = true → s.checkPhys w pa b u = .error { cause := 0x0A, ipa := 0 })
        ∧ (s.windowDead x = false → x.module = Config.thisModule → s.checkPhys w pa b u = s.homePlace x o u))
    ∧ (regionOf pa = .device →
      (b.getLsbD 57 = false → s.checkPhys w pa b u = .ok { pa := pa, key := none })
      ∧ (b.getLsbD 57 = true → s.keySlots.get (b.extractLsb' 58 6).toNat = 0 →
          s.checkPhys w pa b u = .error { cause := 0x09, ipa := 0 })
      ∧ (b.getLsbD 57 = true → s.keySlots.get (b.extractLsb' 58 6).toNat ≠ 0 →
          s.checkPhys w pa b u = .ok { pa := pa, key := some (b.extractLsb' 58 6).toNat }))
end

