-- ==== Sys2Proof/Laws/Dispatch.lean ====
section
/-! SUPPORT. What exec is of each instruction, so that no proof unfolds its whole match. -/

namespace Sys2Proof.Machine

open Sys2Proof

@[simp] theorem exec_saddR (d a b : BitVec 6) (s : State) : exec (.saddR d a b) s = execSaddR d a b s := rfl
@[simp] theorem exec_ssub (d a b : BitVec 6) (s : State) : exec (.ssub d a b) s = execSsub d a b s := rfl
@[simp] theorem exec_smul (d a b : BitVec 6) (s : State) : exec (.smul d a b) s = execSmul d a b s := rfl
@[simp] theorem exec_smulh (d a b : BitVec 6) (s : State) : exec (.smulh d a b) s = execSmulh d a b s := rfl
@[simp] theorem exec_sandR (d a b : BitVec 6) (s : State) : exec (.sandR d a b) s = execSandR d a b s := rfl
@[simp] theorem exec_sorR (d a b : BitVec 6) (s : State) : exec (.sorR d a b) s = execSorR d a b s := rfl
@[simp] theorem exec_sxorR (d a b : BitVec 6) (s : State) : exec (.sxorR d a b) s = execSxorR d a b s := rfl
@[simp] theorem exec_sshlR (d a b : BitVec 6) (s : State) : exec (.sshlR d a b) s = execSshlR d a b s := rfl
@[simp] theorem exec_sshrR (d a b : BitVec 6) (s : State) : exec (.sshrR d a b) s = execSshrR d a b s := rfl
@[simp] theorem exec_ssraR (d a b : BitVec 6) (s : State) : exec (.ssraR d a b) s = execSsraR d a b s := rfl
@[simp] theorem exec_smin (d a b : BitVec 6) (s : State) : exec (.smin d a b) s = execSmin d a b s := rfl
@[simp] theorem exec_smax (d a b : BitVec 6) (s : State) : exec (.smax d a b) s = execSmax d a b s := rfl
@[simp] theorem exec_scmp (cc : BitVec 3) (d a b : BitVec 6) (s : State) : exec (.scmp cc d a b) s = execScmp cc d a b s := rfl
@[simp] theorem exec_ssel (c d a b : BitVec 6) (s : State) : exec (.ssel c d a b) s = execSsel c d a b s := rfl
@[simp] theorem exec_saddI (d a : BitVec 6) (imm : BitVec 14) (s : State) : exec (.saddI d a imm) s = execSaddI d a imm s := rfl
@[simp] theorem exec_sandI (d a : BitVec 6) (imm : BitVec 14) (s : State) : exec (.sandI d a imm) s = execSandI d a imm s := rfl
@[simp] theorem exec_sorI (d a : BitVec 6) (imm : BitVec 14) (s : State) : exec (.sorI d a imm) s = execSorI d a imm s := rfl
@[simp] theorem exec_sxorI (d a : BitVec 6) (imm : BitVec 14) (s : State) : exec (.sxorI d a imm) s = execSxorI d a imm s := rfl
@[simp] theorem exec_sshlI (d a : BitVec 6) (amt : BitVec 6) (s : State) : exec (.sshlI d a amt) s = execSshlI d a amt s := rfl
@[simp] theorem exec_sshrI (d a : BitVec 6) (amt : BitVec 6) (s : State) : exec (.sshrI d a amt) s = execSshrI d a amt s := rfl
@[simp] theorem exec_ssraI (d a : BitVec 6) (amt : BitVec 6) (s : State) : exec (.ssraI d a amt) s = execSsraI d a amt s := rfl
@[simp] theorem exec_sli (d : BitVec 6) (imm : BitVec 14) (s : State) : exec (.sli d imm) s = execSli d imm s := rfl
@[simp] theorem exec_slui (d a : BitVec 6) (imm : BitVec 14) (s : State) : exec (.slui d a imm) s = execSlui d a imm s := rfl
@[simp] theorem exec_sld (d a : BitVec 6) (off : BitVec 14) (s : State) : exec (.sld d a off) s = execSld d a off s := rfl
@[simp] theorem exec_sst (d a : BitVec 6) (off : BitVec 14) (s : State) : exec (.sst d a off) s = execSst d a off s := rfl
@[simp] theorem exec_sldk (d : BitVec 6) (k : BitVec 14) (s : State) : exec (.sldk d k) s = execSldk d k s := rfl
@[simp] theorem exec_sysrd (d : BitVec 6) (n : BitVec 14) (s : State) : exec (.sysrd d n) s = execSysrd d n s := rfl
@[simp] theorem exec_syswrExec (a : BitVec 6) (s : State) : exec (.syswrExec a) s = execSyswrExec a s := rfl
@[simp] theorem exec_syswrFmode (a : BitVec 6) (s : State) : exec (.syswrFmode a) s = execSyswrFmode a s := rfl
@[simp] theorem exec_syswrFflags (a : BitVec 6) (s : State) : exec (.syswrFflags a) s = execSyswrFflags a s := rfl
@[simp] theorem exec_syswrPev (a : BitVec 6) (s : State) : exec (.syswrPev a) s = execSyswrPev a s := rfl
@[simp] theorem exec_syswrEvmask (a : BitVec 6) (s : State) : exec (.syswrEvmask a) s = execSyswrEvmask a s := rfl
@[simp] theorem exec_syswrReadonly (a : BitVec 6) (n : BitVec 14) (s : State) : exec (.syswrReadonly a n) s = execSyswrReadonly a n s := rfl
@[simp] theorem exec_bc (cond : BitVec 2) (a : BitVec 6) (off : BitVec 16) (s : State) : exec (.bc cond a off) s = execBc cond a off s := rfl
@[simp] theorem exec_bcMask (cond : BitVec 2) (m : BitVec 3) (off : BitVec 16) (s : State) : exec (.bcMask cond m off) s = execBcMask cond m off s := rfl
@[simp] theorem exec_split (m : BitVec 3) (k : BitVec 6) (off : BitVec 16) (s : State) : exec (.split m k off) s = execSplit m k off s := rfl
@[simp] theorem exec_jmp (off : BitVec 26) (s : State) : exec (.jmp off) s = execJmp off s := rfl
@[simp] theorem exec_call (off : BitVec 26) (s : State) : exec (.call off) s = execCall off s := rfl
@[simp] theorem exec_waitaddr (cond : BitVec 3) (a b : BitVec 6) (s : State) : exec (.waitaddr cond a b) s = execWaitaddr cond a b s := rfl
@[simp] theorem exec_cpstart (a b : BitVec 6) (s : State) : exec (.cpstart a b) s = execCpstart a b s := rfl
@[simp] theorem exec_cptest (any : BitVec 1) (d a b : BitVec 6) (s : State) : exec (.cptest any d a b) s = execCptest any d a b s := rfl
@[simp] theorem exec_nop (s : State) : exec .nop s = execNop s := rfl
@[simp] theorem exec_endFrag (s : State) : exec .endFrag s = execEndFrag s := rfl
@[simp] theorem exec_yieldSlot (s : State) : exec .yieldSlot s = execYieldSlot s := rfl
@[simp] theorem exec_ret (a : BitVec 6) (s : State) : exec (.ret a) s = execRet a s := rfl
@[simp] theorem exec_reconv (k : BitVec 6) (s : State) : exec (.reconv k) s = execReconv k s := rfl
@[simp] theorem exec_ifence (s : State) : exec .ifence s = execIfence s := rfl
@[simp] theorem exec_efence (scope : BitVec 2) (s : State) : exec (.efence scope) s = execEfence scope s := rfl
@[simp] theorem exec_entrydone (s : State) : exec .entrydone s = execEntrydone s := rfl
@[simp] theorem exec_exitdone (s : State) : exec .exitdone s = execExitdone s := rfl
@[simp] theorem exec_trap (code : BitVec 14) (s : State) : exec (.trap code) s = execTrap code s := rfl
@[simp] theorem exec_tret (s : State) : exec .tret s = execTret s := rfl
@[simp] theorem exec_svc (n : BitVec 10) (s : State) : exec (.svc n) s = execSvc n s := rfl
@[simp] theorem exec_svcret (s : State) : exec .svcret s = execSvcret s := rfl
@[simp] theorem exec_smode (m : BitVec 3) (s : State) : exec (.smode m) s = execSmode m s := rfl
@[simp] theorem exec_tlbiPage (a : BitVec 6) (s : State) : exec (.tlbiPage a) s = execTlbiPage a s := rfl
@[simp] theorem exec_tlbiJob (a : BitVec 6) (s : State) : exec (.tlbiJob a) s = execTlbiJob a s := rfl
@[simp] theorem exec_tlbiPartition (a : BitVec 6) (s : State) : exec (.tlbiPartition a) s = execTlbiPartition a s := rfl
@[simp] theorem exec_lissue (n : BitVec 5) (s : State) : exec (.lissue n) s = execLissue n s := rfl
@[simp] theorem exec_ljump (imm : BitVec 14) (s : State) : exec (.ljump imm) s = execLjump imm s := rfl
@[simp] theorem exec_ljumpReg (a : BitVec 6) (s : State) : exec (.ljumpReg a) s = execLjumpReg a s := rfl
@[simp] theorem exec_rep (imm : BitVec 14) (s : State) : exec (.rep imm) s = execRep imm s := rfl
@[simp] theorem exec_armBarrier (n : BitVec 4) (a : BitVec 6) (off : BitVec 11) (s : State) : exec (.armBarrier n a off) s = execArmBarrier n a off s := rfl
@[simp] theorem exec_armBitmap (n : BitVec 4) (a : BitVec 6) (off : BitVec 11) (s : State) : exec (.armBitmap n a off) s = execArmBitmap n a off s := rfl
@[simp] theorem exec_armMailbox (n : BitVec 4) (a : BitVec 6) (off : BitVec 11) (s : State) : exec (.armMailbox n a off) s = execArmMailbox n a off s := rfl
@[simp] theorem exec_armPool (n : BitVec 4) (a : BitVec 6) (off : BitVec 11) (s : State) : exec (.armPool n a off) s = execArmPool n a off s := rfl
@[simp] theorem exec_armAddr (n : BitVec 4) (a : BitVec 6) (off : BitVec 11) (s : State) : exec (.armAddr n a off) s = execArmAddr n a off s := rfl
@[simp] theorem exec_armReply (n : BitVec 4) (a : BitVec 6) (off : BitVec 11) (s : State) : exec (.armReply n a off) s = execArmReply n a off s := rfl
@[simp] theorem exec_armTimer (n : BitVec 4) (a : BitVec 6) (off : BitVec 11) (s : State) : exec (.armTimer n a off) s = execArmTimer n a off s := rfl
@[simp] theorem exec_armBaton (n : BitVec 4) (a : BitVec 6) (off : BitVec 11) (s : State) : exec (.armBaton n a off) s = execArmBaton n a off s := rfl
@[simp] theorem exec_await (slots : BitVec 16) (s : State) : exec (.await slots) s = execAwait slots s := rfl
@[simp] theorem exec_disarm (n : BitVec 4) (s : State) : exec (.disarm n) s = execDisarm n s := rfl
@[simp] theorem exec_barinit (k : BitVec 8) (s : State) : exec (.barinit k) s = execBarinit k s := rfl
@[simp] theorem exec_bararrive (a : BitVec 6) (k : BitVec 8) (s : State) : exec (.bararrive a k) s = execBararrive a k s := rfl
@[simp] theorem exec_barwait (k : BitVec 8) (s : State) : exec (.barwait k) s = execBarwait k s := rfl
@[simp] theorem exec_batonTake (s : State) : exec .batonTake s = execBatonTake s := rfl
@[simp] theorem exec_batonPass (s : State) : exec .batonPass s = execBatonPass s := rfl
@[simp] theorem exec_vadd (f : LaneOps) (s : State) : exec (.vadd f) s = execVadd f s := rfl
@[simp] theorem exec_vsub (f : LaneOps) (s : State) : exec (.vsub f) s = execVsub f s := rfl
@[simp] theorem exec_vmul (f : LaneOps) (s : State) : exec (.vmul f) s = execVmul f s := rfl
@[simp] theorem exec_vmulh (f : LaneOps) (s : State) : exec (.vmulh f) s = execVmulh f s := rfl
@[simp] theorem exec_vmad (f : LaneOps) (s : State) : exec (.vmad f) s = execVmad f s := rfl
@[simp] theorem exec_vdiv (f : LaneOps) (s : State) : exec (.vdiv f) s = execVdiv f s := rfl
@[simp] theorem exec_vrem (f : LaneOps) (s : State) : exec (.vrem f) s = execVrem f s := rfl
@[simp] theorem exec_vmin (f : LaneOps) (s : State) : exec (.vmin f) s = execVmin f s := rfl
@[simp] theorem exec_vmax (f : LaneOps) (s : State) : exec (.vmax f) s = execVmax f s := rfl
@[simp] theorem exec_vabs (f : LaneOps) (s : State) : exec (.vabs f) s = execVabs f s := rfl
@[simp] theorem exec_vand (f : LaneOps) (s : State) : exec (.vand f) s = execVand f s := rfl
@[simp] theorem exec_vor (f : LaneOps) (s : State) : exec (.vor f) s = execVor f s := rfl
@[simp] theorem exec_vxor (f : LaneOps) (s : State) : exec (.vxor f) s = execVxor f s := rfl
@[simp] theorem exec_vshl (f : LaneOps) (s : State) : exec (.vshl f) s = execVshl f s := rfl
@[simp] theorem exec_vshr (f : LaneOps) (s : State) : exec (.vshr f) s = execVshr f s := rfl
@[simp] theorem exec_vsra (f : LaneOps) (s : State) : exec (.vsra f) s = execVsra f s := rfl
@[simp] theorem exec_vpopc (f : LaneOps) (s : State) : exec (.vpopc f) s = execVpopc f s := rfl
@[simp] theorem exec_vclz (f : LaneOps) (s : State) : exec (.vclz f) s = execVclz f s := rfl
@[simp] theorem exec_vctz (f : LaneOps) (s : State) : exec (.vctz f) s = execVctz f s := rfl
@[simp] theorem exec_vbrev (f : LaneOps) (s : State) : exec (.vbrev f) s = execVbrev f s := rfl
@[simp] theorem exec_vbfe (f : LaneOps) (s : State) : exec (.vbfe f) s = execVbfe f s := rfl
@[simp] theorem exec_vbfi (f : LaneOps) (s : State) : exec (.vbfi f) s = execVbfi f s := rfl
@[simp] theorem exec_vcmp (f : LaneOps) (s : State) : exec (.vcmp f) s = execVcmp f s := rfl
@[simp] theorem exec_vsel (f : LaneOps) (s : State) : exec (.vsel f) s = execVsel f s := rfl
@[simp] theorem exec_vmov (f : LaneOps) (s : State) : exec (.vmov f) s = execVmov f s := rfl
@[simp] theorem exec_vli (f : LaneOps) (s : State) : exec (.vli f) s = execVli f s := rfl
@[simp] theorem exec_vlane (f : LaneOps) (s : State) : exec (.vlane f) s = execVlane f s := rfl
@[simp] theorem exec_fadd (f : LaneOps) (s : State) : exec (.fadd f) s = execFadd f s := rfl
@[simp] theorem exec_fsub (f : LaneOps) (s : State) : exec (.fsub f) s = execFsub f s := rfl
@[simp] theorem exec_fmul (f : LaneOps) (s : State) : exec (.fmul f) s = execFmul f s := rfl
@[simp] theorem exec_ffma (f : LaneOps) (s : State) : exec (.ffma f) s = execFfma f s := rfl
@[simp] theorem exec_fmin (f : LaneOps) (s : State) : exec (.fmin f) s = execFmin f s := rfl
@[simp] theorem exec_fmax (f : LaneOps) (s : State) : exec (.fmax f) s = execFmax f s := rfl
@[simp] theorem exec_fcmp (f : LaneOps) (s : State) : exec (.fcmp f) s = execFcmp f s := rfl
@[simp] theorem exec_fclass (f : LaneOps) (s : State) : exec (.fclass f) s = execFclass f s := rfl
@[simp] theorem exec_fdiv (f : LaneOps) (s : State) : exec (.fdiv f) s = execFdiv f s := rfl
@[simp] theorem exec_fsqrt (f : LaneOps) (s : State) : exec (.fsqrt f) s = execFsqrt f s := rfl
@[simp] theorem exec_frcp (f : LaneOps) (s : State) : exec (.frcp f) s = execFrcp f s := rfl
@[simp] theorem exec_frsq (f : LaneOps) (s : State) : exec (.frsq f) s = execFrsq f s := rfl
@[simp] theorem exec_fexp2 (f : LaneOps) (s : State) : exec (.fexp2 f) s = execFexp2 f s := rfl
@[simp] theorem exec_flog2 (f : LaneOps) (s : State) : exec (.flog2 f) s = execFlog2 f s := rfl
@[simp] theorem exec_fsin (f : LaneOps) (s : State) : exec (.fsin f) s = execFsin f s := rfl
@[simp] theorem exec_fcos (f : LaneOps) (s : State) : exec (.fcos f) s = execFcos f s := rfl
@[simp] theorem exec_ftanh (f : LaneOps) (s : State) : exec (.ftanh f) s = execFtanh f s := rfl
@[simp] theorem exec_cvt (f : LaneOps) (s : State) : exec (.cvt f) s = execCvt f s := rfl
@[simp] theorem exec_cvtn (f : LaneOps) (s : State) : exec (.cvtn f) s = execCvtn f s := rfl
@[simp] theorem exec_qpack (f : LaneOps) (s : State) : exec (.qpack f) s = execQpack f s := rfl
@[simp] theorem exec_qunpack (f : LaneOps) (s : State) : exec (.qunpack f) s = execQunpack f s := rfl
@[simp] theorem exec_vld (f : LaneOps) (s : State) : exec (.vld f) s = execVld f s := rfl
@[simp] theorem exec_vst (f : LaneOps) (s : State) : exec (.vst f) s = execVst f s := rfl
@[simp] theorem exec_vldb (f : LaneOps) (s : State) : exec (.vldb f) s = execVldb f s := rfl
@[simp] theorem exec_vstb (f : LaneOps) (s : State) : exec (.vstb f) s = execVstb f s := rfl
@[simp] theorem exec_vlds (f : LaneOps) (s : State) : exec (.vlds f) s = execVlds f s := rfl
@[simp] theorem exec_vsts (f : LaneOps) (s : State) : exec (.vsts f) s = execVsts f s := rfl
@[simp] theorem exec_vatom (f : LaneOps) (s : State) : exec (.vatom f) s = execVatom f s := rfl
@[simp] theorem exec_vpref (f : LaneOps) (s : State) : exec (.vpref f) s = execVpref f s := rfl
@[simp] theorem exec_xballot (f : LaneOps) (s : State) : exec (.xballot f) s = execXballot f s := rfl
@[simp] theorem exec_xbcast (f : LaneOps) (s : State) : exec (.xbcast f) s = execXbcast f s := rfl
@[simp] theorem exec_xperm (f : LaneOps) (s : State) : exec (.xperm f) s = execXperm f s := rfl
@[simp] theorem exec_xred (f : LaneOps) (s : State) : exec (.xred f) s = execXred f s := rfl
@[simp] theorem exec_xscan (f : LaneOps) (s : State) : exec (.xscan f) s = execXscan f s := rfl
@[simp] theorem exec_mand (f : LaneOps) (s : State) : exec (.mand f) s = execMand f s := rfl
@[simp] theorem exec_mor (f : LaneOps) (s : State) : exec (.mor f) s = execMor f s := rfl
@[simp] theorem exec_mxor (f : LaneOps) (s : State) : exec (.mxor f) s = execMxor f s := rfl
@[simp] theorem exec_mandn (f : LaneOps) (s : State) : exec (.mandn f) s = execMandn f s := rfl
@[simp] theorem exec_mnot (f : LaneOps) (s : State) : exec (.mnot f) s = execMnot f s := rfl
@[simp] theorem exec_mmov (f : LaneOps) (s : State) : exec (.mmov f) s = execMmov f s := rfl
@[simp] theorem exec_mpopc (f : LaneOps) (s : State) : exec (.mpopc f) s = execMpopc f s := rfl
@[simp] theorem exec_mma (f : LaneOps) (s : State) : exec (.mma f) s = execMma f s := rfl
@[simp] theorem exec_mvstream (f : LaneOps) (s : State) : exec (.mvstream f) s = execMvstream f s := rfl
@[simp] theorem exec_bload (f : LaneOps) (s : State) : exec (.bload f) s = execBload f s := rfl
@[simp] theorem exec_acczero (f : LaneOps) (s : State) : exec (.acczero f) s = execAcczero f s := rfl
@[simp] theorem exec_accread (f : LaneOps) (s : State) : exec (.accread f) s = execAccread f s := rfl
@[simp] theorem exec_accwrite (f : LaneOps) (s : State) : exec (.accwrite f) s = execAccwrite f s := rfl
@[simp] theorem exec_pinitCreate (f : LaneOps) (s : State) : exec (.pinitCreate f) s = execPinitCreate f s := rfl
@[simp] theorem exec_pinitDestroy (f : LaneOps) (s : State) : exec (.pinitDestroy f) s = execPinitDestroy f s := rfl
@[simp] theorem exec_pput (f : LaneOps) (s : State) : exec (.pput f) s = execPput f s := rfl
@[simp] theorem exec_ptake (f : LaneOps) (s : State) : exec (.ptake f) s = execPtake f s := rfl
@[simp] theorem exec_pstat (f : LaneOps) (s : State) : exec (.pstat f) s = execPstat f s := rfl
@[simp] theorem exec_rload (f : LaneOps) (s : State) : exec (.rload f) s = execRload f s := rfl
@[simp] theorem exec_extensionOpcode (op : BitVec 10) (f : LaneOps) (s : State) : exec (.extensionOpcode op f) s = execExtensionOpcode op f s := rfl
@[simp] theorem exec_fqtail (d : BitVec 2) (v : BitVec 32) (s : State) : exec (.fqtail d v) s = execFqtail d v s := rfl
@[simp] theorem exec_fqdoneRetry (d : BitVec 2) (seq : BitVec 32) (s : State) : exec (.fqdoneRetry d seq) s = execFqdoneRetry d seq s := rfl
@[simp] theorem exec_fqdoneKill (d : BitVec 2) (seq : BitVec 32) (s : State) : exec (.fqdoneKill d seq) s = execFqdoneKill d seq s := rfl
@[simp] theorem exec_sqtail (d : BitVec 2) (v : BitVec 32) (s : State) : exec (.sqtail d v) s = execSqtail d v s := rfl
@[simp] theorem exec_sqdone (d : BitVec 2) (seq : BitVec 32) (s : State) : exec (.sqdone d seq) s = execSqdone d seq s := rfl
@[simp] theorem exec_sqrestart (d : BitVec 2) (s : State) : exec (.sqrestart d) s = execSqrestart d s := rfl
@[simp] theorem exec_serviceFaultVerdict (d : BitVec 2) (v : Word64) (s : State) : exec (.serviceFaultVerdict d v) s = execServiceFaultVerdict d v s := rfl
@[simp] theorem exec_freeze (j : JobRef) (wg : BitVec 32) (s : State) : exec (.freeze j wg) s = execFreeze j wg s := rfl
@[simp] theorem exec_thaw (j : JobRef) (wg : BitVec 32) (s : State) : exec (.thaw j wg) s = execThaw j wg s := rfl
@[simp] theorem exec_step (fr : FragRef) (count : BitVec 16) (s : State) : exec (.step fr count) s = execStep fr count s := rfl
@[simp] theorem exec_freezept (j : JobRef) (slot : BitVec 3) (addr : Word64) (s : State) : exec (.freezept j slot addr) s = execFreezept j slot addr s := rfl
@[simp] theorem exec_read (w : WaveRef) (host : Word64) (s : State) : exec (.read w host) s = execRead w host s := rfl
@[simp] theorem exec_write (w : WaveRef) (host : Word64) (s : State) : exec (.write w host) s = execWrite w host s := rfl
@[simp] theorem exec_checkpoint (part : BitVec 4) (graph area : Word64) (hold : Bool) (s : State) : exec (.checkpoint part graph area hold) s = execCheckpoint part graph area hold s := rfl
@[simp] theorem exec_restore (part : BitVec 4) (area : Word64) (s : State) : exec (.restore part area) s = execRestore part area s := rfl
@[simp] theorem exec_log (j : JobRef) (area bytes : Word64) (mode : BitVec 2) (s : State) : exec (.log j area bytes mode) s = execLog j area bytes mode s := rfl
@[simp] theorem exec_reset (part : BitVec 4) (s : State) : exec (.reset part) s = execReset part s := rfl
@[simp] theorem exec_clusters (part : BitVec 4) (v : BitVec 32) (s : State) : exec (.clusters part v) s = execClusters part v s := rfl
@[simp] theorem exec_parklimit (part : BitVec 4) (v : BitVec 32) (s : State) : exec (.parklimit part v) s = execParklimit part v s := rfl
@[simp] theorem exec_qos (part : BitVec 4) (v : Word64) (s : State) : exec (.qos part v) s = execQos part v s := rfl
@[simp] theorem exec_clkstep (d : BitVec 2) (v : BitVec 3) (s : State) : exec (.clkstep d v) s = execClkstep d v s := rfl
@[simp] theorem exec_gate (d : BitVec 2) (v : Word64) (s : State) : exec (.gate d v) s = execGate d v s := rfl
@[simp] theorem exec_margincommit (d : BitVec 2) (v : Word64) (s : State) : exec (.margincommit d v) s = execMargincommit d v s := rfl
@[simp] theorem exec_registerWrite (r : CtlReg) (v : BitVec 512) (s : State) : exec (.registerWrite r v) s = execRegisterWrite r v s := rfl
@[simp] theorem exec_null (c : CallSrc) (s : State) : exec (.null c) s = execNull c s := rfl
@[simp] theorem exec_launch (c : CallSrc) (s : State) : exec (.launch c) s = execLaunch c s := rfl
@[simp] theorem exec_stopgraph (c : CallSrc) (s : State) : exec (.stopgraph c) s = execStopgraph c s := rfl
@[simp] theorem exec_resumegraph (c : CallSrc) (s : State) : exec (.resumegraph c) s = execResumegraph c s := rfl
@[simp] theorem exec_rescreate (c : CallSrc) (s : State) : exec (.rescreate c) s = execRescreate c s := rfl
@[simp] theorem exec_resdemote (c : CallSrc) (s : State) : exec (.resdemote c) s = execResdemote c s := rfl
@[simp] theorem exec_resevict (c : CallSrc) (s : State) : exec (.resevict c) s = execResevict c s := rfl
@[simp] theorem exec_respromote (c : CallSrc) (s : State) : exec (.respromote c) s = execRespromote c s := rfl
@[simp] theorem exec_resfree (c : CallSrc) (s : State) : exec (.resfree c) s = execResfree c s := rfl
@[simp] theorem exec_map (c : CallSrc) (s : State) : exec (.map c) s = execMap c s := rfl
@[simp] theorem exec_unmap (c : CallSrc) (s : State) : exec (.unmap c) s = execUnmap c s := rfl
@[simp] theorem exec_armlaunch (c : CallSrc) (s : State) : exec (.armlaunch c) s = execArmlaunch c s := rfl
@[simp] theorem exec_protect (c : CallSrc) (s : State) : exec (.protect c) s = execProtect c s := rfl
@[simp] theorem exec_teardown (c : CallSrc) (s : State) : exec (.teardown c) s = execTeardown c s := rfl
@[simp] theorem exec_attest (c : CallSrc) (s : State) : exec (.attest c) s = execAttest c s := rfl
@[simp] theorem exec_mcload (c : CallSrc) (s : State) : exec (.mcload c) s = execMcload c s := rfl
@[simp] theorem exec_collgroup (c : CallSrc) (s : State) : exec (.collgroup c) s = execCollgroup c s := rfl
@[simp] theorem exec_collfree (c : CallSrc) (s : State) : exec (.collfree c) s = execCollfree c s := rfl
@[simp] theorem exec_controlProgramCall (c : CallSrc) (status : BitVec 8) (result : Word64) (s : State) : exec (.controlProgramCall c status result) s = execControlProgramCall c status result s := rfl
@[simp] theorem exec_launchStart (queue : BitVec 5) (s : State) : exec (.launchStart queue) s = execLaunchStart queue s := rfl
@[simp] theorem exec_dieReport (j : JobRef) (d : BitVec 2) (s : State) : exec (.dieReport j d) s = execDieReport j d s := rfl
@[simp] theorem exec_completionSignal (j : JobRef) (s : State) : exec (.completionSignal j) s = execCompletionSignal j s := rfl
@[simp] theorem exec_workgroupRetirement (w : WgRef) (s : State) : exec (.workgroupRetirement w) s = execWorkgroupRetirement w s := rfl
@[simp] theorem exec_dispatch (w : WgRef) (core : BitVec 8) (s : State) : exec (.dispatch w core) s = execDispatch w core s := rfl
@[simp] theorem exec_parkLimitExpiry (j : JobRef) (s : State) : exec (.parkLimitExpiry j) s = execParkLimitExpiry j s := rfl
@[simp] theorem exec_preemptionRequest (w : WgRef) (k : PreemptKind) (s : State) : exec (.preemptionRequest w k) s = execPreemptionRequest w k s := rfl
@[simp] theorem exec_drainLimitExpiry (w : WgRef) (s : State) : exec (.drainLimitExpiry w) s = execDrainLimitExpiry w s := rfl
@[simp] theorem exec_copySquash (w : WgRef) (s : State) : exec (.copySquash w) s = execCopySquash w s := rfl
@[simp] theorem exec_saveCompletion (w : WgRef) (s : State) : exec (.saveCompletion w) s = execSaveCompletion w s := rfl
@[simp] theorem exec_exitDeadlineExpiry (fr : FragRef) (s : State) : exec (.exitDeadlineExpiry fr) s = execExitDeadlineExpiry fr s := rfl
@[simp] theorem exec_graphStopJob (part : BitVec 4) (s : State) : exec (.graphStopJob part) s = execGraphStopJob part s := rfl
@[simp] theorem exec_starvationBoost (fr : FragRef) (s : State) : exec (.starvationBoost fr) s = execStarvationBoost fr s := rfl
@[simp] theorem exec_dataReturn (fr : FragRef) (s : State) : exec (.dataReturn fr) s = execDataReturn fr s := rfl
@[simp] theorem exec_postedStoreTranslation (fr : FragRef) (s : State) : exec (.postedStoreTranslation fr) s = execPostedStoreTranslation fr s := rfl
@[simp] theorem exec_faultQueueWrite (d : BitVec 2) (s : State) : exec (.faultQueueWrite d) s = execFaultQueueWrite d s := rfl
@[simp] theorem exec_serviceQueuePost (d : BitVec 2) (s : State) : exec (.serviceQueuePost d) s = execServiceQueuePost d s := rfl
@[simp] theorem exec_copyFire (core : BitVec 8) (chan : BitVec 3) (s : State) : exec (.copyFire core chan) s = execCopyFire core chan s := rfl
@[simp] theorem exec_chunkLand (cmd : Nat) (chunk : Nat) (s : State) : exec (.chunkLand cmd chunk) s = execChunkLand cmd chunk s := rfl
@[simp] theorem exec_copyCompletion (cmd : Nat) (s : State) : exec (.copyCompletion cmd) s = execCopyCompletion cmd s := rfl
@[simp] theorem exec_collectiveResult (cmd : Nat) (contribs : Contribs) (s : State) : exec (.collectiveResult cmd contribs) s = execCollectiveResult cmd contribs s := rfl
@[simp] theorem exec_timerTokenFire (w : WaveRef) (slot : BitVec 4) (s : State) : exec (.timerTokenFire w slot) s = execTimerTokenFire w slot s := rfl
@[simp] theorem exec_poolSummary (pool : BitVec 6) (d : BitVec 2) (s : State) : exec (.poolSummary pool d) s = execPoolSummary pool d s := rfl
@[simp] theorem exec_poolCensus (pool : BitVec 6) (s : State) : exec (.poolCensus pool) s = execPoolCensus pool s := rfl
@[simp] theorem exec_tlbiCompletion (id : Nat) (s : State) : exec (.tlbiCompletion id) s = execTlbiCompletion id s := rfl
@[simp] theorem exec_tlbiDrainExpiry (id : Nat) (s : State) : exec (.tlbiDrainExpiry id) s = execTlbiDrainExpiry id s := rfl
@[simp] theorem exec_freezePointHit (fr : FragRef) (s : State) : exec (.freezePointHit fr) s = execFreezePointHit fr s := rfl
@[simp] theorem exec_stepEnd (fr : FragRef) (s : State) : exec (.stepEnd fr) s = execStepEnd fr s := rfl
@[simp] theorem exec_frameArrival (frame : List Byte) (s : State) : exec (.frameArrival frame) s = execFrameArrival frame s := rfl
@[simp] theorem exec_remoteWriteArrival (tgt : RemoteAddr) (bytes : List Byte) (s : State) : exec (.remoteWriteArrival tgt bytes) s = execRemoteWriteArrival tgt bytes s := rfl
@[simp] theorem exec_dieLoss (d : BitVec 2) (s : State) : exec (.dieLoss d) s = execDieLoss d s := rfl
@[simp] theorem exec_flitCrcFailure (d : BitVec 2) (s : State) : exec (.flitCrcFailure d) s = execFlitCrcFailure d s := rfl
@[simp] theorem exec_ucieModuleFailure (d : BitVec 2) (m : BitVec 4) (s : State) : exec (.ucieModuleFailure d m) s = execUcieModuleFailure d m s := rfl
@[simp] theorem exec_moduleReset (s : State) : exec .moduleReset s = execModuleReset s := rfl
@[simp] theorem exec_powerLoss (s : State) : exec .powerLoss s = execPowerLoss s := rfl
@[simp] theorem exec_firmwareFlip (digest : BitVec 256) (version : Nat) (signed : Bool) (s : State) : exec (.firmwareFlip digest version signed) s = execFirmwareFlip digest version signed s := rfl
@[simp] theorem exec_floorRaise (version : Nat) (signed : Bool) (s : State) : exec (.floorRaise version signed) s = execFloorRaise version signed s := rfl
@[simp] theorem exec_thermalTrip (s : State) : exec .thermalTrip s = execThermalTrip s := rfl
@[simp] theorem exec_scrubUnit (ctx : Nat) (s : State) : exec (.scrubUnit ctx) s = execScrubUnit ctx s := rfl
@[simp] theorem exec_controlCoreAccess (hart : BitVec 5) (pa : BitVec 44) (op : CoreOp) (s : State) : exec (.controlCoreAccess hart pa op) s = execControlCoreAccess hart pa op s := rfl
@[simp] theorem exec_peerAtomicArrival (tgt : RemoteAddr) (ty : BitVec 5) (op : BitVec 4) (b c : Word64) (s : State) : exec (.peerAtomicArrival tgt ty op b c) s = execPeerAtomicArrival tgt ty op b c s := rfl
@[simp] theorem exec_portFailure (plane : BitVec 5) (module : BitVec 10) (s : State) : exec (.portFailure plane module) s = execPortFailure plane module s := rfl
@[simp] theorem exec_peerGroupChange (part : BitVec 4) (group : BitVec 8) (rank : BitVec 10) (created : Bool) (s : State) : exec (.peerGroupChange part group rank created) s = execPeerGroupChange part group rank created s := rfl
@[simp] theorem exec_marginProposal (d : BitVec 2) (v : Word64) (s : State) : exec (.marginProposal d v) s = execMarginProposal d v s := rfl

end Sys2Proof.Machine
end

