-- ==== Sys2Proof/Laws/State.lean ====
section
/-! SUPPORT. The laws of the state's updates: what each leaves alone, field by field, and what a look-up finds after it. -/

namespace Sys2Proof.Machine

open Sys2Proof

/-! ## Fields after an update -/

@[simp] theorem State.setFrag_cycle (s : State) (x : Frag) : (s.setFrag x).cycle = s.cycle := rfl
@[simp] theorem State.setFrag_fresh (s : State) (x : Frag) : (s.setFrag x).fresh = s.fresh := rfl
@[simp] theorem State.setFrag_agenda (s : State) (x : Frag) : (s.setFrag x).agenda = s.agenda := rfl
@[simp] theorem State.setFrag_cur (s : State) (x : Frag) : (s.setFrag x).cur = s.cur := rfl
@[simp] theorem State.setFrag_issue (s : State) (x : Frag) : (s.setFrag x).issue = s.issue := rfl
@[simp] theorem State.setFrag_mem (s : State) (x : Frag) : (s.setFrag x).mem = s.mem := rfl
@[simp] theorem State.setFrag_lineKey (s : State) (x : Frag) : (s.setFrag x).lineKey = s.lineKey := rfl
@[simp] theorem State.setFrag_hostMem (s : State) (x : Frag) : (s.setFrag x).hostMem = s.hostMem := rfl
@[simp] theorem State.setFrag_peerMem (s : State) (x : Frag) : (s.setFrag x).peerMem = s.peerMem := rfl
@[simp] theorem State.setFrag_remote (s : State) (x : Frag) : (s.setFrag x).remote = s.remote := rfl
@[simp] theorem State.setFrag_dies (s : State) (x : Frag) : (s.setFrag x).dies = s.dies := rfl
@[simp] theorem State.setFrag_parts (s : State) (x : Frag) : (s.setFrag x).parts = s.parts := rfl
@[simp] theorem State.setFrag_jobs (s : State) (x : Frag) : (s.setFrag x).jobs = s.jobs := rfl
@[simp] theorem State.setFrag_wgs (s : State) (x : Frag) : (s.setFrag x).wgs = s.wgs := rfl
@[simp] theorem State.setFrag_waves (s : State) (x : Frag) : (s.setFrag x).waves = s.waves := rfl
@[simp] theorem State.setFrag_frags (s : State) (x : Frag) : (s.setFrag x).frags = s.frags.map (fun y => if y.ref = x.ref then x else y) := rfl
@[simp] theorem State.setFrag_cmds (s : State) (x : Frag) : (s.setFrag x).cmds = s.cmds := rfl
@[simp] theorem State.setFrag_pools (s : State) (x : Frag) : (s.setFrag x).pools = s.pools := rfl
@[simp] theorem State.setFrag_privQueue (s : State) (x : Frag) : (s.setFrag x).privQueue = s.privQueue := rfl
@[simp] theorem State.setFrag_serial (s : State) (x : Frag) : (s.setFrag x).serial = s.serial := rfl
@[simp] theorem State.setFrag_tlb (s : State) (x : Frag) : (s.setFrag x).tlb = s.tlb := rfl
@[simp] theorem State.setFrag_tlbis (s : State) (x : Frag) : (s.setFrag x).tlbis = s.tlbis := rfl
@[simp] theorem State.setFrag_keySlots (s : State) (x : Frag) : (s.setFrag x).keySlots = s.keySlots := rfl
@[simp] theorem State.setFrag_contexts (s : State) (x : Frag) : (s.setFrag x).contexts = s.contexts := rfl
@[simp] theorem State.setFrag_residency (s : State) (x : Frag) : (s.setFrag x).residency = s.residency := rfl
@[simp] theorem State.setFrag_stops (s : State) (x : Frag) : (s.setFrag x).stops = s.stops := rfl
@[simp] theorem State.setFrag_checkpoints (s : State) (x : Frag) : (s.setFrag x).checkpoints = s.checkpoints := rfl
@[simp] theorem State.setFrag_armedRecs (s : State) (x : Frag) : (s.setFrag x).armedRecs = s.armedRecs := rfl
@[simp] theorem State.setFrag_hartRegs (s : State) (x : Frag) : (s.setFrag x).hartRegs = s.hartRegs := rfl
@[simp] theorem State.setFrag_hartFregs (s : State) (x : Frag) : (s.setFrag x).hartFregs = s.hartFregs := rfl
@[simp] theorem State.setFrag_hartVregs (s : State) (x : Frag) : (s.setFrag x).hartVregs = s.hartVregs := rfl
@[simp] theorem State.setFrag_hartCsrs (s : State) (x : Frag) : (s.setFrag x).hartCsrs = s.hartCsrs := rfl
@[simp] theorem State.setFrag_hartPcs (s : State) (x : Frag) : (s.setFrag x).hartPcs = s.hartPcs := rfl
@[simp] theorem State.setFrag_hartPeeks (s : State) (x : Frag) : (s.setFrag x).hartPeeks = s.hartPeeks := rfl
@[simp] theorem State.setFrag_controlStore (s : State) (x : Frag) : (s.setFrag x).controlStore = s.controlStore := rfl
@[simp] theorem State.setFrag_patchRam (s : State) (x : Frag) : (s.setFrag x).patchRam = s.patchRam := rfl
@[simp] theorem State.setFrag_containers (s : State) (x : Frag) : (s.setFrag x).containers = s.containers := rfl
@[simp] theorem State.setFrag_peerWins (s : State) (x : Frag) : (s.setFrag x).peerWins = s.peerWins := rfl
@[simp] theorem State.setFrag_planes (s : State) (x : Frag) : (s.setFrag x).planes = s.planes := rfl
@[simp] theorem State.setFrag_steering (s : State) (x : Frag) : (s.setFrag x).steering = s.steering := rfl
@[simp] theorem State.setFrag_rings (s : State) (x : Frag) : (s.setFrag x).rings = s.rings := rfl
@[simp] theorem State.setFrag_bindings (s : State) (x : Frag) : (s.setFrag x).bindings = s.bindings := rfl
@[simp] theorem State.setFrag_reservations (s : State) (x : Frag) : (s.setFrag x).reservations = s.reservations := rfl
@[simp] theorem State.setFrag_archMinor (s : State) (x : Frag) : (s.setFrag x).archMinor = s.archMinor := rfl
@[simp] theorem State.setFrag_microcode (s : State) (x : Frag) : (s.setFrag x).microcode = s.microcode := rfl
@[simp] theorem State.setFrag_firmware (s : State) (x : Frag) : (s.setFrag x).firmware = s.firmware := rfl
@[simp] theorem State.setFrag_monitor (s : State) (x : Frag) : (s.setFrag x).monitor = s.monitor := rfl
@[simp] theorem State.setFrag_trip (s : State) (x : Frag) : (s.setFrag x).trip = s.trip := rfl
@[simp] theorem State.setFrag_reports (s : State) (x : Frag) : (s.setFrag x).reports = s.reports := rfl
@[simp] theorem State.setFrag_results (s : State) (x : Frag) : (s.setFrag x).results = s.results := rfl

@[simp] theorem State.modFrag_cycle (s : State) (r : FragRef) (h : Frag → Frag) : (s.modFrag r h).cycle = s.cycle := rfl
@[simp] theorem State.modFrag_fresh (s : State) (r : FragRef) (h : Frag → Frag) : (s.modFrag r h).fresh = s.fresh := rfl
@[simp] theorem State.modFrag_agenda (s : State) (r : FragRef) (h : Frag → Frag) : (s.modFrag r h).agenda = s.agenda := rfl
@[simp] theorem State.modFrag_cur (s : State) (r : FragRef) (h : Frag → Frag) : (s.modFrag r h).cur = s.cur := rfl
@[simp] theorem State.modFrag_issue (s : State) (r : FragRef) (h : Frag → Frag) : (s.modFrag r h).issue = s.issue := rfl
@[simp] theorem State.modFrag_mem (s : State) (r : FragRef) (h : Frag → Frag) : (s.modFrag r h).mem = s.mem := rfl
@[simp] theorem State.modFrag_lineKey (s : State) (r : FragRef) (h : Frag → Frag) : (s.modFrag r h).lineKey = s.lineKey := rfl
@[simp] theorem State.modFrag_hostMem (s : State) (r : FragRef) (h : Frag → Frag) : (s.modFrag r h).hostMem = s.hostMem := rfl
@[simp] theorem State.modFrag_peerMem (s : State) (r : FragRef) (h : Frag → Frag) : (s.modFrag r h).peerMem = s.peerMem := rfl
@[simp] theorem State.modFrag_remote (s : State) (r : FragRef) (h : Frag → Frag) : (s.modFrag r h).remote = s.remote := rfl
@[simp] theorem State.modFrag_dies (s : State) (r : FragRef) (h : Frag → Frag) : (s.modFrag r h).dies = s.dies := rfl
@[simp] theorem State.modFrag_parts (s : State) (r : FragRef) (h : Frag → Frag) : (s.modFrag r h).parts = s.parts := rfl
@[simp] theorem State.modFrag_jobs (s : State) (r : FragRef) (h : Frag → Frag) : (s.modFrag r h).jobs = s.jobs := rfl
@[simp] theorem State.modFrag_wgs (s : State) (r : FragRef) (h : Frag → Frag) : (s.modFrag r h).wgs = s.wgs := rfl
@[simp] theorem State.modFrag_waves (s : State) (r : FragRef) (h : Frag → Frag) : (s.modFrag r h).waves = s.waves := rfl
@[simp] theorem State.modFrag_frags (s : State) (r : FragRef) (h : Frag → Frag) : (s.modFrag r h).frags = s.frags.map (fun y => if y.ref = r then h y else y) := rfl
@[simp] theorem State.modFrag_cmds (s : State) (r : FragRef) (h : Frag → Frag) : (s.modFrag r h).cmds = s.cmds := rfl
@[simp] theorem State.modFrag_pools (s : State) (r : FragRef) (h : Frag → Frag) : (s.modFrag r h).pools = s.pools := rfl
@[simp] theorem State.modFrag_privQueue (s : State) (r : FragRef) (h : Frag → Frag) : (s.modFrag r h).privQueue = s.privQueue := rfl
@[simp] theorem State.modFrag_serial (s : State) (r : FragRef) (h : Frag → Frag) : (s.modFrag r h).serial = s.serial := rfl
@[simp] theorem State.modFrag_tlb (s : State) (r : FragRef) (h : Frag → Frag) : (s.modFrag r h).tlb = s.tlb := rfl
@[simp] theorem State.modFrag_tlbis (s : State) (r : FragRef) (h : Frag → Frag) : (s.modFrag r h).tlbis = s.tlbis := rfl
@[simp] theorem State.modFrag_keySlots (s : State) (r : FragRef) (h : Frag → Frag) : (s.modFrag r h).keySlots = s.keySlots := rfl
@[simp] theorem State.modFrag_contexts (s : State) (r : FragRef) (h : Frag → Frag) : (s.modFrag r h).contexts = s.contexts := rfl
@[simp] theorem State.modFrag_residency (s : State) (r : FragRef) (h : Frag → Frag) : (s.modFrag r h).residency = s.residency := rfl
@[simp] theorem State.modFrag_stops (s : State) (r : FragRef) (h : Frag → Frag) : (s.modFrag r h).stops = s.stops := rfl
@[simp] theorem State.modFrag_checkpoints (s : State) (r : FragRef) (h : Frag → Frag) : (s.modFrag r h).checkpoints = s.checkpoints := rfl
@[simp] theorem State.modFrag_armedRecs (s : State) (r : FragRef) (h : Frag → Frag) : (s.modFrag r h).armedRecs = s.armedRecs := rfl
@[simp] theorem State.modFrag_hartRegs (s : State) (r : FragRef) (h : Frag → Frag) : (s.modFrag r h).hartRegs = s.hartRegs := rfl
@[simp] theorem State.modFrag_hartFregs (s : State) (r : FragRef) (h : Frag → Frag) : (s.modFrag r h).hartFregs = s.hartFregs := rfl
@[simp] theorem State.modFrag_hartVregs (s : State) (r : FragRef) (h : Frag → Frag) : (s.modFrag r h).hartVregs = s.hartVregs := rfl
@[simp] theorem State.modFrag_hartCsrs (s : State) (r : FragRef) (h : Frag → Frag) : (s.modFrag r h).hartCsrs = s.hartCsrs := rfl
@[simp] theorem State.modFrag_hartPcs (s : State) (r : FragRef) (h : Frag → Frag) : (s.modFrag r h).hartPcs = s.hartPcs := rfl
@[simp] theorem State.modFrag_hartPeeks (s : State) (r : FragRef) (h : Frag → Frag) : (s.modFrag r h).hartPeeks = s.hartPeeks := rfl
@[simp] theorem State.modFrag_controlStore (s : State) (r : FragRef) (h : Frag → Frag) : (s.modFrag r h).controlStore = s.controlStore := rfl
@[simp] theorem State.modFrag_patchRam (s : State) (r : FragRef) (h : Frag → Frag) : (s.modFrag r h).patchRam = s.patchRam := rfl
@[simp] theorem State.modFrag_containers (s : State) (r : FragRef) (h : Frag → Frag) : (s.modFrag r h).containers = s.containers := rfl
@[simp] theorem State.modFrag_peerWins (s : State) (r : FragRef) (h : Frag → Frag) : (s.modFrag r h).peerWins = s.peerWins := rfl
@[simp] theorem State.modFrag_planes (s : State) (r : FragRef) (h : Frag → Frag) : (s.modFrag r h).planes = s.planes := rfl
@[simp] theorem State.modFrag_steering (s : State) (r : FragRef) (h : Frag → Frag) : (s.modFrag r h).steering = s.steering := rfl
@[simp] theorem State.modFrag_rings (s : State) (r : FragRef) (h : Frag → Frag) : (s.modFrag r h).rings = s.rings := rfl
@[simp] theorem State.modFrag_bindings (s : State) (r : FragRef) (h : Frag → Frag) : (s.modFrag r h).bindings = s.bindings := rfl
@[simp] theorem State.modFrag_reservations (s : State) (r : FragRef) (h : Frag → Frag) : (s.modFrag r h).reservations = s.reservations := rfl
@[simp] theorem State.modFrag_archMinor (s : State) (r : FragRef) (h : Frag → Frag) : (s.modFrag r h).archMinor = s.archMinor := rfl
@[simp] theorem State.modFrag_microcode (s : State) (r : FragRef) (h : Frag → Frag) : (s.modFrag r h).microcode = s.microcode := rfl
@[simp] theorem State.modFrag_firmware (s : State) (r : FragRef) (h : Frag → Frag) : (s.modFrag r h).firmware = s.firmware := rfl
@[simp] theorem State.modFrag_monitor (s : State) (r : FragRef) (h : Frag → Frag) : (s.modFrag r h).monitor = s.monitor := rfl
@[simp] theorem State.modFrag_trip (s : State) (r : FragRef) (h : Frag → Frag) : (s.modFrag r h).trip = s.trip := rfl
@[simp] theorem State.modFrag_reports (s : State) (r : FragRef) (h : Frag → Frag) : (s.modFrag r h).reports = s.reports := rfl
@[simp] theorem State.modFrag_results (s : State) (r : FragRef) (h : Frag → Frag) : (s.modFrag r h).results = s.results := rfl

@[simp] theorem State.setWave_cycle (s : State) (x : Wave) : (s.setWave x).cycle = s.cycle := rfl
@[simp] theorem State.setWave_fresh (s : State) (x : Wave) : (s.setWave x).fresh = s.fresh := rfl
@[simp] theorem State.setWave_agenda (s : State) (x : Wave) : (s.setWave x).agenda = s.agenda := rfl
@[simp] theorem State.setWave_cur (s : State) (x : Wave) : (s.setWave x).cur = s.cur := rfl
@[simp] theorem State.setWave_issue (s : State) (x : Wave) : (s.setWave x).issue = s.issue := rfl
@[simp] theorem State.setWave_mem (s : State) (x : Wave) : (s.setWave x).mem = s.mem := rfl
@[simp] theorem State.setWave_lineKey (s : State) (x : Wave) : (s.setWave x).lineKey = s.lineKey := rfl
@[simp] theorem State.setWave_hostMem (s : State) (x : Wave) : (s.setWave x).hostMem = s.hostMem := rfl
@[simp] theorem State.setWave_peerMem (s : State) (x : Wave) : (s.setWave x).peerMem = s.peerMem := rfl
@[simp] theorem State.setWave_remote (s : State) (x : Wave) : (s.setWave x).remote = s.remote := rfl
@[simp] theorem State.setWave_dies (s : State) (x : Wave) : (s.setWave x).dies = s.dies := rfl
@[simp] theorem State.setWave_parts (s : State) (x : Wave) : (s.setWave x).parts = s.parts := rfl
@[simp] theorem State.setWave_jobs (s : State) (x : Wave) : (s.setWave x).jobs = s.jobs := rfl
@[simp] theorem State.setWave_wgs (s : State) (x : Wave) : (s.setWave x).wgs = s.wgs := rfl
@[simp] theorem State.setWave_waves (s : State) (x : Wave) : (s.setWave x).waves = s.waves.map (fun y => if y.ref = x.ref then x else y) := rfl
@[simp] theorem State.setWave_frags (s : State) (x : Wave) : (s.setWave x).frags = s.frags := rfl
@[simp] theorem State.setWave_cmds (s : State) (x : Wave) : (s.setWave x).cmds = s.cmds := rfl
@[simp] theorem State.setWave_pools (s : State) (x : Wave) : (s.setWave x).pools = s.pools := rfl
@[simp] theorem State.setWave_privQueue (s : State) (x : Wave) : (s.setWave x).privQueue = s.privQueue := rfl
@[simp] theorem State.setWave_serial (s : State) (x : Wave) : (s.setWave x).serial = s.serial := rfl
@[simp] theorem State.setWave_tlb (s : State) (x : Wave) : (s.setWave x).tlb = s.tlb := rfl
@[simp] theorem State.setWave_tlbis (s : State) (x : Wave) : (s.setWave x).tlbis = s.tlbis := rfl
@[simp] theorem State.setWave_keySlots (s : State) (x : Wave) : (s.setWave x).keySlots = s.keySlots := rfl
@[simp] theorem State.setWave_contexts (s : State) (x : Wave) : (s.setWave x).contexts = s.contexts := rfl
@[simp] theorem State.setWave_residency (s : State) (x : Wave) : (s.setWave x).residency = s.residency := rfl
@[simp] theorem State.setWave_stops (s : State) (x : Wave) : (s.setWave x).stops = s.stops := rfl
@[simp] theorem State.setWave_checkpoints (s : State) (x : Wave) : (s.setWave x).checkpoints = s.checkpoints := rfl
@[simp] theorem State.setWave_armedRecs (s : State) (x : Wave) : (s.setWave x).armedRecs = s.armedRecs := rfl
@[simp] theorem State.setWave_hartRegs (s : State) (x : Wave) : (s.setWave x).hartRegs = s.hartRegs := rfl
@[simp] theorem State.setWave_hartFregs (s : State) (x : Wave) : (s.setWave x).hartFregs = s.hartFregs := rfl
@[simp] theorem State.setWave_hartVregs (s : State) (x : Wave) : (s.setWave x).hartVregs = s.hartVregs := rfl
@[simp] theorem State.setWave_hartCsrs (s : State) (x : Wave) : (s.setWave x).hartCsrs = s.hartCsrs := rfl
@[simp] theorem State.setWave_hartPcs (s : State) (x : Wave) : (s.setWave x).hartPcs = s.hartPcs := rfl
@[simp] theorem State.setWave_hartPeeks (s : State) (x : Wave) : (s.setWave x).hartPeeks = s.hartPeeks := rfl
@[simp] theorem State.setWave_controlStore (s : State) (x : Wave) : (s.setWave x).controlStore = s.controlStore := rfl
@[simp] theorem State.setWave_patchRam (s : State) (x : Wave) : (s.setWave x).patchRam = s.patchRam := rfl
@[simp] theorem State.setWave_containers (s : State) (x : Wave) : (s.setWave x).containers = s.containers := rfl
@[simp] theorem State.setWave_peerWins (s : State) (x : Wave) : (s.setWave x).peerWins = s.peerWins := rfl
@[simp] theorem State.setWave_planes (s : State) (x : Wave) : (s.setWave x).planes = s.planes := rfl
@[simp] theorem State.setWave_steering (s : State) (x : Wave) : (s.setWave x).steering = s.steering := rfl
@[simp] theorem State.setWave_rings (s : State) (x : Wave) : (s.setWave x).rings = s.rings := rfl
@[simp] theorem State.setWave_bindings (s : State) (x : Wave) : (s.setWave x).bindings = s.bindings := rfl
@[simp] theorem State.setWave_reservations (s : State) (x : Wave) : (s.setWave x).reservations = s.reservations := rfl
@[simp] theorem State.setWave_archMinor (s : State) (x : Wave) : (s.setWave x).archMinor = s.archMinor := rfl
@[simp] theorem State.setWave_microcode (s : State) (x : Wave) : (s.setWave x).microcode = s.microcode := rfl
@[simp] theorem State.setWave_firmware (s : State) (x : Wave) : (s.setWave x).firmware = s.firmware := rfl
@[simp] theorem State.setWave_monitor (s : State) (x : Wave) : (s.setWave x).monitor = s.monitor := rfl
@[simp] theorem State.setWave_trip (s : State) (x : Wave) : (s.setWave x).trip = s.trip := rfl
@[simp] theorem State.setWave_reports (s : State) (x : Wave) : (s.setWave x).reports = s.reports := rfl
@[simp] theorem State.setWave_results (s : State) (x : Wave) : (s.setWave x).results = s.results := rfl

@[simp] theorem State.modWave_cycle (s : State) (r : WaveRef) (h : Wave → Wave) : (s.modWave r h).cycle = s.cycle := rfl
@[simp] theorem State.modWave_fresh (s : State) (r : WaveRef) (h : Wave → Wave) : (s.modWave r h).fresh = s.fresh := rfl
@[simp] theorem State.modWave_agenda (s : State) (r : WaveRef) (h : Wave → Wave) : (s.modWave r h).agenda = s.agenda := rfl
@[simp] theorem State.modWave_cur (s : State) (r : WaveRef) (h : Wave → Wave) : (s.modWave r h).cur = s.cur := rfl
@[simp] theorem State.modWave_issue (s : State) (r : WaveRef) (h : Wave → Wave) : (s.modWave r h).issue = s.issue := rfl
@[simp] theorem State.modWave_mem (s : State) (r : WaveRef) (h : Wave → Wave) : (s.modWave r h).mem = s.mem := rfl
@[simp] theorem State.modWave_lineKey (s : State) (r : WaveRef) (h : Wave → Wave) : (s.modWave r h).lineKey = s.lineKey := rfl
@[simp] theorem State.modWave_hostMem (s : State) (r : WaveRef) (h : Wave → Wave) : (s.modWave r h).hostMem = s.hostMem := rfl
@[simp] theorem State.modWave_peerMem (s : State) (r : WaveRef) (h : Wave → Wave) : (s.modWave r h).peerMem = s.peerMem := rfl
@[simp] theorem State.modWave_remote (s : State) (r : WaveRef) (h : Wave → Wave) : (s.modWave r h).remote = s.remote := rfl
@[simp] theorem State.modWave_dies (s : State) (r : WaveRef) (h : Wave → Wave) : (s.modWave r h).dies = s.dies := rfl
@[simp] theorem State.modWave_parts (s : State) (r : WaveRef) (h : Wave → Wave) : (s.modWave r h).parts = s.parts := rfl
@[simp] theorem State.modWave_jobs (s : State) (r : WaveRef) (h : Wave → Wave) : (s.modWave r h).jobs = s.jobs := rfl
@[simp] theorem State.modWave_wgs (s : State) (r : WaveRef) (h : Wave → Wave) : (s.modWave r h).wgs = s.wgs := rfl
@[simp] theorem State.modWave_waves (s : State) (r : WaveRef) (h : Wave → Wave) : (s.modWave r h).waves = s.waves.map (fun y => if y.ref = r then h y else y) := rfl
@[simp] theorem State.modWave_frags (s : State) (r : WaveRef) (h : Wave → Wave) : (s.modWave r h).frags = s.frags := rfl
@[simp] theorem State.modWave_cmds (s : State) (r : WaveRef) (h : Wave → Wave) : (s.modWave r h).cmds = s.cmds := rfl
@[simp] theorem State.modWave_pools (s : State) (r : WaveRef) (h : Wave → Wave) : (s.modWave r h).pools = s.pools := rfl
@[simp] theorem State.modWave_privQueue (s : State) (r : WaveRef) (h : Wave → Wave) : (s.modWave r h).privQueue = s.privQueue := rfl
@[simp] theorem State.modWave_serial (s : State) (r : WaveRef) (h : Wave → Wave) : (s.modWave r h).serial = s.serial := rfl
@[simp] theorem State.modWave_tlb (s : State) (r : WaveRef) (h : Wave → Wave) : (s.modWave r h).tlb = s.tlb := rfl
@[simp] theorem State.modWave_tlbis (s : State) (r : WaveRef) (h : Wave → Wave) : (s.modWave r h).tlbis = s.tlbis := rfl
@[simp] theorem State.modWave_keySlots (s : State) (r : WaveRef) (h : Wave → Wave) : (s.modWave r h).keySlots = s.keySlots := rfl
@[simp] theorem State.modWave_contexts (s : State) (r : WaveRef) (h : Wave → Wave) : (s.modWave r h).contexts = s.contexts := rfl
@[simp] theorem State.modWave_residency (s : State) (r : WaveRef) (h : Wave → Wave) : (s.modWave r h).residency = s.residency := rfl
@[simp] theorem State.modWave_stops (s : State) (r : WaveRef) (h : Wave → Wave) : (s.modWave r h).stops = s.stops := rfl
@[simp] theorem State.modWave_checkpoints (s : State) (r : WaveRef) (h : Wave → Wave) : (s.modWave r h).checkpoints = s.checkpoints := rfl
@[simp] theorem State.modWave_armedRecs (s : State) (r : WaveRef) (h : Wave → Wave) : (s.modWave r h).armedRecs = s.armedRecs := rfl
@[simp] theorem State.modWave_hartRegs (s : State) (r : WaveRef) (h : Wave → Wave) : (s.modWave r h).hartRegs = s.hartRegs := rfl
@[simp] theorem State.modWave_hartFregs (s : State) (r : WaveRef) (h : Wave → Wave) : (s.modWave r h).hartFregs = s.hartFregs := rfl
@[simp] theorem State.modWave_hartVregs (s : State) (r : WaveRef) (h : Wave → Wave) : (s.modWave r h).hartVregs = s.hartVregs := rfl
@[simp] theorem State.modWave_hartCsrs (s : State) (r : WaveRef) (h : Wave → Wave) : (s.modWave r h).hartCsrs = s.hartCsrs := rfl
@[simp] theorem State.modWave_hartPcs (s : State) (r : WaveRef) (h : Wave → Wave) : (s.modWave r h).hartPcs = s.hartPcs := rfl
@[simp] theorem State.modWave_hartPeeks (s : State) (r : WaveRef) (h : Wave → Wave) : (s.modWave r h).hartPeeks = s.hartPeeks := rfl
@[simp] theorem State.modWave_controlStore (s : State) (r : WaveRef) (h : Wave → Wave) : (s.modWave r h).controlStore = s.controlStore := rfl
@[simp] theorem State.modWave_patchRam (s : State) (r : WaveRef) (h : Wave → Wave) : (s.modWave r h).patchRam = s.patchRam := rfl
@[simp] theorem State.modWave_containers (s : State) (r : WaveRef) (h : Wave → Wave) : (s.modWave r h).containers = s.containers := rfl
@[simp] theorem State.modWave_peerWins (s : State) (r : WaveRef) (h : Wave → Wave) : (s.modWave r h).peerWins = s.peerWins := rfl
@[simp] theorem State.modWave_planes (s : State) (r : WaveRef) (h : Wave → Wave) : (s.modWave r h).planes = s.planes := rfl
@[simp] theorem State.modWave_steering (s : State) (r : WaveRef) (h : Wave → Wave) : (s.modWave r h).steering = s.steering := rfl
@[simp] theorem State.modWave_rings (s : State) (r : WaveRef) (h : Wave → Wave) : (s.modWave r h).rings = s.rings := rfl
@[simp] theorem State.modWave_bindings (s : State) (r : WaveRef) (h : Wave → Wave) : (s.modWave r h).bindings = s.bindings := rfl
@[simp] theorem State.modWave_reservations (s : State) (r : WaveRef) (h : Wave → Wave) : (s.modWave r h).reservations = s.reservations := rfl
@[simp] theorem State.modWave_archMinor (s : State) (r : WaveRef) (h : Wave → Wave) : (s.modWave r h).archMinor = s.archMinor := rfl
@[simp] theorem State.modWave_microcode (s : State) (r : WaveRef) (h : Wave → Wave) : (s.modWave r h).microcode = s.microcode := rfl
@[simp] theorem State.modWave_firmware (s : State) (r : WaveRef) (h : Wave → Wave) : (s.modWave r h).firmware = s.firmware := rfl
@[simp] theorem State.modWave_monitor (s : State) (r : WaveRef) (h : Wave → Wave) : (s.modWave r h).monitor = s.monitor := rfl
@[simp] theorem State.modWave_trip (s : State) (r : WaveRef) (h : Wave → Wave) : (s.modWave r h).trip = s.trip := rfl
@[simp] theorem State.modWave_reports (s : State) (r : WaveRef) (h : Wave → Wave) : (s.modWave r h).reports = s.reports := rfl
@[simp] theorem State.modWave_results (s : State) (r : WaveRef) (h : Wave → Wave) : (s.modWave r h).results = s.results := rfl

@[simp] theorem State.setWg_cycle (s : State) (x : Wg) : (s.setWg x).cycle = s.cycle := rfl
@[simp] theorem State.setWg_fresh (s : State) (x : Wg) : (s.setWg x).fresh = s.fresh := rfl
@[simp] theorem State.setWg_agenda (s : State) (x : Wg) : (s.setWg x).agenda = s.agenda := rfl
@[simp] theorem State.setWg_cur (s : State) (x : Wg) : (s.setWg x).cur = s.cur := rfl
@[simp] theorem State.setWg_issue (s : State) (x : Wg) : (s.setWg x).issue = s.issue := rfl
@[simp] theorem State.setWg_mem (s : State) (x : Wg) : (s.setWg x).mem = s.mem := rfl
@[simp] theorem State.setWg_lineKey (s : State) (x : Wg) : (s.setWg x).lineKey = s.lineKey := rfl
@[simp] theorem State.setWg_hostMem (s : State) (x : Wg) : (s.setWg x).hostMem = s.hostMem := rfl
@[simp] theorem State.setWg_peerMem (s : State) (x : Wg) : (s.setWg x).peerMem = s.peerMem := rfl
@[simp] theorem State.setWg_remote (s : State) (x : Wg) : (s.setWg x).remote = s.remote := rfl
@[simp] theorem State.setWg_dies (s : State) (x : Wg) : (s.setWg x).dies = s.dies := rfl
@[simp] theorem State.setWg_parts (s : State) (x : Wg) : (s.setWg x).parts = s.parts := rfl
@[simp] theorem State.setWg_jobs (s : State) (x : Wg) : (s.setWg x).jobs = s.jobs := rfl
@[simp] theorem State.setWg_wgs (s : State) (x : Wg) : (s.setWg x).wgs = s.wgs.map (fun y => if y.ref = x.ref then x else y) := rfl
@[simp] theorem State.setWg_waves (s : State) (x : Wg) : (s.setWg x).waves = s.waves := rfl
@[simp] theorem State.setWg_frags (s : State) (x : Wg) : (s.setWg x).frags = s.frags := rfl
@[simp] theorem State.setWg_cmds (s : State) (x : Wg) : (s.setWg x).cmds = s.cmds := rfl
@[simp] theorem State.setWg_pools (s : State) (x : Wg) : (s.setWg x).pools = s.pools := rfl
@[simp] theorem State.setWg_privQueue (s : State) (x : Wg) : (s.setWg x).privQueue = s.privQueue := rfl
@[simp] theorem State.setWg_serial (s : State) (x : Wg) : (s.setWg x).serial = s.serial := rfl
@[simp] theorem State.setWg_tlb (s : State) (x : Wg) : (s.setWg x).tlb = s.tlb := rfl
@[simp] theorem State.setWg_tlbis (s : State) (x : Wg) : (s.setWg x).tlbis = s.tlbis := rfl
@[simp] theorem State.setWg_keySlots (s : State) (x : Wg) : (s.setWg x).keySlots = s.keySlots := rfl
@[simp] theorem State.setWg_contexts (s : State) (x : Wg) : (s.setWg x).contexts = s.contexts := rfl
@[simp] theorem State.setWg_residency (s : State) (x : Wg) : (s.setWg x).residency = s.residency := rfl
@[simp] theorem State.setWg_stops (s : State) (x : Wg) : (s.setWg x).stops = s.stops := rfl
@[simp] theorem State.setWg_checkpoints (s : State) (x : Wg) : (s.setWg x).checkpoints = s.checkpoints := rfl
@[simp] theorem State.setWg_armedRecs (s : State) (x : Wg) : (s.setWg x).armedRecs = s.armedRecs := rfl
@[simp] theorem State.setWg_hartRegs (s : State) (x : Wg) : (s.setWg x).hartRegs = s.hartRegs := rfl
@[simp] theorem State.setWg_hartFregs (s : State) (x : Wg) : (s.setWg x).hartFregs = s.hartFregs := rfl
@[simp] theorem State.setWg_hartVregs (s : State) (x : Wg) : (s.setWg x).hartVregs = s.hartVregs := rfl
@[simp] theorem State.setWg_hartCsrs (s : State) (x : Wg) : (s.setWg x).hartCsrs = s.hartCsrs := rfl
@[simp] theorem State.setWg_hartPcs (s : State) (x : Wg) : (s.setWg x).hartPcs = s.hartPcs := rfl
@[simp] theorem State.setWg_hartPeeks (s : State) (x : Wg) : (s.setWg x).hartPeeks = s.hartPeeks := rfl
@[simp] theorem State.setWg_controlStore (s : State) (x : Wg) : (s.setWg x).controlStore = s.controlStore := rfl
@[simp] theorem State.setWg_patchRam (s : State) (x : Wg) : (s.setWg x).patchRam = s.patchRam := rfl
@[simp] theorem State.setWg_containers (s : State) (x : Wg) : (s.setWg x).containers = s.containers := rfl
@[simp] theorem State.setWg_peerWins (s : State) (x : Wg) : (s.setWg x).peerWins = s.peerWins := rfl
@[simp] theorem State.setWg_planes (s : State) (x : Wg) : (s.setWg x).planes = s.planes := rfl
@[simp] theorem State.setWg_steering (s : State) (x : Wg) : (s.setWg x).steering = s.steering := rfl
@[simp] theorem State.setWg_rings (s : State) (x : Wg) : (s.setWg x).rings = s.rings := rfl
@[simp] theorem State.setWg_bindings (s : State) (x : Wg) : (s.setWg x).bindings = s.bindings := rfl
@[simp] theorem State.setWg_reservations (s : State) (x : Wg) : (s.setWg x).reservations = s.reservations := rfl
@[simp] theorem State.setWg_archMinor (s : State) (x : Wg) : (s.setWg x).archMinor = s.archMinor := rfl
@[simp] theorem State.setWg_microcode (s : State) (x : Wg) : (s.setWg x).microcode = s.microcode := rfl
@[simp] theorem State.setWg_firmware (s : State) (x : Wg) : (s.setWg x).firmware = s.firmware := rfl
@[simp] theorem State.setWg_monitor (s : State) (x : Wg) : (s.setWg x).monitor = s.monitor := rfl
@[simp] theorem State.setWg_trip (s : State) (x : Wg) : (s.setWg x).trip = s.trip := rfl
@[simp] theorem State.setWg_reports (s : State) (x : Wg) : (s.setWg x).reports = s.reports := rfl
@[simp] theorem State.setWg_results (s : State) (x : Wg) : (s.setWg x).results = s.results := rfl

@[simp] theorem State.modWg_cycle (s : State) (r : WgRef) (h : Wg → Wg) : (s.modWg r h).cycle = s.cycle := rfl
@[simp] theorem State.modWg_fresh (s : State) (r : WgRef) (h : Wg → Wg) : (s.modWg r h).fresh = s.fresh := rfl
@[simp] theorem State.modWg_agenda (s : State) (r : WgRef) (h : Wg → Wg) : (s.modWg r h).agenda = s.agenda := rfl
@[simp] theorem State.modWg_cur (s : State) (r : WgRef) (h : Wg → Wg) : (s.modWg r h).cur = s.cur := rfl
@[simp] theorem State.modWg_issue (s : State) (r : WgRef) (h : Wg → Wg) : (s.modWg r h).issue = s.issue := rfl
@[simp] theorem State.modWg_mem (s : State) (r : WgRef) (h : Wg → Wg) : (s.modWg r h).mem = s.mem := rfl
@[simp] theorem State.modWg_lineKey (s : State) (r : WgRef) (h : Wg → Wg) : (s.modWg r h).lineKey = s.lineKey := rfl
@[simp] theorem State.modWg_hostMem (s : State) (r : WgRef) (h : Wg → Wg) : (s.modWg r h).hostMem = s.hostMem := rfl
@[simp] theorem State.modWg_peerMem (s : State) (r : WgRef) (h : Wg → Wg) : (s.modWg r h).peerMem = s.peerMem := rfl
@[simp] theorem State.modWg_remote (s : State) (r : WgRef) (h : Wg → Wg) : (s.modWg r h).remote = s.remote := rfl
@[simp] theorem State.modWg_dies (s : State) (r : WgRef) (h : Wg → Wg) : (s.modWg r h).dies = s.dies := rfl
@[simp] theorem State.modWg_parts (s : State) (r : WgRef) (h : Wg → Wg) : (s.modWg r h).parts = s.parts := rfl
@[simp] theorem State.modWg_jobs (s : State) (r : WgRef) (h : Wg → Wg) : (s.modWg r h).jobs = s.jobs := rfl
@[simp] theorem State.modWg_wgs (s : State) (r : WgRef) (h : Wg → Wg) : (s.modWg r h).wgs = s.wgs.map (fun y => if y.ref = r then h y else y) := rfl
@[simp] theorem State.modWg_waves (s : State) (r : WgRef) (h : Wg → Wg) : (s.modWg r h).waves = s.waves := rfl
@[simp] theorem State.modWg_frags (s : State) (r : WgRef) (h : Wg → Wg) : (s.modWg r h).frags = s.frags := rfl
@[simp] theorem State.modWg_cmds (s : State) (r : WgRef) (h : Wg → Wg) : (s.modWg r h).cmds = s.cmds := rfl
@[simp] theorem State.modWg_pools (s : State) (r : WgRef) (h : Wg → Wg) : (s.modWg r h).pools = s.pools := rfl
@[simp] theorem State.modWg_privQueue (s : State) (r : WgRef) (h : Wg → Wg) : (s.modWg r h).privQueue = s.privQueue := rfl
@[simp] theorem State.modWg_serial (s : State) (r : WgRef) (h : Wg → Wg) : (s.modWg r h).serial = s.serial := rfl
@[simp] theorem State.modWg_tlb (s : State) (r : WgRef) (h : Wg → Wg) : (s.modWg r h).tlb = s.tlb := rfl
@[simp] theorem State.modWg_tlbis (s : State) (r : WgRef) (h : Wg → Wg) : (s.modWg r h).tlbis = s.tlbis := rfl
@[simp] theorem State.modWg_keySlots (s : State) (r : WgRef) (h : Wg → Wg) : (s.modWg r h).keySlots = s.keySlots := rfl
@[simp] theorem State.modWg_contexts (s : State) (r : WgRef) (h : Wg → Wg) : (s.modWg r h).contexts = s.contexts := rfl
@[simp] theorem State.modWg_residency (s : State) (r : WgRef) (h : Wg → Wg) : (s.modWg r h).residency = s.residency := rfl
@[simp] theorem State.modWg_stops (s : State) (r : WgRef) (h : Wg → Wg) : (s.modWg r h).stops = s.stops := rfl
@[simp] theorem State.modWg_checkpoints (s : State) (r : WgRef) (h : Wg → Wg) : (s.modWg r h).checkpoints = s.checkpoints := rfl
@[simp] theorem State.modWg_armedRecs (s : State) (r : WgRef) (h : Wg → Wg) : (s.modWg r h).armedRecs = s.armedRecs := rfl
@[simp] theorem State.modWg_hartRegs (s : State) (r : WgRef) (h : Wg → Wg) : (s.modWg r h).hartRegs = s.hartRegs := rfl
@[simp] theorem State.modWg_hartFregs (s : State) (r : WgRef) (h : Wg → Wg) : (s.modWg r h).hartFregs = s.hartFregs := rfl
@[simp] theorem State.modWg_hartVregs (s : State) (r : WgRef) (h : Wg → Wg) : (s.modWg r h).hartVregs = s.hartVregs := rfl
@[simp] theorem State.modWg_hartCsrs (s : State) (r : WgRef) (h : Wg → Wg) : (s.modWg r h).hartCsrs = s.hartCsrs := rfl
@[simp] theorem State.modWg_hartPcs (s : State) (r : WgRef) (h : Wg → Wg) : (s.modWg r h).hartPcs = s.hartPcs := rfl
@[simp] theorem State.modWg_hartPeeks (s : State) (r : WgRef) (h : Wg → Wg) : (s.modWg r h).hartPeeks = s.hartPeeks := rfl
@[simp] theorem State.modWg_controlStore (s : State) (r : WgRef) (h : Wg → Wg) : (s.modWg r h).controlStore = s.controlStore := rfl
@[simp] theorem State.modWg_patchRam (s : State) (r : WgRef) (h : Wg → Wg) : (s.modWg r h).patchRam = s.patchRam := rfl
@[simp] theorem State.modWg_containers (s : State) (r : WgRef) (h : Wg → Wg) : (s.modWg r h).containers = s.containers := rfl
@[simp] theorem State.modWg_peerWins (s : State) (r : WgRef) (h : Wg → Wg) : (s.modWg r h).peerWins = s.peerWins := rfl
@[simp] theorem State.modWg_planes (s : State) (r : WgRef) (h : Wg → Wg) : (s.modWg r h).planes = s.planes := rfl
@[simp] theorem State.modWg_steering (s : State) (r : WgRef) (h : Wg → Wg) : (s.modWg r h).steering = s.steering := rfl
@[simp] theorem State.modWg_rings (s : State) (r : WgRef) (h : Wg → Wg) : (s.modWg r h).rings = s.rings := rfl
@[simp] theorem State.modWg_bindings (s : State) (r : WgRef) (h : Wg → Wg) : (s.modWg r h).bindings = s.bindings := rfl
@[simp] theorem State.modWg_reservations (s : State) (r : WgRef) (h : Wg → Wg) : (s.modWg r h).reservations = s.reservations := rfl
@[simp] theorem State.modWg_archMinor (s : State) (r : WgRef) (h : Wg → Wg) : (s.modWg r h).archMinor = s.archMinor := rfl
@[simp] theorem State.modWg_microcode (s : State) (r : WgRef) (h : Wg → Wg) : (s.modWg r h).microcode = s.microcode := rfl
@[simp] theorem State.modWg_firmware (s : State) (r : WgRef) (h : Wg → Wg) : (s.modWg r h).firmware = s.firmware := rfl
@[simp] theorem State.modWg_monitor (s : State) (r : WgRef) (h : Wg → Wg) : (s.modWg r h).monitor = s.monitor := rfl
@[simp] theorem State.modWg_trip (s : State) (r : WgRef) (h : Wg → Wg) : (s.modWg r h).trip = s.trip := rfl
@[simp] theorem State.modWg_reports (s : State) (r : WgRef) (h : Wg → Wg) : (s.modWg r h).reports = s.reports := rfl
@[simp] theorem State.modWg_results (s : State) (r : WgRef) (h : Wg → Wg) : (s.modWg r h).results = s.results := rfl

@[simp] theorem State.setJob_cycle (s : State) (x : Job) : (s.setJob x).cycle = s.cycle := rfl
@[simp] theorem State.setJob_fresh (s : State) (x : Job) : (s.setJob x).fresh = s.fresh := rfl
@[simp] theorem State.setJob_agenda (s : State) (x : Job) : (s.setJob x).agenda = s.agenda := rfl
@[simp] theorem State.setJob_cur (s : State) (x : Job) : (s.setJob x).cur = s.cur := rfl
@[simp] theorem State.setJob_issue (s : State) (x : Job) : (s.setJob x).issue = s.issue := rfl
@[simp] theorem State.setJob_mem (s : State) (x : Job) : (s.setJob x).mem = s.mem := rfl
@[simp] theorem State.setJob_lineKey (s : State) (x : Job) : (s.setJob x).lineKey = s.lineKey := rfl
@[simp] theorem State.setJob_hostMem (s : State) (x : Job) : (s.setJob x).hostMem = s.hostMem := rfl
@[simp] theorem State.setJob_peerMem (s : State) (x : Job) : (s.setJob x).peerMem = s.peerMem := rfl
@[simp] theorem State.setJob_remote (s : State) (x : Job) : (s.setJob x).remote = s.remote := rfl
@[simp] theorem State.setJob_dies (s : State) (x : Job) : (s.setJob x).dies = s.dies := rfl
@[simp] theorem State.setJob_parts (s : State) (x : Job) : (s.setJob x).parts = s.parts := rfl
@[simp] theorem State.setJob_jobs (s : State) (x : Job) : (s.setJob x).jobs = s.jobs.map (fun y => if y.ref = x.ref then x else y) := rfl
@[simp] theorem State.setJob_wgs (s : State) (x : Job) : (s.setJob x).wgs = s.wgs := rfl
@[simp] theorem State.setJob_waves (s : State) (x : Job) : (s.setJob x).waves = s.waves := rfl
@[simp] theorem State.setJob_frags (s : State) (x : Job) : (s.setJob x).frags = s.frags := rfl
@[simp] theorem State.setJob_cmds (s : State) (x : Job) : (s.setJob x).cmds = s.cmds := rfl
@[simp] theorem State.setJob_pools (s : State) (x : Job) : (s.setJob x).pools = s.pools := rfl
@[simp] theorem State.setJob_privQueue (s : State) (x : Job) : (s.setJob x).privQueue = s.privQueue := rfl
@[simp] theorem State.setJob_serial (s : State) (x : Job) : (s.setJob x).serial = s.serial := rfl
@[simp] theorem State.setJob_tlb (s : State) (x : Job) : (s.setJob x).tlb = s.tlb := rfl
@[simp] theorem State.setJob_tlbis (s : State) (x : Job) : (s.setJob x).tlbis = s.tlbis := rfl
@[simp] theorem State.setJob_keySlots (s : State) (x : Job) : (s.setJob x).keySlots = s.keySlots := rfl
@[simp] theorem State.setJob_contexts (s : State) (x : Job) : (s.setJob x).contexts = s.contexts := rfl
@[simp] theorem State.setJob_residency (s : State) (x : Job) : (s.setJob x).residency = s.residency := rfl
@[simp] theorem State.setJob_stops (s : State) (x : Job) : (s.setJob x).stops = s.stops := rfl
@[simp] theorem State.setJob_checkpoints (s : State) (x : Job) : (s.setJob x).checkpoints = s.checkpoints := rfl
@[simp] theorem State.setJob_armedRecs (s : State) (x : Job) : (s.setJob x).armedRecs = s.armedRecs := rfl
@[simp] theorem State.setJob_hartRegs (s : State) (x : Job) : (s.setJob x).hartRegs = s.hartRegs := rfl
@[simp] theorem State.setJob_hartFregs (s : State) (x : Job) : (s.setJob x).hartFregs = s.hartFregs := rfl
@[simp] theorem State.setJob_hartVregs (s : State) (x : Job) : (s.setJob x).hartVregs = s.hartVregs := rfl
@[simp] theorem State.setJob_hartCsrs (s : State) (x : Job) : (s.setJob x).hartCsrs = s.hartCsrs := rfl
@[simp] theorem State.setJob_hartPcs (s : State) (x : Job) : (s.setJob x).hartPcs = s.hartPcs := rfl
@[simp] theorem State.setJob_hartPeeks (s : State) (x : Job) : (s.setJob x).hartPeeks = s.hartPeeks := rfl
@[simp] theorem State.setJob_controlStore (s : State) (x : Job) : (s.setJob x).controlStore = s.controlStore := rfl
@[simp] theorem State.setJob_patchRam (s : State) (x : Job) : (s.setJob x).patchRam = s.patchRam := rfl
@[simp] theorem State.setJob_containers (s : State) (x : Job) : (s.setJob x).containers = s.containers := rfl
@[simp] theorem State.setJob_peerWins (s : State) (x : Job) : (s.setJob x).peerWins = s.peerWins := rfl
@[simp] theorem State.setJob_planes (s : State) (x : Job) : (s.setJob x).planes = s.planes := rfl
@[simp] theorem State.setJob_steering (s : State) (x : Job) : (s.setJob x).steering = s.steering := rfl
@[simp] theorem State.setJob_rings (s : State) (x : Job) : (s.setJob x).rings = s.rings := rfl
@[simp] theorem State.setJob_bindings (s : State) (x : Job) : (s.setJob x).bindings = s.bindings := rfl
@[simp] theorem State.setJob_reservations (s : State) (x : Job) : (s.setJob x).reservations = s.reservations := rfl
@[simp] theorem State.setJob_archMinor (s : State) (x : Job) : (s.setJob x).archMinor = s.archMinor := rfl
@[simp] theorem State.setJob_microcode (s : State) (x : Job) : (s.setJob x).microcode = s.microcode := rfl
@[simp] theorem State.setJob_firmware (s : State) (x : Job) : (s.setJob x).firmware = s.firmware := rfl
@[simp] theorem State.setJob_monitor (s : State) (x : Job) : (s.setJob x).monitor = s.monitor := rfl
@[simp] theorem State.setJob_trip (s : State) (x : Job) : (s.setJob x).trip = s.trip := rfl
@[simp] theorem State.setJob_reports (s : State) (x : Job) : (s.setJob x).reports = s.reports := rfl
@[simp] theorem State.setJob_results (s : State) (x : Job) : (s.setJob x).results = s.results := rfl

@[simp] theorem State.modJob_cycle (s : State) (r : JobRef) (h : Job → Job) : (s.modJob r h).cycle = s.cycle := rfl
@[simp] theorem State.modJob_fresh (s : State) (r : JobRef) (h : Job → Job) : (s.modJob r h).fresh = s.fresh := rfl
@[simp] theorem State.modJob_agenda (s : State) (r : JobRef) (h : Job → Job) : (s.modJob r h).agenda = s.agenda := rfl
@[simp] theorem State.modJob_cur (s : State) (r : JobRef) (h : Job → Job) : (s.modJob r h).cur = s.cur := rfl
@[simp] theorem State.modJob_issue (s : State) (r : JobRef) (h : Job → Job) : (s.modJob r h).issue = s.issue := rfl
@[simp] theorem State.modJob_mem (s : State) (r : JobRef) (h : Job → Job) : (s.modJob r h).mem = s.mem := rfl
@[simp] theorem State.modJob_lineKey (s : State) (r : JobRef) (h : Job → Job) : (s.modJob r h).lineKey = s.lineKey := rfl
@[simp] theorem State.modJob_hostMem (s : State) (r : JobRef) (h : Job → Job) : (s.modJob r h).hostMem = s.hostMem := rfl
@[simp] theorem State.modJob_peerMem (s : State) (r : JobRef) (h : Job → Job) : (s.modJob r h).peerMem = s.peerMem := rfl
@[simp] theorem State.modJob_remote (s : State) (r : JobRef) (h : Job → Job) : (s.modJob r h).remote = s.remote := rfl
@[simp] theorem State.modJob_dies (s : State) (r : JobRef) (h : Job → Job) : (s.modJob r h).dies = s.dies := rfl
@[simp] theorem State.modJob_parts (s : State) (r : JobRef) (h : Job → Job) : (s.modJob r h).parts = s.parts := rfl
@[simp] theorem State.modJob_jobs (s : State) (r : JobRef) (h : Job → Job) : (s.modJob r h).jobs = s.jobs.map (fun y => if y.ref = r then h y else y) := rfl
@[simp] theorem State.modJob_wgs (s : State) (r : JobRef) (h : Job → Job) : (s.modJob r h).wgs = s.wgs := rfl
@[simp] theorem State.modJob_waves (s : State) (r : JobRef) (h : Job → Job) : (s.modJob r h).waves = s.waves := rfl
@[simp] theorem State.modJob_frags (s : State) (r : JobRef) (h : Job → Job) : (s.modJob r h).frags = s.frags := rfl
@[simp] theorem State.modJob_cmds (s : State) (r : JobRef) (h : Job → Job) : (s.modJob r h).cmds = s.cmds := rfl
@[simp] theorem State.modJob_pools (s : State) (r : JobRef) (h : Job → Job) : (s.modJob r h).pools = s.pools := rfl
@[simp] theorem State.modJob_privQueue (s : State) (r : JobRef) (h : Job → Job) : (s.modJob r h).privQueue = s.privQueue := rfl
@[simp] theorem State.modJob_serial (s : State) (r : JobRef) (h : Job → Job) : (s.modJob r h).serial = s.serial := rfl
@[simp] theorem State.modJob_tlb (s : State) (r : JobRef) (h : Job → Job) : (s.modJob r h).tlb = s.tlb := rfl
@[simp] theorem State.modJob_tlbis (s : State) (r : JobRef) (h : Job → Job) : (s.modJob r h).tlbis = s.tlbis := rfl
@[simp] theorem State.modJob_keySlots (s : State) (r : JobRef) (h : Job → Job) : (s.modJob r h).keySlots = s.keySlots := rfl
@[simp] theorem State.modJob_contexts (s : State) (r : JobRef) (h : Job → Job) : (s.modJob r h).contexts = s.contexts := rfl
@[simp] theorem State.modJob_residency (s : State) (r : JobRef) (h : Job → Job) : (s.modJob r h).residency = s.residency := rfl
@[simp] theorem State.modJob_stops (s : State) (r : JobRef) (h : Job → Job) : (s.modJob r h).stops = s.stops := rfl
@[simp] theorem State.modJob_checkpoints (s : State) (r : JobRef) (h : Job → Job) : (s.modJob r h).checkpoints = s.checkpoints := rfl
@[simp] theorem State.modJob_armedRecs (s : State) (r : JobRef) (h : Job → Job) : (s.modJob r h).armedRecs = s.armedRecs := rfl
@[simp] theorem State.modJob_hartRegs (s : State) (r : JobRef) (h : Job → Job) : (s.modJob r h).hartRegs = s.hartRegs := rfl
@[simp] theorem State.modJob_hartFregs (s : State) (r : JobRef) (h : Job → Job) : (s.modJob r h).hartFregs = s.hartFregs := rfl
@[simp] theorem State.modJob_hartVregs (s : State) (r : JobRef) (h : Job → Job) : (s.modJob r h).hartVregs = s.hartVregs := rfl
@[simp] theorem State.modJob_hartCsrs (s : State) (r : JobRef) (h : Job → Job) : (s.modJob r h).hartCsrs = s.hartCsrs := rfl
@[simp] theorem State.modJob_hartPcs (s : State) (r : JobRef) (h : Job → Job) : (s.modJob r h).hartPcs = s.hartPcs := rfl
@[simp] theorem State.modJob_hartPeeks (s : State) (r : JobRef) (h : Job → Job) : (s.modJob r h).hartPeeks = s.hartPeeks := rfl
@[simp] theorem State.modJob_controlStore (s : State) (r : JobRef) (h : Job → Job) : (s.modJob r h).controlStore = s.controlStore := rfl
@[simp] theorem State.modJob_patchRam (s : State) (r : JobRef) (h : Job → Job) : (s.modJob r h).patchRam = s.patchRam := rfl
@[simp] theorem State.modJob_containers (s : State) (r : JobRef) (h : Job → Job) : (s.modJob r h).containers = s.containers := rfl
@[simp] theorem State.modJob_peerWins (s : State) (r : JobRef) (h : Job → Job) : (s.modJob r h).peerWins = s.peerWins := rfl
@[simp] theorem State.modJob_planes (s : State) (r : JobRef) (h : Job → Job) : (s.modJob r h).planes = s.planes := rfl
@[simp] theorem State.modJob_steering (s : State) (r : JobRef) (h : Job → Job) : (s.modJob r h).steering = s.steering := rfl
@[simp] theorem State.modJob_rings (s : State) (r : JobRef) (h : Job → Job) : (s.modJob r h).rings = s.rings := rfl
@[simp] theorem State.modJob_bindings (s : State) (r : JobRef) (h : Job → Job) : (s.modJob r h).bindings = s.bindings := rfl
@[simp] theorem State.modJob_reservations (s : State) (r : JobRef) (h : Job → Job) : (s.modJob r h).reservations = s.reservations := rfl
@[simp] theorem State.modJob_archMinor (s : State) (r : JobRef) (h : Job → Job) : (s.modJob r h).archMinor = s.archMinor := rfl
@[simp] theorem State.modJob_microcode (s : State) (r : JobRef) (h : Job → Job) : (s.modJob r h).microcode = s.microcode := rfl
@[simp] theorem State.modJob_firmware (s : State) (r : JobRef) (h : Job → Job) : (s.modJob r h).firmware = s.firmware := rfl
@[simp] theorem State.modJob_monitor (s : State) (r : JobRef) (h : Job → Job) : (s.modJob r h).monitor = s.monitor := rfl
@[simp] theorem State.modJob_trip (s : State) (r : JobRef) (h : Job → Job) : (s.modJob r h).trip = s.trip := rfl
@[simp] theorem State.modJob_reports (s : State) (r : JobRef) (h : Job → Job) : (s.modJob r h).reports = s.reports := rfl
@[simp] theorem State.modJob_results (s : State) (r : JobRef) (h : Job → Job) : (s.modJob r h).results = s.results := rfl

@[simp] theorem State.setDie_cycle (s : State) (x : Die) : (s.setDie x).cycle = s.cycle := rfl
@[simp] theorem State.setDie_fresh (s : State) (x : Die) : (s.setDie x).fresh = s.fresh := rfl
@[simp] theorem State.setDie_agenda (s : State) (x : Die) : (s.setDie x).agenda = s.agenda := rfl
@[simp] theorem State.setDie_cur (s : State) (x : Die) : (s.setDie x).cur = s.cur := rfl
@[simp] theorem State.setDie_issue (s : State) (x : Die) : (s.setDie x).issue = s.issue := rfl
@[simp] theorem State.setDie_mem (s : State) (x : Die) : (s.setDie x).mem = s.mem := rfl
@[simp] theorem State.setDie_lineKey (s : State) (x : Die) : (s.setDie x).lineKey = s.lineKey := rfl
@[simp] theorem State.setDie_hostMem (s : State) (x : Die) : (s.setDie x).hostMem = s.hostMem := rfl
@[simp] theorem State.setDie_peerMem (s : State) (x : Die) : (s.setDie x).peerMem = s.peerMem := rfl
@[simp] theorem State.setDie_remote (s : State) (x : Die) : (s.setDie x).remote = s.remote := rfl
@[simp] theorem State.setDie_dies (s : State) (x : Die) : (s.setDie x).dies = s.dies.map (fun y => if y.id = x.id then x else y) := rfl
@[simp] theorem State.setDie_parts (s : State) (x : Die) : (s.setDie x).parts = s.parts := rfl
@[simp] theorem State.setDie_jobs (s : State) (x : Die) : (s.setDie x).jobs = s.jobs := rfl
@[simp] theorem State.setDie_wgs (s : State) (x : Die) : (s.setDie x).wgs = s.wgs := rfl
@[simp] theorem State.setDie_waves (s : State) (x : Die) : (s.setDie x).waves = s.waves := rfl
@[simp] theorem State.setDie_frags (s : State) (x : Die) : (s.setDie x).frags = s.frags := rfl
@[simp] theorem State.setDie_cmds (s : State) (x : Die) : (s.setDie x).cmds = s.cmds := rfl
@[simp] theorem State.setDie_pools (s : State) (x : Die) : (s.setDie x).pools = s.pools := rfl
@[simp] theorem State.setDie_privQueue (s : State) (x : Die) : (s.setDie x).privQueue = s.privQueue := rfl
@[simp] theorem State.setDie_serial (s : State) (x : Die) : (s.setDie x).serial = s.serial := rfl
@[simp] theorem State.setDie_tlb (s : State) (x : Die) : (s.setDie x).tlb = s.tlb := rfl
@[simp] theorem State.setDie_tlbis (s : State) (x : Die) : (s.setDie x).tlbis = s.tlbis := rfl
@[simp] theorem State.setDie_keySlots (s : State) (x : Die) : (s.setDie x).keySlots = s.keySlots := rfl
@[simp] theorem State.setDie_contexts (s : State) (x : Die) : (s.setDie x).contexts = s.contexts := rfl
@[simp] theorem State.setDie_residency (s : State) (x : Die) : (s.setDie x).residency = s.residency := rfl
@[simp] theorem State.setDie_stops (s : State) (x : Die) : (s.setDie x).stops = s.stops := rfl
@[simp] theorem State.setDie_checkpoints (s : State) (x : Die) : (s.setDie x).checkpoints = s.checkpoints := rfl
@[simp] theorem State.setDie_armedRecs (s : State) (x : Die) : (s.setDie x).armedRecs = s.armedRecs := rfl
@[simp] theorem State.setDie_hartRegs (s : State) (x : Die) : (s.setDie x).hartRegs = s.hartRegs := rfl
@[simp] theorem State.setDie_hartFregs (s : State) (x : Die) : (s.setDie x).hartFregs = s.hartFregs := rfl
@[simp] theorem State.setDie_hartVregs (s : State) (x : Die) : (s.setDie x).hartVregs = s.hartVregs := rfl
@[simp] theorem State.setDie_hartCsrs (s : State) (x : Die) : (s.setDie x).hartCsrs = s.hartCsrs := rfl
@[simp] theorem State.setDie_hartPcs (s : State) (x : Die) : (s.setDie x).hartPcs = s.hartPcs := rfl
@[simp] theorem State.setDie_hartPeeks (s : State) (x : Die) : (s.setDie x).hartPeeks = s.hartPeeks := rfl
@[simp] theorem State.setDie_controlStore (s : State) (x : Die) : (s.setDie x).controlStore = s.controlStore := rfl
@[simp] theorem State.setDie_patchRam (s : State) (x : Die) : (s.setDie x).patchRam = s.patchRam := rfl
@[simp] theorem State.setDie_containers (s : State) (x : Die) : (s.setDie x).containers = s.containers := rfl
@[simp] theorem State.setDie_peerWins (s : State) (x : Die) : (s.setDie x).peerWins = s.peerWins := rfl
@[simp] theorem State.setDie_planes (s : State) (x : Die) : (s.setDie x).planes = s.planes := rfl
@[simp] theorem State.setDie_steering (s : State) (x : Die) : (s.setDie x).steering = s.steering := rfl
@[simp] theorem State.setDie_rings (s : State) (x : Die) : (s.setDie x).rings = s.rings := rfl
@[simp] theorem State.setDie_bindings (s : State) (x : Die) : (s.setDie x).bindings = s.bindings := rfl
@[simp] theorem State.setDie_reservations (s : State) (x : Die) : (s.setDie x).reservations = s.reservations := rfl
@[simp] theorem State.setDie_archMinor (s : State) (x : Die) : (s.setDie x).archMinor = s.archMinor := rfl
@[simp] theorem State.setDie_microcode (s : State) (x : Die) : (s.setDie x).microcode = s.microcode := rfl
@[simp] theorem State.setDie_firmware (s : State) (x : Die) : (s.setDie x).firmware = s.firmware := rfl
@[simp] theorem State.setDie_monitor (s : State) (x : Die) : (s.setDie x).monitor = s.monitor := rfl
@[simp] theorem State.setDie_trip (s : State) (x : Die) : (s.setDie x).trip = s.trip := rfl
@[simp] theorem State.setDie_reports (s : State) (x : Die) : (s.setDie x).reports = s.reports := rfl
@[simp] theorem State.setDie_results (s : State) (x : Die) : (s.setDie x).results = s.results := rfl

@[simp] theorem State.modDie_cycle (s : State) (r : Nat) (h : Die → Die) : (s.modDie r h).cycle = s.cycle := rfl
@[simp] theorem State.modDie_fresh (s : State) (r : Nat) (h : Die → Die) : (s.modDie r h).fresh = s.fresh := rfl
@[simp] theorem State.modDie_agenda (s : State) (r : Nat) (h : Die → Die) : (s.modDie r h).agenda = s.agenda := rfl
@[simp] theorem State.modDie_cur (s : State) (r : Nat) (h : Die → Die) : (s.modDie r h).cur = s.cur := rfl
@[simp] theorem State.modDie_issue (s : State) (r : Nat) (h : Die → Die) : (s.modDie r h).issue = s.issue := rfl
@[simp] theorem State.modDie_mem (s : State) (r : Nat) (h : Die → Die) : (s.modDie r h).mem = s.mem := rfl
@[simp] theorem State.modDie_lineKey (s : State) (r : Nat) (h : Die → Die) : (s.modDie r h).lineKey = s.lineKey := rfl
@[simp] theorem State.modDie_hostMem (s : State) (r : Nat) (h : Die → Die) : (s.modDie r h).hostMem = s.hostMem := rfl
@[simp] theorem State.modDie_peerMem (s : State) (r : Nat) (h : Die → Die) : (s.modDie r h).peerMem = s.peerMem := rfl
@[simp] theorem State.modDie_remote (s : State) (r : Nat) (h : Die → Die) : (s.modDie r h).remote = s.remote := rfl
@[simp] theorem State.modDie_dies (s : State) (r : Nat) (h : Die → Die) : (s.modDie r h).dies = s.dies.map (fun y => if y.id = r then h y else y) := rfl
@[simp] theorem State.modDie_parts (s : State) (r : Nat) (h : Die → Die) : (s.modDie r h).parts = s.parts := rfl
@[simp] theorem State.modDie_jobs (s : State) (r : Nat) (h : Die → Die) : (s.modDie r h).jobs = s.jobs := rfl
@[simp] theorem State.modDie_wgs (s : State) (r : Nat) (h : Die → Die) : (s.modDie r h).wgs = s.wgs := rfl
@[simp] theorem State.modDie_waves (s : State) (r : Nat) (h : Die → Die) : (s.modDie r h).waves = s.waves := rfl
@[simp] theorem State.modDie_frags (s : State) (r : Nat) (h : Die → Die) : (s.modDie r h).frags = s.frags := rfl
@[simp] theorem State.modDie_cmds (s : State) (r : Nat) (h : Die → Die) : (s.modDie r h).cmds = s.cmds := rfl
@[simp] theorem State.modDie_pools (s : State) (r : Nat) (h : Die → Die) : (s.modDie r h).pools = s.pools := rfl
@[simp] theorem State.modDie_privQueue (s : State) (r : Nat) (h : Die → Die) : (s.modDie r h).privQueue = s.privQueue := rfl
@[simp] theorem State.modDie_serial (s : State) (r : Nat) (h : Die → Die) : (s.modDie r h).serial = s.serial := rfl
@[simp] theorem State.modDie_tlb (s : State) (r : Nat) (h : Die → Die) : (s.modDie r h).tlb = s.tlb := rfl
@[simp] theorem State.modDie_tlbis (s : State) (r : Nat) (h : Die → Die) : (s.modDie r h).tlbis = s.tlbis := rfl
@[simp] theorem State.modDie_keySlots (s : State) (r : Nat) (h : Die → Die) : (s.modDie r h).keySlots = s.keySlots := rfl
@[simp] theorem State.modDie_contexts (s : State) (r : Nat) (h : Die → Die) : (s.modDie r h).contexts = s.contexts := rfl
@[simp] theorem State.modDie_residency (s : State) (r : Nat) (h : Die → Die) : (s.modDie r h).residency = s.residency := rfl
@[simp] theorem State.modDie_stops (s : State) (r : Nat) (h : Die → Die) : (s.modDie r h).stops = s.stops := rfl
@[simp] theorem State.modDie_checkpoints (s : State) (r : Nat) (h : Die → Die) : (s.modDie r h).checkpoints = s.checkpoints := rfl
@[simp] theorem State.modDie_armedRecs (s : State) (r : Nat) (h : Die → Die) : (s.modDie r h).armedRecs = s.armedRecs := rfl
@[simp] theorem State.modDie_hartRegs (s : State) (r : Nat) (h : Die → Die) : (s.modDie r h).hartRegs = s.hartRegs := rfl
@[simp] theorem State.modDie_hartFregs (s : State) (r : Nat) (h : Die → Die) : (s.modDie r h).hartFregs = s.hartFregs := rfl
@[simp] theorem State.modDie_hartVregs (s : State) (r : Nat) (h : Die → Die) : (s.modDie r h).hartVregs = s.hartVregs := rfl
@[simp] theorem State.modDie_hartCsrs (s : State) (r : Nat) (h : Die → Die) : (s.modDie r h).hartCsrs = s.hartCsrs := rfl
@[simp] theorem State.modDie_hartPcs (s : State) (r : Nat) (h : Die → Die) : (s.modDie r h).hartPcs = s.hartPcs := rfl
@[simp] theorem State.modDie_hartPeeks (s : State) (r : Nat) (h : Die → Die) : (s.modDie r h).hartPeeks = s.hartPeeks := rfl
@[simp] theorem State.modDie_controlStore (s : State) (r : Nat) (h : Die → Die) : (s.modDie r h).controlStore = s.controlStore := rfl
@[simp] theorem State.modDie_patchRam (s : State) (r : Nat) (h : Die → Die) : (s.modDie r h).patchRam = s.patchRam := rfl
@[simp] theorem State.modDie_containers (s : State) (r : Nat) (h : Die → Die) : (s.modDie r h).containers = s.containers := rfl
@[simp] theorem State.modDie_peerWins (s : State) (r : Nat) (h : Die → Die) : (s.modDie r h).peerWins = s.peerWins := rfl
@[simp] theorem State.modDie_planes (s : State) (r : Nat) (h : Die → Die) : (s.modDie r h).planes = s.planes := rfl
@[simp] theorem State.modDie_steering (s : State) (r : Nat) (h : Die → Die) : (s.modDie r h).steering = s.steering := rfl
@[simp] theorem State.modDie_rings (s : State) (r : Nat) (h : Die → Die) : (s.modDie r h).rings = s.rings := rfl
@[simp] theorem State.modDie_bindings (s : State) (r : Nat) (h : Die → Die) : (s.modDie r h).bindings = s.bindings := rfl
@[simp] theorem State.modDie_reservations (s : State) (r : Nat) (h : Die → Die) : (s.modDie r h).reservations = s.reservations := rfl
@[simp] theorem State.modDie_archMinor (s : State) (r : Nat) (h : Die → Die) : (s.modDie r h).archMinor = s.archMinor := rfl
@[simp] theorem State.modDie_microcode (s : State) (r : Nat) (h : Die → Die) : (s.modDie r h).microcode = s.microcode := rfl
@[simp] theorem State.modDie_firmware (s : State) (r : Nat) (h : Die → Die) : (s.modDie r h).firmware = s.firmware := rfl
@[simp] theorem State.modDie_monitor (s : State) (r : Nat) (h : Die → Die) : (s.modDie r h).monitor = s.monitor := rfl
@[simp] theorem State.modDie_trip (s : State) (r : Nat) (h : Die → Die) : (s.modDie r h).trip = s.trip := rfl
@[simp] theorem State.modDie_reports (s : State) (r : Nat) (h : Die → Die) : (s.modDie r h).reports = s.reports := rfl
@[simp] theorem State.modDie_results (s : State) (r : Nat) (h : Die → Die) : (s.modDie r h).results = s.results := rfl

@[simp] theorem State.setPart_cycle (s : State) (x : Part) : (s.setPart x).cycle = s.cycle := rfl
@[simp] theorem State.setPart_fresh (s : State) (x : Part) : (s.setPart x).fresh = s.fresh := rfl
@[simp] theorem State.setPart_agenda (s : State) (x : Part) : (s.setPart x).agenda = s.agenda := rfl
@[simp] theorem State.setPart_cur (s : State) (x : Part) : (s.setPart x).cur = s.cur := rfl
@[simp] theorem State.setPart_issue (s : State) (x : Part) : (s.setPart x).issue = s.issue := rfl
@[simp] theorem State.setPart_mem (s : State) (x : Part) : (s.setPart x).mem = s.mem := rfl
@[simp] theorem State.setPart_lineKey (s : State) (x : Part) : (s.setPart x).lineKey = s.lineKey := rfl
@[simp] theorem State.setPart_hostMem (s : State) (x : Part) : (s.setPart x).hostMem = s.hostMem := rfl
@[simp] theorem State.setPart_peerMem (s : State) (x : Part) : (s.setPart x).peerMem = s.peerMem := rfl
@[simp] theorem State.setPart_remote (s : State) (x : Part) : (s.setPart x).remote = s.remote := rfl
@[simp] theorem State.setPart_dies (s : State) (x : Part) : (s.setPart x).dies = s.dies := rfl
@[simp] theorem State.setPart_parts (s : State) (x : Part) : (s.setPart x).parts = s.parts.map (fun y => if y.id = x.id then x else y) := rfl
@[simp] theorem State.setPart_jobs (s : State) (x : Part) : (s.setPart x).jobs = s.jobs := rfl
@[simp] theorem State.setPart_wgs (s : State) (x : Part) : (s.setPart x).wgs = s.wgs := rfl
@[simp] theorem State.setPart_waves (s : State) (x : Part) : (s.setPart x).waves = s.waves := rfl
@[simp] theorem State.setPart_frags (s : State) (x : Part) : (s.setPart x).frags = s.frags := rfl
@[simp] theorem State.setPart_cmds (s : State) (x : Part) : (s.setPart x).cmds = s.cmds := rfl
@[simp] theorem State.setPart_pools (s : State) (x : Part) : (s.setPart x).pools = s.pools := rfl
@[simp] theorem State.setPart_privQueue (s : State) (x : Part) : (s.setPart x).privQueue = s.privQueue := rfl
@[simp] theorem State.setPart_serial (s : State) (x : Part) : (s.setPart x).serial = s.serial := rfl
@[simp] theorem State.setPart_tlb (s : State) (x : Part) : (s.setPart x).tlb = s.tlb := rfl
@[simp] theorem State.setPart_tlbis (s : State) (x : Part) : (s.setPart x).tlbis = s.tlbis := rfl
@[simp] theorem State.setPart_keySlots (s : State) (x : Part) : (s.setPart x).keySlots = s.keySlots := rfl
@[simp] theorem State.setPart_contexts (s : State) (x : Part) : (s.setPart x).contexts = s.contexts := rfl
@[simp] theorem State.setPart_residency (s : State) (x : Part) : (s.setPart x).residency = s.residency := rfl
@[simp] theorem State.setPart_stops (s : State) (x : Part) : (s.setPart x).stops = s.stops := rfl
@[simp] theorem State.setPart_checkpoints (s : State) (x : Part) : (s.setPart x).checkpoints = s.checkpoints := rfl
@[simp] theorem State.setPart_armedRecs (s : State) (x : Part) : (s.setPart x).armedRecs = s.armedRecs := rfl
@[simp] theorem State.setPart_hartRegs (s : State) (x : Part) : (s.setPart x).hartRegs = s.hartRegs := rfl
@[simp] theorem State.setPart_hartFregs (s : State) (x : Part) : (s.setPart x).hartFregs = s.hartFregs := rfl
@[simp] theorem State.setPart_hartVregs (s : State) (x : Part) : (s.setPart x).hartVregs = s.hartVregs := rfl
@[simp] theorem State.setPart_hartCsrs (s : State) (x : Part) : (s.setPart x).hartCsrs = s.hartCsrs := rfl
@[simp] theorem State.setPart_hartPcs (s : State) (x : Part) : (s.setPart x).hartPcs = s.hartPcs := rfl
@[simp] theorem State.setPart_hartPeeks (s : State) (x : Part) : (s.setPart x).hartPeeks = s.hartPeeks := rfl
@[simp] theorem State.setPart_controlStore (s : State) (x : Part) : (s.setPart x).controlStore = s.controlStore := rfl
@[simp] theorem State.setPart_patchRam (s : State) (x : Part) : (s.setPart x).patchRam = s.patchRam := rfl
@[simp] theorem State.setPart_containers (s : State) (x : Part) : (s.setPart x).containers = s.containers := rfl
@[simp] theorem State.setPart_peerWins (s : State) (x : Part) : (s.setPart x).peerWins = s.peerWins := rfl
@[simp] theorem State.setPart_planes (s : State) (x : Part) : (s.setPart x).planes = s.planes := rfl
@[simp] theorem State.setPart_steering (s : State) (x : Part) : (s.setPart x).steering = s.steering := rfl
@[simp] theorem State.setPart_rings (s : State) (x : Part) : (s.setPart x).rings = s.rings := rfl
@[simp] theorem State.setPart_bindings (s : State) (x : Part) : (s.setPart x).bindings = s.bindings := rfl
@[simp] theorem State.setPart_reservations (s : State) (x : Part) : (s.setPart x).reservations = s.reservations := rfl
@[simp] theorem State.setPart_archMinor (s : State) (x : Part) : (s.setPart x).archMinor = s.archMinor := rfl
@[simp] theorem State.setPart_microcode (s : State) (x : Part) : (s.setPart x).microcode = s.microcode := rfl
@[simp] theorem State.setPart_firmware (s : State) (x : Part) : (s.setPart x).firmware = s.firmware := rfl
@[simp] theorem State.setPart_monitor (s : State) (x : Part) : (s.setPart x).monitor = s.monitor := rfl
@[simp] theorem State.setPart_trip (s : State) (x : Part) : (s.setPart x).trip = s.trip := rfl
@[simp] theorem State.setPart_reports (s : State) (x : Part) : (s.setPart x).reports = s.reports := rfl
@[simp] theorem State.setPart_results (s : State) (x : Part) : (s.setPart x).results = s.results := rfl

@[simp] theorem State.modPart_cycle (s : State) (r : Nat) (h : Part → Part) : (s.modPart r h).cycle = s.cycle := rfl
@[simp] theorem State.modPart_fresh (s : State) (r : Nat) (h : Part → Part) : (s.modPart r h).fresh = s.fresh := rfl
@[simp] theorem State.modPart_agenda (s : State) (r : Nat) (h : Part → Part) : (s.modPart r h).agenda = s.agenda := rfl
@[simp] theorem State.modPart_cur (s : State) (r : Nat) (h : Part → Part) : (s.modPart r h).cur = s.cur := rfl
@[simp] theorem State.modPart_issue (s : State) (r : Nat) (h : Part → Part) : (s.modPart r h).issue = s.issue := rfl
@[simp] theorem State.modPart_mem (s : State) (r : Nat) (h : Part → Part) : (s.modPart r h).mem = s.mem := rfl
@[simp] theorem State.modPart_lineKey (s : State) (r : Nat) (h : Part → Part) : (s.modPart r h).lineKey = s.lineKey := rfl
@[simp] theorem State.modPart_hostMem (s : State) (r : Nat) (h : Part → Part) : (s.modPart r h).hostMem = s.hostMem := rfl
@[simp] theorem State.modPart_peerMem (s : State) (r : Nat) (h : Part → Part) : (s.modPart r h).peerMem = s.peerMem := rfl
@[simp] theorem State.modPart_remote (s : State) (r : Nat) (h : Part → Part) : (s.modPart r h).remote = s.remote := rfl
@[simp] theorem State.modPart_dies (s : State) (r : Nat) (h : Part → Part) : (s.modPart r h).dies = s.dies := rfl
@[simp] theorem State.modPart_parts (s : State) (r : Nat) (h : Part → Part) : (s.modPart r h).parts = s.parts.map (fun y => if y.id = r then h y else y) := rfl
@[simp] theorem State.modPart_jobs (s : State) (r : Nat) (h : Part → Part) : (s.modPart r h).jobs = s.jobs := rfl
@[simp] theorem State.modPart_wgs (s : State) (r : Nat) (h : Part → Part) : (s.modPart r h).wgs = s.wgs := rfl
@[simp] theorem State.modPart_waves (s : State) (r : Nat) (h : Part → Part) : (s.modPart r h).waves = s.waves := rfl
@[simp] theorem State.modPart_frags (s : State) (r : Nat) (h : Part → Part) : (s.modPart r h).frags = s.frags := rfl
@[simp] theorem State.modPart_cmds (s : State) (r : Nat) (h : Part → Part) : (s.modPart r h).cmds = s.cmds := rfl
@[simp] theorem State.modPart_pools (s : State) (r : Nat) (h : Part → Part) : (s.modPart r h).pools = s.pools := rfl
@[simp] theorem State.modPart_privQueue (s : State) (r : Nat) (h : Part → Part) : (s.modPart r h).privQueue = s.privQueue := rfl
@[simp] theorem State.modPart_serial (s : State) (r : Nat) (h : Part → Part) : (s.modPart r h).serial = s.serial := rfl
@[simp] theorem State.modPart_tlb (s : State) (r : Nat) (h : Part → Part) : (s.modPart r h).tlb = s.tlb := rfl
@[simp] theorem State.modPart_tlbis (s : State) (r : Nat) (h : Part → Part) : (s.modPart r h).tlbis = s.tlbis := rfl
@[simp] theorem State.modPart_keySlots (s : State) (r : Nat) (h : Part → Part) : (s.modPart r h).keySlots = s.keySlots := rfl
@[simp] theorem State.modPart_contexts (s : State) (r : Nat) (h : Part → Part) : (s.modPart r h).contexts = s.contexts := rfl
@[simp] theorem State.modPart_residency (s : State) (r : Nat) (h : Part → Part) : (s.modPart r h).residency = s.residency := rfl
@[simp] theorem State.modPart_stops (s : State) (r : Nat) (h : Part → Part) : (s.modPart r h).stops = s.stops := rfl
@[simp] theorem State.modPart_checkpoints (s : State) (r : Nat) (h : Part → Part) : (s.modPart r h).checkpoints = s.checkpoints := rfl
@[simp] theorem State.modPart_armedRecs (s : State) (r : Nat) (h : Part → Part) : (s.modPart r h).armedRecs = s.armedRecs := rfl
@[simp] theorem State.modPart_hartRegs (s : State) (r : Nat) (h : Part → Part) : (s.modPart r h).hartRegs = s.hartRegs := rfl
@[simp] theorem State.modPart_hartFregs (s : State) (r : Nat) (h : Part → Part) : (s.modPart r h).hartFregs = s.hartFregs := rfl
@[simp] theorem State.modPart_hartVregs (s : State) (r : Nat) (h : Part → Part) : (s.modPart r h).hartVregs = s.hartVregs := rfl
@[simp] theorem State.modPart_hartCsrs (s : State) (r : Nat) (h : Part → Part) : (s.modPart r h).hartCsrs = s.hartCsrs := rfl
@[simp] theorem State.modPart_hartPcs (s : State) (r : Nat) (h : Part → Part) : (s.modPart r h).hartPcs = s.hartPcs := rfl
@[simp] theorem State.modPart_hartPeeks (s : State) (r : Nat) (h : Part → Part) : (s.modPart r h).hartPeeks = s.hartPeeks := rfl
@[simp] theorem State.modPart_controlStore (s : State) (r : Nat) (h : Part → Part) : (s.modPart r h).controlStore = s.controlStore := rfl
@[simp] theorem State.modPart_patchRam (s : State) (r : Nat) (h : Part → Part) : (s.modPart r h).patchRam = s.patchRam := rfl
@[simp] theorem State.modPart_containers (s : State) (r : Nat) (h : Part → Part) : (s.modPart r h).containers = s.containers := rfl
@[simp] theorem State.modPart_peerWins (s : State) (r : Nat) (h : Part → Part) : (s.modPart r h).peerWins = s.peerWins := rfl
@[simp] theorem State.modPart_planes (s : State) (r : Nat) (h : Part → Part) : (s.modPart r h).planes = s.planes := rfl
@[simp] theorem State.modPart_steering (s : State) (r : Nat) (h : Part → Part) : (s.modPart r h).steering = s.steering := rfl
@[simp] theorem State.modPart_rings (s : State) (r : Nat) (h : Part → Part) : (s.modPart r h).rings = s.rings := rfl
@[simp] theorem State.modPart_bindings (s : State) (r : Nat) (h : Part → Part) : (s.modPart r h).bindings = s.bindings := rfl
@[simp] theorem State.modPart_reservations (s : State) (r : Nat) (h : Part → Part) : (s.modPart r h).reservations = s.reservations := rfl
@[simp] theorem State.modPart_archMinor (s : State) (r : Nat) (h : Part → Part) : (s.modPart r h).archMinor = s.archMinor := rfl
@[simp] theorem State.modPart_microcode (s : State) (r : Nat) (h : Part → Part) : (s.modPart r h).microcode = s.microcode := rfl
@[simp] theorem State.modPart_firmware (s : State) (r : Nat) (h : Part → Part) : (s.modPart r h).firmware = s.firmware := rfl
@[simp] theorem State.modPart_monitor (s : State) (r : Nat) (h : Part → Part) : (s.modPart r h).monitor = s.monitor := rfl
@[simp] theorem State.modPart_trip (s : State) (r : Nat) (h : Part → Part) : (s.modPart r h).trip = s.trip := rfl
@[simp] theorem State.modPart_reports (s : State) (r : Nat) (h : Part → Part) : (s.modPart r h).reports = s.reports := rfl
@[simp] theorem State.modPart_results (s : State) (r : Nat) (h : Part → Part) : (s.modPart r h).results = s.results := rfl

@[simp] theorem State.setCmd_cycle (s : State) (x : Cmd) : (s.setCmd x).cycle = s.cycle := rfl
@[simp] theorem State.setCmd_fresh (s : State) (x : Cmd) : (s.setCmd x).fresh = s.fresh := rfl
@[simp] theorem State.setCmd_agenda (s : State) (x : Cmd) : (s.setCmd x).agenda = s.agenda := rfl
@[simp] theorem State.setCmd_cur (s : State) (x : Cmd) : (s.setCmd x).cur = s.cur := rfl
@[simp] theorem State.setCmd_issue (s : State) (x : Cmd) : (s.setCmd x).issue = s.issue := rfl
@[simp] theorem State.setCmd_mem (s : State) (x : Cmd) : (s.setCmd x).mem = s.mem := rfl
@[simp] theorem State.setCmd_lineKey (s : State) (x : Cmd) : (s.setCmd x).lineKey = s.lineKey := rfl
@[simp] theorem State.setCmd_hostMem (s : State) (x : Cmd) : (s.setCmd x).hostMem = s.hostMem := rfl
@[simp] theorem State.setCmd_peerMem (s : State) (x : Cmd) : (s.setCmd x).peerMem = s.peerMem := rfl
@[simp] theorem State.setCmd_remote (s : State) (x : Cmd) : (s.setCmd x).remote = s.remote := rfl
@[simp] theorem State.setCmd_dies (s : State) (x : Cmd) : (s.setCmd x).dies = s.dies := rfl
@[simp] theorem State.setCmd_parts (s : State) (x : Cmd) : (s.setCmd x).parts = s.parts := rfl
@[simp] theorem State.setCmd_jobs (s : State) (x : Cmd) : (s.setCmd x).jobs = s.jobs := rfl
@[simp] theorem State.setCmd_wgs (s : State) (x : Cmd) : (s.setCmd x).wgs = s.wgs := rfl
@[simp] theorem State.setCmd_waves (s : State) (x : Cmd) : (s.setCmd x).waves = s.waves := rfl
@[simp] theorem State.setCmd_frags (s : State) (x : Cmd) : (s.setCmd x).frags = s.frags := rfl
@[simp] theorem State.setCmd_cmds (s : State) (x : Cmd) : (s.setCmd x).cmds = s.cmds.map (fun y => if y.id = x.id then x else y) := rfl
@[simp] theorem State.setCmd_pools (s : State) (x : Cmd) : (s.setCmd x).pools = s.pools := rfl
@[simp] theorem State.setCmd_privQueue (s : State) (x : Cmd) : (s.setCmd x).privQueue = s.privQueue := rfl
@[simp] theorem State.setCmd_serial (s : State) (x : Cmd) : (s.setCmd x).serial = s.serial := rfl
@[simp] theorem State.setCmd_tlb (s : State) (x : Cmd) : (s.setCmd x).tlb = s.tlb := rfl
@[simp] theorem State.setCmd_tlbis (s : State) (x : Cmd) : (s.setCmd x).tlbis = s.tlbis := rfl
@[simp] theorem State.setCmd_keySlots (s : State) (x : Cmd) : (s.setCmd x).keySlots = s.keySlots := rfl
@[simp] theorem State.setCmd_contexts (s : State) (x : Cmd) : (s.setCmd x).contexts = s.contexts := rfl
@[simp] theorem State.setCmd_residency (s : State) (x : Cmd) : (s.setCmd x).residency = s.residency := rfl
@[simp] theorem State.setCmd_stops (s : State) (x : Cmd) : (s.setCmd x).stops = s.stops := rfl
@[simp] theorem State.setCmd_checkpoints (s : State) (x : Cmd) : (s.setCmd x).checkpoints = s.checkpoints := rfl
@[simp] theorem State.setCmd_armedRecs (s : State) (x : Cmd) : (s.setCmd x).armedRecs = s.armedRecs := rfl
@[simp] theorem State.setCmd_hartRegs (s : State) (x : Cmd) : (s.setCmd x).hartRegs = s.hartRegs := rfl
@[simp] theorem State.setCmd_hartFregs (s : State) (x : Cmd) : (s.setCmd x).hartFregs = s.hartFregs := rfl
@[simp] theorem State.setCmd_hartVregs (s : State) (x : Cmd) : (s.setCmd x).hartVregs = s.hartVregs := rfl
@[simp] theorem State.setCmd_hartCsrs (s : State) (x : Cmd) : (s.setCmd x).hartCsrs = s.hartCsrs := rfl
@[simp] theorem State.setCmd_hartPcs (s : State) (x : Cmd) : (s.setCmd x).hartPcs = s.hartPcs := rfl
@[simp] theorem State.setCmd_hartPeeks (s : State) (x : Cmd) : (s.setCmd x).hartPeeks = s.hartPeeks := rfl
@[simp] theorem State.setCmd_controlStore (s : State) (x : Cmd) : (s.setCmd x).controlStore = s.controlStore := rfl
@[simp] theorem State.setCmd_patchRam (s : State) (x : Cmd) : (s.setCmd x).patchRam = s.patchRam := rfl
@[simp] theorem State.setCmd_containers (s : State) (x : Cmd) : (s.setCmd x).containers = s.containers := rfl
@[simp] theorem State.setCmd_peerWins (s : State) (x : Cmd) : (s.setCmd x).peerWins = s.peerWins := rfl
@[simp] theorem State.setCmd_planes (s : State) (x : Cmd) : (s.setCmd x).planes = s.planes := rfl
@[simp] theorem State.setCmd_steering (s : State) (x : Cmd) : (s.setCmd x).steering = s.steering := rfl
@[simp] theorem State.setCmd_rings (s : State) (x : Cmd) : (s.setCmd x).rings = s.rings := rfl
@[simp] theorem State.setCmd_bindings (s : State) (x : Cmd) : (s.setCmd x).bindings = s.bindings := rfl
@[simp] theorem State.setCmd_reservations (s : State) (x : Cmd) : (s.setCmd x).reservations = s.reservations := rfl
@[simp] theorem State.setCmd_archMinor (s : State) (x : Cmd) : (s.setCmd x).archMinor = s.archMinor := rfl
@[simp] theorem State.setCmd_microcode (s : State) (x : Cmd) : (s.setCmd x).microcode = s.microcode := rfl
@[simp] theorem State.setCmd_firmware (s : State) (x : Cmd) : (s.setCmd x).firmware = s.firmware := rfl
@[simp] theorem State.setCmd_monitor (s : State) (x : Cmd) : (s.setCmd x).monitor = s.monitor := rfl
@[simp] theorem State.setCmd_trip (s : State) (x : Cmd) : (s.setCmd x).trip = s.trip := rfl
@[simp] theorem State.setCmd_reports (s : State) (x : Cmd) : (s.setCmd x).reports = s.reports := rfl
@[simp] theorem State.setCmd_results (s : State) (x : Cmd) : (s.setCmd x).results = s.results := rfl

@[simp] theorem State.modCmd_cycle (s : State) (r : Nat) (h : Cmd → Cmd) : (s.modCmd r h).cycle = s.cycle := rfl
@[simp] theorem State.modCmd_fresh (s : State) (r : Nat) (h : Cmd → Cmd) : (s.modCmd r h).fresh = s.fresh := rfl
@[simp] theorem State.modCmd_agenda (s : State) (r : Nat) (h : Cmd → Cmd) : (s.modCmd r h).agenda = s.agenda := rfl
@[simp] theorem State.modCmd_cur (s : State) (r : Nat) (h : Cmd → Cmd) : (s.modCmd r h).cur = s.cur := rfl
@[simp] theorem State.modCmd_issue (s : State) (r : Nat) (h : Cmd → Cmd) : (s.modCmd r h).issue = s.issue := rfl
@[simp] theorem State.modCmd_mem (s : State) (r : Nat) (h : Cmd → Cmd) : (s.modCmd r h).mem = s.mem := rfl
@[simp] theorem State.modCmd_lineKey (s : State) (r : Nat) (h : Cmd → Cmd) : (s.modCmd r h).lineKey = s.lineKey := rfl
@[simp] theorem State.modCmd_hostMem (s : State) (r : Nat) (h : Cmd → Cmd) : (s.modCmd r h).hostMem = s.hostMem := rfl
@[simp] theorem State.modCmd_peerMem (s : State) (r : Nat) (h : Cmd → Cmd) : (s.modCmd r h).peerMem = s.peerMem := rfl
@[simp] theorem State.modCmd_remote (s : State) (r : Nat) (h : Cmd → Cmd) : (s.modCmd r h).remote = s.remote := rfl
@[simp] theorem State.modCmd_dies (s : State) (r : Nat) (h : Cmd → Cmd) : (s.modCmd r h).dies = s.dies := rfl
@[simp] theorem State.modCmd_parts (s : State) (r : Nat) (h : Cmd → Cmd) : (s.modCmd r h).parts = s.parts := rfl
@[simp] theorem State.modCmd_jobs (s : State) (r : Nat) (h : Cmd → Cmd) : (s.modCmd r h).jobs = s.jobs := rfl
@[simp] theorem State.modCmd_wgs (s : State) (r : Nat) (h : Cmd → Cmd) : (s.modCmd r h).wgs = s.wgs := rfl
@[simp] theorem State.modCmd_waves (s : State) (r : Nat) (h : Cmd → Cmd) : (s.modCmd r h).waves = s.waves := rfl
@[simp] theorem State.modCmd_frags (s : State) (r : Nat) (h : Cmd → Cmd) : (s.modCmd r h).frags = s.frags := rfl
@[simp] theorem State.modCmd_cmds (s : State) (r : Nat) (h : Cmd → Cmd) : (s.modCmd r h).cmds = s.cmds.map (fun y => if y.id = r then h y else y) := rfl
@[simp] theorem State.modCmd_pools (s : State) (r : Nat) (h : Cmd → Cmd) : (s.modCmd r h).pools = s.pools := rfl
@[simp] theorem State.modCmd_privQueue (s : State) (r : Nat) (h : Cmd → Cmd) : (s.modCmd r h).privQueue = s.privQueue := rfl
@[simp] theorem State.modCmd_serial (s : State) (r : Nat) (h : Cmd → Cmd) : (s.modCmd r h).serial = s.serial := rfl
@[simp] theorem State.modCmd_tlb (s : State) (r : Nat) (h : Cmd → Cmd) : (s.modCmd r h).tlb = s.tlb := rfl
@[simp] theorem State.modCmd_tlbis (s : State) (r : Nat) (h : Cmd → Cmd) : (s.modCmd r h).tlbis = s.tlbis := rfl
@[simp] theorem State.modCmd_keySlots (s : State) (r : Nat) (h : Cmd → Cmd) : (s.modCmd r h).keySlots = s.keySlots := rfl
@[simp] theorem State.modCmd_contexts (s : State) (r : Nat) (h : Cmd → Cmd) : (s.modCmd r h).contexts = s.contexts := rfl
@[simp] theorem State.modCmd_residency (s : State) (r : Nat) (h : Cmd → Cmd) : (s.modCmd r h).residency = s.residency := rfl
@[simp] theorem State.modCmd_stops (s : State) (r : Nat) (h : Cmd → Cmd) : (s.modCmd r h).stops = s.stops := rfl
@[simp] theorem State.modCmd_checkpoints (s : State) (r : Nat) (h : Cmd → Cmd) : (s.modCmd r h).checkpoints = s.checkpoints := rfl
@[simp] theorem State.modCmd_armedRecs (s : State) (r : Nat) (h : Cmd → Cmd) : (s.modCmd r h).armedRecs = s.armedRecs := rfl
@[simp] theorem State.modCmd_hartRegs (s : State) (r : Nat) (h : Cmd → Cmd) : (s.modCmd r h).hartRegs = s.hartRegs := rfl
@[simp] theorem State.modCmd_hartFregs (s : State) (r : Nat) (h : Cmd → Cmd) : (s.modCmd r h).hartFregs = s.hartFregs := rfl
@[simp] theorem State.modCmd_hartVregs (s : State) (r : Nat) (h : Cmd → Cmd) : (s.modCmd r h).hartVregs = s.hartVregs := rfl
@[simp] theorem State.modCmd_hartCsrs (s : State) (r : Nat) (h : Cmd → Cmd) : (s.modCmd r h).hartCsrs = s.hartCsrs := rfl
@[simp] theorem State.modCmd_hartPcs (s : State) (r : Nat) (h : Cmd → Cmd) : (s.modCmd r h).hartPcs = s.hartPcs := rfl
@[simp] theorem State.modCmd_hartPeeks (s : State) (r : Nat) (h : Cmd → Cmd) : (s.modCmd r h).hartPeeks = s.hartPeeks := rfl
@[simp] theorem State.modCmd_controlStore (s : State) (r : Nat) (h : Cmd → Cmd) : (s.modCmd r h).controlStore = s.controlStore := rfl
@[simp] theorem State.modCmd_patchRam (s : State) (r : Nat) (h : Cmd → Cmd) : (s.modCmd r h).patchRam = s.patchRam := rfl
@[simp] theorem State.modCmd_containers (s : State) (r : Nat) (h : Cmd → Cmd) : (s.modCmd r h).containers = s.containers := rfl
@[simp] theorem State.modCmd_peerWins (s : State) (r : Nat) (h : Cmd → Cmd) : (s.modCmd r h).peerWins = s.peerWins := rfl
@[simp] theorem State.modCmd_planes (s : State) (r : Nat) (h : Cmd → Cmd) : (s.modCmd r h).planes = s.planes := rfl
@[simp] theorem State.modCmd_steering (s : State) (r : Nat) (h : Cmd → Cmd) : (s.modCmd r h).steering = s.steering := rfl
@[simp] theorem State.modCmd_rings (s : State) (r : Nat) (h : Cmd → Cmd) : (s.modCmd r h).rings = s.rings := rfl
@[simp] theorem State.modCmd_bindings (s : State) (r : Nat) (h : Cmd → Cmd) : (s.modCmd r h).bindings = s.bindings := rfl
@[simp] theorem State.modCmd_reservations (s : State) (r : Nat) (h : Cmd → Cmd) : (s.modCmd r h).reservations = s.reservations := rfl
@[simp] theorem State.modCmd_archMinor (s : State) (r : Nat) (h : Cmd → Cmd) : (s.modCmd r h).archMinor = s.archMinor := rfl
@[simp] theorem State.modCmd_microcode (s : State) (r : Nat) (h : Cmd → Cmd) : (s.modCmd r h).microcode = s.microcode := rfl
@[simp] theorem State.modCmd_firmware (s : State) (r : Nat) (h : Cmd → Cmd) : (s.modCmd r h).firmware = s.firmware := rfl
@[simp] theorem State.modCmd_monitor (s : State) (r : Nat) (h : Cmd → Cmd) : (s.modCmd r h).monitor = s.monitor := rfl
@[simp] theorem State.modCmd_trip (s : State) (r : Nat) (h : Cmd → Cmd) : (s.modCmd r h).trip = s.trip := rfl
@[simp] theorem State.modCmd_reports (s : State) (r : Nat) (h : Cmd → Cmd) : (s.modCmd r h).reports = s.reports := rfl
@[simp] theorem State.modCmd_results (s : State) (r : Nat) (h : Cmd → Cmd) : (s.modCmd r h).results = s.results := rfl

@[simp] theorem State.setPool_cycle (s : State) (x : Pool) : (s.setPool x).cycle = s.cycle := rfl
@[simp] theorem State.setPool_fresh (s : State) (x : Pool) : (s.setPool x).fresh = s.fresh := rfl
@[simp] theorem State.setPool_agenda (s : State) (x : Pool) : (s.setPool x).agenda = s.agenda := rfl
@[simp] theorem State.setPool_cur (s : State) (x : Pool) : (s.setPool x).cur = s.cur := rfl
@[simp] theorem State.setPool_issue (s : State) (x : Pool) : (s.setPool x).issue = s.issue := rfl
@[simp] theorem State.setPool_mem (s : State) (x : Pool) : (s.setPool x).mem = s.mem := rfl
@[simp] theorem State.setPool_lineKey (s : State) (x : Pool) : (s.setPool x).lineKey = s.lineKey := rfl
@[simp] theorem State.setPool_hostMem (s : State) (x : Pool) : (s.setPool x).hostMem = s.hostMem := rfl
@[simp] theorem State.setPool_peerMem (s : State) (x : Pool) : (s.setPool x).peerMem = s.peerMem := rfl
@[simp] theorem State.setPool_remote (s : State) (x : Pool) : (s.setPool x).remote = s.remote := rfl
@[simp] theorem State.setPool_dies (s : State) (x : Pool) : (s.setPool x).dies = s.dies := rfl
@[simp] theorem State.setPool_parts (s : State) (x : Pool) : (s.setPool x).parts = s.parts := rfl
@[simp] theorem State.setPool_jobs (s : State) (x : Pool) : (s.setPool x).jobs = s.jobs := rfl
@[simp] theorem State.setPool_wgs (s : State) (x : Pool) : (s.setPool x).wgs = s.wgs := rfl
@[simp] theorem State.setPool_waves (s : State) (x : Pool) : (s.setPool x).waves = s.waves := rfl
@[simp] theorem State.setPool_frags (s : State) (x : Pool) : (s.setPool x).frags = s.frags := rfl
@[simp] theorem State.setPool_cmds (s : State) (x : Pool) : (s.setPool x).cmds = s.cmds := rfl
@[simp] theorem State.setPool_pools (s : State) (x : Pool) : (s.setPool x).pools = s.pools.map (fun y => if y.num = x.num then x else y) := rfl
@[simp] theorem State.setPool_privQueue (s : State) (x : Pool) : (s.setPool x).privQueue = s.privQueue := rfl
@[simp] theorem State.setPool_serial (s : State) (x : Pool) : (s.setPool x).serial = s.serial := rfl
@[simp] theorem State.setPool_tlb (s : State) (x : Pool) : (s.setPool x).tlb = s.tlb := rfl
@[simp] theorem State.setPool_tlbis (s : State) (x : Pool) : (s.setPool x).tlbis = s.tlbis := rfl
@[simp] theorem State.setPool_keySlots (s : State) (x : Pool) : (s.setPool x).keySlots = s.keySlots := rfl
@[simp] theorem State.setPool_contexts (s : State) (x : Pool) : (s.setPool x).contexts = s.contexts := rfl
@[simp] theorem State.setPool_residency (s : State) (x : Pool) : (s.setPool x).residency = s.residency := rfl
@[simp] theorem State.setPool_stops (s : State) (x : Pool) : (s.setPool x).stops = s.stops := rfl
@[simp] theorem State.setPool_checkpoints (s : State) (x : Pool) : (s.setPool x).checkpoints = s.checkpoints := rfl
@[simp] theorem State.setPool_armedRecs (s : State) (x : Pool) : (s.setPool x).armedRecs = s.armedRecs := rfl
@[simp] theorem State.setPool_hartRegs (s : State) (x : Pool) : (s.setPool x).hartRegs = s.hartRegs := rfl
@[simp] theorem State.setPool_hartFregs (s : State) (x : Pool) : (s.setPool x).hartFregs = s.hartFregs := rfl
@[simp] theorem State.setPool_hartVregs (s : State) (x : Pool) : (s.setPool x).hartVregs = s.hartVregs := rfl
@[simp] theorem State.setPool_hartCsrs (s : State) (x : Pool) : (s.setPool x).hartCsrs = s.hartCsrs := rfl
@[simp] theorem State.setPool_hartPcs (s : State) (x : Pool) : (s.setPool x).hartPcs = s.hartPcs := rfl
@[simp] theorem State.setPool_hartPeeks (s : State) (x : Pool) : (s.setPool x).hartPeeks = s.hartPeeks := rfl
@[simp] theorem State.setPool_controlStore (s : State) (x : Pool) : (s.setPool x).controlStore = s.controlStore := rfl
@[simp] theorem State.setPool_patchRam (s : State) (x : Pool) : (s.setPool x).patchRam = s.patchRam := rfl
@[simp] theorem State.setPool_containers (s : State) (x : Pool) : (s.setPool x).containers = s.containers := rfl
@[simp] theorem State.setPool_peerWins (s : State) (x : Pool) : (s.setPool x).peerWins = s.peerWins := rfl
@[simp] theorem State.setPool_planes (s : State) (x : Pool) : (s.setPool x).planes = s.planes := rfl
@[simp] theorem State.setPool_steering (s : State) (x : Pool) : (s.setPool x).steering = s.steering := rfl
@[simp] theorem State.setPool_rings (s : State) (x : Pool) : (s.setPool x).rings = s.rings := rfl
@[simp] theorem State.setPool_bindings (s : State) (x : Pool) : (s.setPool x).bindings = s.bindings := rfl
@[simp] theorem State.setPool_reservations (s : State) (x : Pool) : (s.setPool x).reservations = s.reservations := rfl
@[simp] theorem State.setPool_archMinor (s : State) (x : Pool) : (s.setPool x).archMinor = s.archMinor := rfl
@[simp] theorem State.setPool_microcode (s : State) (x : Pool) : (s.setPool x).microcode = s.microcode := rfl
@[simp] theorem State.setPool_firmware (s : State) (x : Pool) : (s.setPool x).firmware = s.firmware := rfl
@[simp] theorem State.setPool_monitor (s : State) (x : Pool) : (s.setPool x).monitor = s.monitor := rfl
@[simp] theorem State.setPool_trip (s : State) (x : Pool) : (s.setPool x).trip = s.trip := rfl
@[simp] theorem State.setPool_reports (s : State) (x : Pool) : (s.setPool x).reports = s.reports := rfl
@[simp] theorem State.setPool_results (s : State) (x : Pool) : (s.setPool x).results = s.results := rfl

@[simp] theorem State.modPool_cycle (s : State) (r : Nat) (h : Pool → Pool) : (s.modPool r h).cycle = s.cycle := rfl
@[simp] theorem State.modPool_fresh (s : State) (r : Nat) (h : Pool → Pool) : (s.modPool r h).fresh = s.fresh := rfl
@[simp] theorem State.modPool_agenda (s : State) (r : Nat) (h : Pool → Pool) : (s.modPool r h).agenda = s.agenda := rfl
@[simp] theorem State.modPool_cur (s : State) (r : Nat) (h : Pool → Pool) : (s.modPool r h).cur = s.cur := rfl
@[simp] theorem State.modPool_issue (s : State) (r : Nat) (h : Pool → Pool) : (s.modPool r h).issue = s.issue := rfl
@[simp] theorem State.modPool_mem (s : State) (r : Nat) (h : Pool → Pool) : (s.modPool r h).mem = s.mem := rfl
@[simp] theorem State.modPool_lineKey (s : State) (r : Nat) (h : Pool → Pool) : (s.modPool r h).lineKey = s.lineKey := rfl
@[simp] theorem State.modPool_hostMem (s : State) (r : Nat) (h : Pool → Pool) : (s.modPool r h).hostMem = s.hostMem := rfl
@[simp] theorem State.modPool_peerMem (s : State) (r : Nat) (h : Pool → Pool) : (s.modPool r h).peerMem = s.peerMem := rfl
@[simp] theorem State.modPool_remote (s : State) (r : Nat) (h : Pool → Pool) : (s.modPool r h).remote = s.remote := rfl
@[simp] theorem State.modPool_dies (s : State) (r : Nat) (h : Pool → Pool) : (s.modPool r h).dies = s.dies := rfl
@[simp] theorem State.modPool_parts (s : State) (r : Nat) (h : Pool → Pool) : (s.modPool r h).parts = s.parts := rfl
@[simp] theorem State.modPool_jobs (s : State) (r : Nat) (h : Pool → Pool) : (s.modPool r h).jobs = s.jobs := rfl
@[simp] theorem State.modPool_wgs (s : State) (r : Nat) (h : Pool → Pool) : (s.modPool r h).wgs = s.wgs := rfl
@[simp] theorem State.modPool_waves (s : State) (r : Nat) (h : Pool → Pool) : (s.modPool r h).waves = s.waves := rfl
@[simp] theorem State.modPool_frags (s : State) (r : Nat) (h : Pool → Pool) : (s.modPool r h).frags = s.frags := rfl
@[simp] theorem State.modPool_cmds (s : State) (r : Nat) (h : Pool → Pool) : (s.modPool r h).cmds = s.cmds := rfl
@[simp] theorem State.modPool_pools (s : State) (r : Nat) (h : Pool → Pool) : (s.modPool r h).pools = s.pools.map (fun y => if y.num = r then h y else y) := rfl
@[simp] theorem State.modPool_privQueue (s : State) (r : Nat) (h : Pool → Pool) : (s.modPool r h).privQueue = s.privQueue := rfl
@[simp] theorem State.modPool_serial (s : State) (r : Nat) (h : Pool → Pool) : (s.modPool r h).serial = s.serial := rfl
@[simp] theorem State.modPool_tlb (s : State) (r : Nat) (h : Pool → Pool) : (s.modPool r h).tlb = s.tlb := rfl
@[simp] theorem State.modPool_tlbis (s : State) (r : Nat) (h : Pool → Pool) : (s.modPool r h).tlbis = s.tlbis := rfl
@[simp] theorem State.modPool_keySlots (s : State) (r : Nat) (h : Pool → Pool) : (s.modPool r h).keySlots = s.keySlots := rfl
@[simp] theorem State.modPool_contexts (s : State) (r : Nat) (h : Pool → Pool) : (s.modPool r h).contexts = s.contexts := rfl
@[simp] theorem State.modPool_residency (s : State) (r : Nat) (h : Pool → Pool) : (s.modPool r h).residency = s.residency := rfl
@[simp] theorem State.modPool_stops (s : State) (r : Nat) (h : Pool → Pool) : (s.modPool r h).stops = s.stops := rfl
@[simp] theorem State.modPool_checkpoints (s : State) (r : Nat) (h : Pool → Pool) : (s.modPool r h).checkpoints = s.checkpoints := rfl
@[simp] theorem State.modPool_armedRecs (s : State) (r : Nat) (h : Pool → Pool) : (s.modPool r h).armedRecs = s.armedRecs := rfl
@[simp] theorem State.modPool_hartRegs (s : State) (r : Nat) (h : Pool → Pool) : (s.modPool r h).hartRegs = s.hartRegs := rfl
@[simp] theorem State.modPool_hartFregs (s : State) (r : Nat) (h : Pool → Pool) : (s.modPool r h).hartFregs = s.hartFregs := rfl
@[simp] theorem State.modPool_hartVregs (s : State) (r : Nat) (h : Pool → Pool) : (s.modPool r h).hartVregs = s.hartVregs := rfl
@[simp] theorem State.modPool_hartCsrs (s : State) (r : Nat) (h : Pool → Pool) : (s.modPool r h).hartCsrs = s.hartCsrs := rfl
@[simp] theorem State.modPool_hartPcs (s : State) (r : Nat) (h : Pool → Pool) : (s.modPool r h).hartPcs = s.hartPcs := rfl
@[simp] theorem State.modPool_hartPeeks (s : State) (r : Nat) (h : Pool → Pool) : (s.modPool r h).hartPeeks = s.hartPeeks := rfl
@[simp] theorem State.modPool_controlStore (s : State) (r : Nat) (h : Pool → Pool) : (s.modPool r h).controlStore = s.controlStore := rfl
@[simp] theorem State.modPool_patchRam (s : State) (r : Nat) (h : Pool → Pool) : (s.modPool r h).patchRam = s.patchRam := rfl
@[simp] theorem State.modPool_containers (s : State) (r : Nat) (h : Pool → Pool) : (s.modPool r h).containers = s.containers := rfl
@[simp] theorem State.modPool_peerWins (s : State) (r : Nat) (h : Pool → Pool) : (s.modPool r h).peerWins = s.peerWins := rfl
@[simp] theorem State.modPool_planes (s : State) (r : Nat) (h : Pool → Pool) : (s.modPool r h).planes = s.planes := rfl
@[simp] theorem State.modPool_steering (s : State) (r : Nat) (h : Pool → Pool) : (s.modPool r h).steering = s.steering := rfl
@[simp] theorem State.modPool_rings (s : State) (r : Nat) (h : Pool → Pool) : (s.modPool r h).rings = s.rings := rfl
@[simp] theorem State.modPool_bindings (s : State) (r : Nat) (h : Pool → Pool) : (s.modPool r h).bindings = s.bindings := rfl
@[simp] theorem State.modPool_reservations (s : State) (r : Nat) (h : Pool → Pool) : (s.modPool r h).reservations = s.reservations := rfl
@[simp] theorem State.modPool_archMinor (s : State) (r : Nat) (h : Pool → Pool) : (s.modPool r h).archMinor = s.archMinor := rfl
@[simp] theorem State.modPool_microcode (s : State) (r : Nat) (h : Pool → Pool) : (s.modPool r h).microcode = s.microcode := rfl
@[simp] theorem State.modPool_firmware (s : State) (r : Nat) (h : Pool → Pool) : (s.modPool r h).firmware = s.firmware := rfl
@[simp] theorem State.modPool_monitor (s : State) (r : Nat) (h : Pool → Pool) : (s.modPool r h).monitor = s.monitor := rfl
@[simp] theorem State.modPool_trip (s : State) (r : Nat) (h : Pool → Pool) : (s.modPool r h).trip = s.trip := rfl
@[simp] theorem State.modPool_reports (s : State) (r : Nat) (h : Pool → Pool) : (s.modPool r h).reports = s.reports := rfl
@[simp] theorem State.modPool_results (s : State) (r : Nat) (h : Pool → Pool) : (s.modPool r h).results = s.results := rfl

@[simp] theorem State.nextSerial_cycle (s : State) : s.nextSerial.2.cycle = s.cycle := rfl
@[simp] theorem State.nextSerial_fresh (s : State) : s.nextSerial.2.fresh = s.fresh := rfl
@[simp] theorem State.nextSerial_agenda (s : State) : s.nextSerial.2.agenda = s.agenda := rfl
@[simp] theorem State.nextSerial_cur (s : State) : s.nextSerial.2.cur = s.cur := rfl
@[simp] theorem State.nextSerial_issue (s : State) : s.nextSerial.2.issue = s.issue := rfl
@[simp] theorem State.nextSerial_mem (s : State) : s.nextSerial.2.mem = s.mem := rfl
@[simp] theorem State.nextSerial_lineKey (s : State) : s.nextSerial.2.lineKey = s.lineKey := rfl
@[simp] theorem State.nextSerial_hostMem (s : State) : s.nextSerial.2.hostMem = s.hostMem := rfl
@[simp] theorem State.nextSerial_peerMem (s : State) : s.nextSerial.2.peerMem = s.peerMem := rfl
@[simp] theorem State.nextSerial_remote (s : State) : s.nextSerial.2.remote = s.remote := rfl
@[simp] theorem State.nextSerial_dies (s : State) : s.nextSerial.2.dies = s.dies := rfl
@[simp] theorem State.nextSerial_parts (s : State) : s.nextSerial.2.parts = s.parts := rfl
@[simp] theorem State.nextSerial_jobs (s : State) : s.nextSerial.2.jobs = s.jobs := rfl
@[simp] theorem State.nextSerial_wgs (s : State) : s.nextSerial.2.wgs = s.wgs := rfl
@[simp] theorem State.nextSerial_waves (s : State) : s.nextSerial.2.waves = s.waves := rfl
@[simp] theorem State.nextSerial_frags (s : State) : s.nextSerial.2.frags = s.frags := rfl
@[simp] theorem State.nextSerial_cmds (s : State) : s.nextSerial.2.cmds = s.cmds := rfl
@[simp] theorem State.nextSerial_pools (s : State) : s.nextSerial.2.pools = s.pools := rfl
@[simp] theorem State.nextSerial_privQueue (s : State) : s.nextSerial.2.privQueue = s.privQueue := rfl
@[simp] theorem State.nextSerial_tlb (s : State) : s.nextSerial.2.tlb = s.tlb := rfl
@[simp] theorem State.nextSerial_tlbis (s : State) : s.nextSerial.2.tlbis = s.tlbis := rfl
@[simp] theorem State.nextSerial_keySlots (s : State) : s.nextSerial.2.keySlots = s.keySlots := rfl
@[simp] theorem State.nextSerial_contexts (s : State) : s.nextSerial.2.contexts = s.contexts := rfl
@[simp] theorem State.nextSerial_residency (s : State) : s.nextSerial.2.residency = s.residency := rfl
@[simp] theorem State.nextSerial_stops (s : State) : s.nextSerial.2.stops = s.stops := rfl
@[simp] theorem State.nextSerial_checkpoints (s : State) : s.nextSerial.2.checkpoints = s.checkpoints := rfl
@[simp] theorem State.nextSerial_armedRecs (s : State) : s.nextSerial.2.armedRecs = s.armedRecs := rfl
@[simp] theorem State.nextSerial_hartRegs (s : State) : s.nextSerial.2.hartRegs = s.hartRegs := rfl
@[simp] theorem State.nextSerial_hartFregs (s : State) : s.nextSerial.2.hartFregs = s.hartFregs := rfl
@[simp] theorem State.nextSerial_hartVregs (s : State) : s.nextSerial.2.hartVregs = s.hartVregs := rfl
@[simp] theorem State.nextSerial_hartCsrs (s : State) : s.nextSerial.2.hartCsrs = s.hartCsrs := rfl
@[simp] theorem State.nextSerial_hartPcs (s : State) : s.nextSerial.2.hartPcs = s.hartPcs := rfl
@[simp] theorem State.nextSerial_hartPeeks (s : State) : s.nextSerial.2.hartPeeks = s.hartPeeks := rfl
@[simp] theorem State.nextSerial_controlStore (s : State) : s.nextSerial.2.controlStore = s.controlStore := rfl
@[simp] theorem State.nextSerial_patchRam (s : State) : s.nextSerial.2.patchRam = s.patchRam := rfl
@[simp] theorem State.nextSerial_containers (s : State) : s.nextSerial.2.containers = s.containers := rfl
@[simp] theorem State.nextSerial_peerWins (s : State) : s.nextSerial.2.peerWins = s.peerWins := rfl
@[simp] theorem State.nextSerial_planes (s : State) : s.nextSerial.2.planes = s.planes := rfl
@[simp] theorem State.nextSerial_steering (s : State) : s.nextSerial.2.steering = s.steering := rfl
@[simp] theorem State.nextSerial_rings (s : State) : s.nextSerial.2.rings = s.rings := rfl
@[simp] theorem State.nextSerial_bindings (s : State) : s.nextSerial.2.bindings = s.bindings := rfl
@[simp] theorem State.nextSerial_reservations (s : State) : s.nextSerial.2.reservations = s.reservations := rfl
@[simp] theorem State.nextSerial_archMinor (s : State) : s.nextSerial.2.archMinor = s.archMinor := rfl
@[simp] theorem State.nextSerial_microcode (s : State) : s.nextSerial.2.microcode = s.microcode := rfl
@[simp] theorem State.nextSerial_firmware (s : State) : s.nextSerial.2.firmware = s.firmware := rfl
@[simp] theorem State.nextSerial_monitor (s : State) : s.nextSerial.2.monitor = s.monitor := rfl
@[simp] theorem State.nextSerial_trip (s : State) : s.nextSerial.2.trip = s.trip := rfl
@[simp] theorem State.nextSerial_reports (s : State) : s.nextSerial.2.reports = s.reports := rfl
@[simp] theorem State.nextSerial_results (s : State) : s.nextSerial.2.results = s.results := rfl
@[simp] theorem State.nextSerial_serial (s : State) : s.nextSerial.2.serial = s.serial + 1 := rfl
@[simp] theorem State.nextSerial_fst (s : State) : s.nextSerial.1 = s.serial := rfl

/-! ## Look-ups after an update -/

variable {α κ : Type} [DecidableEq κ]

/-- Replacing the entries of a key replaces what a look-up of that key finds, and no other. -/
theorem find_replace (key : α → κ) (l : List α) (x : α) (r : κ) :
    (l.map (fun y => if key y = key x then x else y)).find? (fun y => key y == r)
      = if key x = r then (l.find? (fun y => key y == r)).map (fun _ => x) else l.find? (fun y => key y == r) := by
  induction l with
  | nil => simp
  | cons y l ih =>
    by_cases hy : key y = key x
    · by_cases hr : key x = r
      · simp [hy, hr]
      · have hn : key y ≠ r := fun h => hr (hy ▸ h)
        rw [if_neg hr] at ih ⊢
        simp [hy, hr, ih]
    · by_cases hr : key x = r
      · have hn : key y ≠ r := fun h => hy (h.trans hr.symm)
        rw [if_pos hr] at ih ⊢
        simp [hy, hn, ih]
      · rw [if_neg hr] at ih ⊢
        rw [List.map_cons, List.find?_cons, List.find?_cons, if_neg hy, ih]

/-- Changing the entries of a key by a function that keeps their keys. -/
theorem find_change (key : α → κ) (l : List α) (h : α → α) (r q : κ) (hk : ∀ y, key y = q → key (h y) = q) :
    (l.map (fun y => if key y = q then h y else y)).find? (fun y => key y == r)
      = if q = r then (l.find? (fun y => key y == r)).map h else l.find? (fun y => key y == r) := by
  induction l with
  | nil => simp
  | cons y l ih =>
    by_cases hy : key y = q
    · have hh := hk y hy
      by_cases hr : q = r
      · simp [hy, hh, hr]
      · rw [if_neg hr] at ih ⊢
        simp [hy, hh, hr, ih]
    · by_cases hr : q = r
      · have hn : key y ≠ r := fun e => hy (e.trans hr.symm)
        rw [if_pos hr] at ih ⊢
        simp [hy, hn, ih]
      · rw [if_neg hr] at ih ⊢
        rw [List.map_cons, List.find?_cons, List.find?_cons, if_neg hy, ih]

theorem State.frag?_set (s : State) (x : Frag) (r : FragRef) :
    (s.setFrag x).frag? r = if x.ref = r then (s.frag? r).map (fun _ => x) else s.frag? r :=
  find_replace (fun (y : Frag) => y.ref) s.frags x r
theorem State.frag?_mod (s : State) (q r : FragRef) (h : Frag → Frag) (hk : ∀ y, y.ref = q → (h y).ref = q) :
    (s.modFrag q h).frag? r = if q = r then (s.frag? r).map h else s.frag? r :=
  find_change (fun (y : Frag) => y.ref) s.frags h r q hk
@[simp] theorem State.wave?_setFrag (s : State) (x : Frag) (r : WaveRef) : (s.setFrag x).wave? r = s.wave? r := rfl
@[simp] theorem State.wave?_modFrag (s : State) (q : FragRef) (h : Frag → Frag) (r : WaveRef) : (s.modFrag q h).wave? r = s.wave? r := rfl
@[simp] theorem State.wg?_setFrag (s : State) (x : Frag) (r : WgRef) : (s.setFrag x).wg? r = s.wg? r := rfl
@[simp] theorem State.wg?_modFrag (s : State) (q : FragRef) (h : Frag → Frag) (r : WgRef) : (s.modFrag q h).wg? r = s.wg? r := rfl
@[simp] theorem State.job?_setFrag (s : State) (x : Frag) (r : JobRef) : (s.setFrag x).job? r = s.job? r := rfl
@[simp] theorem State.job?_modFrag (s : State) (q : FragRef) (h : Frag → Frag) (r : JobRef) : (s.modFrag q h).job? r = s.job? r := rfl
@[simp] theorem State.die?_setFrag (s : State) (x : Frag) (r : Nat) : (s.setFrag x).die? r = s.die? r := rfl
@[simp] theorem State.die?_modFrag (s : State) (q : FragRef) (h : Frag → Frag) (r : Nat) : (s.modFrag q h).die? r = s.die? r := rfl
@[simp] theorem State.part?_setFrag (s : State) (x : Frag) (r : Nat) : (s.setFrag x).part? r = s.part? r := rfl
@[simp] theorem State.part?_modFrag (s : State) (q : FragRef) (h : Frag → Frag) (r : Nat) : (s.modFrag q h).part? r = s.part? r := rfl
@[simp] theorem State.cmd?_setFrag (s : State) (x : Frag) (r : Nat) : (s.setFrag x).cmd? r = s.cmd? r := rfl
@[simp] theorem State.cmd?_modFrag (s : State) (q : FragRef) (h : Frag → Frag) (r : Nat) : (s.modFrag q h).cmd? r = s.cmd? r := rfl
@[simp] theorem State.pool?_setFrag (s : State) (x : Frag) (r : Nat) : (s.setFrag x).pool? r = s.pool? r := rfl
@[simp] theorem State.pool?_modFrag (s : State) (q : FragRef) (h : Frag → Frag) (r : Nat) : (s.modFrag q h).pool? r = s.pool? r := rfl

theorem State.wave?_set (s : State) (x : Wave) (r : WaveRef) :
    (s.setWave x).wave? r = if x.ref = r then (s.wave? r).map (fun _ => x) else s.wave? r :=
  find_replace (fun (y : Wave) => y.ref) s.waves x r
theorem State.wave?_mod (s : State) (q r : WaveRef) (h : Wave → Wave) (hk : ∀ y, y.ref = q → (h y).ref = q) :
    (s.modWave q h).wave? r = if q = r then (s.wave? r).map h else s.wave? r :=
  find_change (fun (y : Wave) => y.ref) s.waves h r q hk
@[simp] theorem State.frag?_setWave (s : State) (x : Wave) (r : FragRef) : (s.setWave x).frag? r = s.frag? r := rfl
@[simp] theorem State.frag?_modWave (s : State) (q : WaveRef) (h : Wave → Wave) (r : FragRef) : (s.modWave q h).frag? r = s.frag? r := rfl
@[simp] theorem State.wg?_setWave (s : State) (x : Wave) (r : WgRef) : (s.setWave x).wg? r = s.wg? r := rfl
@[simp] theorem State.wg?_modWave (s : State) (q : WaveRef) (h : Wave → Wave) (r : WgRef) : (s.modWave q h).wg? r = s.wg? r := rfl
@[simp] theorem State.job?_setWave (s : State) (x : Wave) (r : JobRef) : (s.setWave x).job? r = s.job? r := rfl
@[simp] theorem State.job?_modWave (s : State) (q : WaveRef) (h : Wave → Wave) (r : JobRef) : (s.modWave q h).job? r = s.job? r := rfl
@[simp] theorem State.die?_setWave (s : State) (x : Wave) (r : Nat) : (s.setWave x).die? r = s.die? r := rfl
@[simp] theorem State.die?_modWave (s : State) (q : WaveRef) (h : Wave → Wave) (r : Nat) : (s.modWave q h).die? r = s.die? r := rfl
@[simp] theorem State.part?_setWave (s : State) (x : Wave) (r : Nat) : (s.setWave x).part? r = s.part? r := rfl
@[simp] theorem State.part?_modWave (s : State) (q : WaveRef) (h : Wave → Wave) (r : Nat) : (s.modWave q h).part? r = s.part? r := rfl
@[simp] theorem State.cmd?_setWave (s : State) (x : Wave) (r : Nat) : (s.setWave x).cmd? r = s.cmd? r := rfl
@[simp] theorem State.cmd?_modWave (s : State) (q : WaveRef) (h : Wave → Wave) (r : Nat) : (s.modWave q h).cmd? r = s.cmd? r := rfl
@[simp] theorem State.pool?_setWave (s : State) (x : Wave) (r : Nat) : (s.setWave x).pool? r = s.pool? r := rfl
@[simp] theorem State.pool?_modWave (s : State) (q : WaveRef) (h : Wave → Wave) (r : Nat) : (s.modWave q h).pool? r = s.pool? r := rfl

theorem State.wg?_set (s : State) (x : Wg) (r : WgRef) :
    (s.setWg x).wg? r = if x.ref = r then (s.wg? r).map (fun _ => x) else s.wg? r :=
  find_replace (fun (y : Wg) => y.ref) s.wgs x r
theorem State.wg?_mod (s : State) (q r : WgRef) (h : Wg → Wg) (hk : ∀ y, y.ref = q → (h y).ref = q) :
    (s.modWg q h).wg? r = if q = r then (s.wg? r).map h else s.wg? r :=
  find_change (fun (y : Wg) => y.ref) s.wgs h r q hk
@[simp] theorem State.frag?_setWg (s : State) (x : Wg) (r : FragRef) : (s.setWg x).frag? r = s.frag? r := rfl
@[simp] theorem State.frag?_modWg (s : State) (q : WgRef) (h : Wg → Wg) (r : FragRef) : (s.modWg q h).frag? r = s.frag? r := rfl
@[simp] theorem State.wave?_setWg (s : State) (x : Wg) (r : WaveRef) : (s.setWg x).wave? r = s.wave? r := rfl
@[simp] theorem State.wave?_modWg (s : State) (q : WgRef) (h : Wg → Wg) (r : WaveRef) : (s.modWg q h).wave? r = s.wave? r := rfl
@[simp] theorem State.job?_setWg (s : State) (x : Wg) (r : JobRef) : (s.setWg x).job? r = s.job? r := rfl
@[simp] theorem State.job?_modWg (s : State) (q : WgRef) (h : Wg → Wg) (r : JobRef) : (s.modWg q h).job? r = s.job? r := rfl
@[simp] theorem State.die?_setWg (s : State) (x : Wg) (r : Nat) : (s.setWg x).die? r = s.die? r := rfl
@[simp] theorem State.die?_modWg (s : State) (q : WgRef) (h : Wg → Wg) (r : Nat) : (s.modWg q h).die? r = s.die? r := rfl
@[simp] theorem State.part?_setWg (s : State) (x : Wg) (r : Nat) : (s.setWg x).part? r = s.part? r := rfl
@[simp] theorem State.part?_modWg (s : State) (q : WgRef) (h : Wg → Wg) (r : Nat) : (s.modWg q h).part? r = s.part? r := rfl
@[simp] theorem State.cmd?_setWg (s : State) (x : Wg) (r : Nat) : (s.setWg x).cmd? r = s.cmd? r := rfl
@[simp] theorem State.cmd?_modWg (s : State) (q : WgRef) (h : Wg → Wg) (r : Nat) : (s.modWg q h).cmd? r = s.cmd? r := rfl
@[simp] theorem State.pool?_setWg (s : State) (x : Wg) (r : Nat) : (s.setWg x).pool? r = s.pool? r := rfl
@[simp] theorem State.pool?_modWg (s : State) (q : WgRef) (h : Wg → Wg) (r : Nat) : (s.modWg q h).pool? r = s.pool? r := rfl

theorem State.job?_set (s : State) (x : Job) (r : JobRef) :
    (s.setJob x).job? r = if x.ref = r then (s.job? r).map (fun _ => x) else s.job? r :=
  find_replace (fun (y : Job) => y.ref) s.jobs x r
theorem State.job?_mod (s : State) (q r : JobRef) (h : Job → Job) (hk : ∀ y, y.ref = q → (h y).ref = q) :
    (s.modJob q h).job? r = if q = r then (s.job? r).map h else s.job? r :=
  find_change (fun (y : Job) => y.ref) s.jobs h r q hk
@[simp] theorem State.frag?_setJob (s : State) (x : Job) (r : FragRef) : (s.setJob x).frag? r = s.frag? r := rfl
@[simp] theorem State.frag?_modJob (s : State) (q : JobRef) (h : Job → Job) (r : FragRef) : (s.modJob q h).frag? r = s.frag? r := rfl
@[simp] theorem State.wave?_setJob (s : State) (x : Job) (r : WaveRef) : (s.setJob x).wave? r = s.wave? r := rfl
@[simp] theorem State.wave?_modJob (s : State) (q : JobRef) (h : Job → Job) (r : WaveRef) : (s.modJob q h).wave? r = s.wave? r := rfl
@[simp] theorem State.wg?_setJob (s : State) (x : Job) (r : WgRef) : (s.setJob x).wg? r = s.wg? r := rfl
@[simp] theorem State.wg?_modJob (s : State) (q : JobRef) (h : Job → Job) (r : WgRef) : (s.modJob q h).wg? r = s.wg? r := rfl
@[simp] theorem State.die?_setJob (s : State) (x : Job) (r : Nat) : (s.setJob x).die? r = s.die? r := rfl
@[simp] theorem State.die?_modJob (s : State) (q : JobRef) (h : Job → Job) (r : Nat) : (s.modJob q h).die? r = s.die? r := rfl
@[simp] theorem State.part?_setJob (s : State) (x : Job) (r : Nat) : (s.setJob x).part? r = s.part? r := rfl
@[simp] theorem State.part?_modJob (s : State) (q : JobRef) (h : Job → Job) (r : Nat) : (s.modJob q h).part? r = s.part? r := rfl
@[simp] theorem State.cmd?_setJob (s : State) (x : Job) (r : Nat) : (s.setJob x).cmd? r = s.cmd? r := rfl
@[simp] theorem State.cmd?_modJob (s : State) (q : JobRef) (h : Job → Job) (r : Nat) : (s.modJob q h).cmd? r = s.cmd? r := rfl
@[simp] theorem State.pool?_setJob (s : State) (x : Job) (r : Nat) : (s.setJob x).pool? r = s.pool? r := rfl
@[simp] theorem State.pool?_modJob (s : State) (q : JobRef) (h : Job → Job) (r : Nat) : (s.modJob q h).pool? r = s.pool? r := rfl

theorem State.die?_set (s : State) (x : Die) (r : Nat) :
    (s.setDie x).die? r = if x.id = r then (s.die? r).map (fun _ => x) else s.die? r :=
  find_replace (fun (y : Die) => y.id) s.dies x r
theorem State.die?_mod (s : State) (q r : Nat) (h : Die → Die) (hk : ∀ y, y.id = q → (h y).id = q) :
    (s.modDie q h).die? r = if q = r then (s.die? r).map h else s.die? r :=
  find_change (fun (y : Die) => y.id) s.dies h r q hk
@[simp] theorem State.frag?_setDie (s : State) (x : Die) (r : FragRef) : (s.setDie x).frag? r = s.frag? r := rfl
@[simp] theorem State.frag?_modDie (s : State) (q : Nat) (h : Die → Die) (r : FragRef) : (s.modDie q h).frag? r = s.frag? r := rfl
@[simp] theorem State.wave?_setDie (s : State) (x : Die) (r : WaveRef) : (s.setDie x).wave? r = s.wave? r := rfl
@[simp] theorem State.wave?_modDie (s : State) (q : Nat) (h : Die → Die) (r : WaveRef) : (s.modDie q h).wave? r = s.wave? r := rfl
@[simp] theorem State.wg?_setDie (s : State) (x : Die) (r : WgRef) : (s.setDie x).wg? r = s.wg? r := rfl
@[simp] theorem State.wg?_modDie (s : State) (q : Nat) (h : Die → Die) (r : WgRef) : (s.modDie q h).wg? r = s.wg? r := rfl
@[simp] theorem State.job?_setDie (s : State) (x : Die) (r : JobRef) : (s.setDie x).job? r = s.job? r := rfl
@[simp] theorem State.job?_modDie (s : State) (q : Nat) (h : Die → Die) (r : JobRef) : (s.modDie q h).job? r = s.job? r := rfl
@[simp] theorem State.part?_setDie (s : State) (x : Die) (r : Nat) : (s.setDie x).part? r = s.part? r := rfl
@[simp] theorem State.part?_modDie (s : State) (q : Nat) (h : Die → Die) (r : Nat) : (s.modDie q h).part? r = s.part? r := rfl
@[simp] theorem State.cmd?_setDie (s : State) (x : Die) (r : Nat) : (s.setDie x).cmd? r = s.cmd? r := rfl
@[simp] theorem State.cmd?_modDie (s : State) (q : Nat) (h : Die → Die) (r : Nat) : (s.modDie q h).cmd? r = s.cmd? r := rfl
@[simp] theorem State.pool?_setDie (s : State) (x : Die) (r : Nat) : (s.setDie x).pool? r = s.pool? r := rfl
@[simp] theorem State.pool?_modDie (s : State) (q : Nat) (h : Die → Die) (r : Nat) : (s.modDie q h).pool? r = s.pool? r := rfl

theorem State.part?_set (s : State) (x : Part) (r : Nat) :
    (s.setPart x).part? r = if x.id = r then (s.part? r).map (fun _ => x) else s.part? r :=
  find_replace (fun (y : Part) => y.id) s.parts x r
theorem State.part?_mod (s : State) (q r : Nat) (h : Part → Part) (hk : ∀ y, y.id = q → (h y).id = q) :
    (s.modPart q h).part? r = if q = r then (s.part? r).map h else s.part? r :=
  find_change (fun (y : Part) => y.id) s.parts h r q hk
@[simp] theorem State.frag?_setPart (s : State) (x : Part) (r : FragRef) : (s.setPart x).frag? r = s.frag? r := rfl
@[simp] theorem State.frag?_modPart (s : State) (q : Nat) (h : Part → Part) (r : FragRef) : (s.modPart q h).frag? r = s.frag? r := rfl
@[simp] theorem State.wave?_setPart (s : State) (x : Part) (r : WaveRef) : (s.setPart x).wave? r = s.wave? r := rfl
@[simp] theorem State.wave?_modPart (s : State) (q : Nat) (h : Part → Part) (r : WaveRef) : (s.modPart q h).wave? r = s.wave? r := rfl
@[simp] theorem State.wg?_setPart (s : State) (x : Part) (r : WgRef) : (s.setPart x).wg? r = s.wg? r := rfl
@[simp] theorem State.wg?_modPart (s : State) (q : Nat) (h : Part → Part) (r : WgRef) : (s.modPart q h).wg? r = s.wg? r := rfl
@[simp] theorem State.job?_setPart (s : State) (x : Part) (r : JobRef) : (s.setPart x).job? r = s.job? r := rfl
@[simp] theorem State.job?_modPart (s : State) (q : Nat) (h : Part → Part) (r : JobRef) : (s.modPart q h).job? r = s.job? r := rfl
@[simp] theorem State.die?_setPart (s : State) (x : Part) (r : Nat) : (s.setPart x).die? r = s.die? r := rfl
@[simp] theorem State.die?_modPart (s : State) (q : Nat) (h : Part → Part) (r : Nat) : (s.modPart q h).die? r = s.die? r := rfl
@[simp] theorem State.cmd?_setPart (s : State) (x : Part) (r : Nat) : (s.setPart x).cmd? r = s.cmd? r := rfl
@[simp] theorem State.cmd?_modPart (s : State) (q : Nat) (h : Part → Part) (r : Nat) : (s.modPart q h).cmd? r = s.cmd? r := rfl
@[simp] theorem State.pool?_setPart (s : State) (x : Part) (r : Nat) : (s.setPart x).pool? r = s.pool? r := rfl
@[simp] theorem State.pool?_modPart (s : State) (q : Nat) (h : Part → Part) (r : Nat) : (s.modPart q h).pool? r = s.pool? r := rfl

theorem State.cmd?_set (s : State) (x : Cmd) (r : Nat) :
    (s.setCmd x).cmd? r = if x.id = r then (s.cmd? r).map (fun _ => x) else s.cmd? r :=
  find_replace (fun (y : Cmd) => y.id) s.cmds x r
theorem State.cmd?_mod (s : State) (q r : Nat) (h : Cmd → Cmd) (hk : ∀ y, y.id = q → (h y).id = q) :
    (s.modCmd q h).cmd? r = if q = r then (s.cmd? r).map h else s.cmd? r :=
  find_change (fun (y : Cmd) => y.id) s.cmds h r q hk
@[simp] theorem State.frag?_setCmd (s : State) (x : Cmd) (r : FragRef) : (s.setCmd x).frag? r = s.frag? r := rfl
@[simp] theorem State.frag?_modCmd (s : State) (q : Nat) (h : Cmd → Cmd) (r : FragRef) : (s.modCmd q h).frag? r = s.frag? r := rfl
@[simp] theorem State.wave?_setCmd (s : State) (x : Cmd) (r : WaveRef) : (s.setCmd x).wave? r = s.wave? r := rfl
@[simp] theorem State.wave?_modCmd (s : State) (q : Nat) (h : Cmd → Cmd) (r : WaveRef) : (s.modCmd q h).wave? r = s.wave? r := rfl
@[simp] theorem State.wg?_setCmd (s : State) (x : Cmd) (r : WgRef) : (s.setCmd x).wg? r = s.wg? r := rfl
@[simp] theorem State.wg?_modCmd (s : State) (q : Nat) (h : Cmd → Cmd) (r : WgRef) : (s.modCmd q h).wg? r = s.wg? r := rfl
@[simp] theorem State.job?_setCmd (s : State) (x : Cmd) (r : JobRef) : (s.setCmd x).job? r = s.job? r := rfl
@[simp] theorem State.job?_modCmd (s : State) (q : Nat) (h : Cmd → Cmd) (r : JobRef) : (s.modCmd q h).job? r = s.job? r := rfl
@[simp] theorem State.die?_setCmd (s : State) (x : Cmd) (r : Nat) : (s.setCmd x).die? r = s.die? r := rfl
@[simp] theorem State.die?_modCmd (s : State) (q : Nat) (h : Cmd → Cmd) (r : Nat) : (s.modCmd q h).die? r = s.die? r := rfl
@[simp] theorem State.part?_setCmd (s : State) (x : Cmd) (r : Nat) : (s.setCmd x).part? r = s.part? r := rfl
@[simp] theorem State.part?_modCmd (s : State) (q : Nat) (h : Cmd → Cmd) (r : Nat) : (s.modCmd q h).part? r = s.part? r := rfl
@[simp] theorem State.pool?_setCmd (s : State) (x : Cmd) (r : Nat) : (s.setCmd x).pool? r = s.pool? r := rfl
@[simp] theorem State.pool?_modCmd (s : State) (q : Nat) (h : Cmd → Cmd) (r : Nat) : (s.modCmd q h).pool? r = s.pool? r := rfl

theorem State.pool?_set (s : State) (x : Pool) (r : Nat) :
    (s.setPool x).pool? r = if x.num = r then (s.pool? r).map (fun _ => x) else s.pool? r :=
  find_replace (fun (y : Pool) => y.num) s.pools x r
theorem State.pool?_mod (s : State) (q r : Nat) (h : Pool → Pool) (hk : ∀ y, y.num = q → (h y).num = q) :
    (s.modPool q h).pool? r = if q = r then (s.pool? r).map h else s.pool? r :=
  find_change (fun (y : Pool) => y.num) s.pools h r q hk
@[simp] theorem State.frag?_setPool (s : State) (x : Pool) (r : FragRef) : (s.setPool x).frag? r = s.frag? r := rfl
@[simp] theorem State.frag?_modPool (s : State) (q : Nat) (h : Pool → Pool) (r : FragRef) : (s.modPool q h).frag? r = s.frag? r := rfl
@[simp] theorem State.wave?_setPool (s : State) (x : Pool) (r : WaveRef) : (s.setPool x).wave? r = s.wave? r := rfl
@[simp] theorem State.wave?_modPool (s : State) (q : Nat) (h : Pool → Pool) (r : WaveRef) : (s.modPool q h).wave? r = s.wave? r := rfl
@[simp] theorem State.wg?_setPool (s : State) (x : Pool) (r : WgRef) : (s.setPool x).wg? r = s.wg? r := rfl
@[simp] theorem State.wg?_modPool (s : State) (q : Nat) (h : Pool → Pool) (r : WgRef) : (s.modPool q h).wg? r = s.wg? r := rfl
@[simp] theorem State.job?_setPool (s : State) (x : Pool) (r : JobRef) : (s.setPool x).job? r = s.job? r := rfl
@[simp] theorem State.job?_modPool (s : State) (q : Nat) (h : Pool → Pool) (r : JobRef) : (s.modPool q h).job? r = s.job? r := rfl
@[simp] theorem State.die?_setPool (s : State) (x : Pool) (r : Nat) : (s.setPool x).die? r = s.die? r := rfl
@[simp] theorem State.die?_modPool (s : State) (q : Nat) (h : Pool → Pool) (r : Nat) : (s.modPool q h).die? r = s.die? r := rfl
@[simp] theorem State.part?_setPool (s : State) (x : Pool) (r : Nat) : (s.setPool x).part? r = s.part? r := rfl
@[simp] theorem State.part?_modPool (s : State) (q : Nat) (h : Pool → Pool) (r : Nat) : (s.modPool q h).part? r = s.part? r := rfl
@[simp] theorem State.cmd?_setPool (s : State) (x : Pool) (r : Nat) : (s.setPool x).cmd? r = s.cmd? r := rfl
@[simp] theorem State.cmd?_modPool (s : State) (q : Nat) (h : Pool → Pool) (r : Nat) : (s.modPool q h).cmd? r = s.cmd? r := rfl

/-- What a found entry's key is. -/
theorem State.frag?_ref (s : State) (r : FragRef) (f : Frag) (h : s.frag? r = some f) : f.ref = r := by
  have h' := List.find?_some (l := s.frags) h
  exact eq_of_beq h'
theorem State.wave?_ref (s : State) (r : WaveRef) (w : Wave) (h : s.wave? r = some w) : w.ref = r := by
  have h' := List.find?_some (l := s.waves) h
  exact eq_of_beq h'
theorem State.wg?_ref (s : State) (r : WgRef) (g : Wg) (h : s.wg? r = some g) : g.ref = r := by
  have h' := List.find?_some (l := s.wgs) h
  exact eq_of_beq h'
theorem State.job?_ref (s : State) (r : JobRef) (j : Job) (h : s.job? r = some j) : j.ref = r := by
  have h' := List.find?_some (l := s.jobs) h
  exact eq_of_beq h'

/-- What `look` finds: each part under its own reference. -/
theorem State.look_some (s : State) (r : FragRef) (c : Cur) :
    s.look r = some c ↔ s.frag? r = some c.f ∧ s.wave? r.wave = some c.w ∧ s.wg? r.wave.wg = some c.g
      ∧ s.job? r.wave.wg.job = some c.j := by
  unfold State.look
  constructor
  · intro h
    split at h
    · cases h; simp_all
    · cases h
  · rintro ⟨h1, h2, h3, h4⟩
    simp [h1, h2, h3, h4]

/-- The parts of `current` stand under the issuing fragment's references. -/
theorem State.current_some (s : State) (c : Cur) (h : s.current = some c) :
    s.cur = some c.f.ref ∧ s.frag? c.f.ref = some c.f ∧ s.wave? c.f.ref.wave = some c.w
      ∧ s.wg? c.f.ref.wave.wg = some c.g ∧ s.job? c.f.ref.wave.wg.job = some c.j := by
  unfold State.current at h
  split at h
  · rename_i r hr
    obtain ⟨h1, h2, h3, h4⟩ := (s.look_some r c).mp h
    have hf := s.frag?_ref r c.f h1
    subst hf
    exact ⟨hr, h1, h2, h3, h4⟩
  · cases h

/-- After the issuing fragment is replaced, it is found. -/
theorem State.frag?_set_self (s : State) (f : Frag) (h : (s.frag? f.ref).isSome) : (s.setFrag f).frag? f.ref = some f := by
  rw [s.frag?_set f f.ref, if_pos rfl]
  obtain ⟨g, hg⟩ := Option.isSome_iff_exists.mp h
  simp [hg]

/-- Every other fragment stays. -/
theorem State.frag?_set_other (s : State) (f : Frag) (r : FragRef) (h : f.ref ≠ r) : (s.setFrag f).frag? r = s.frag? r := by
  rw [s.frag?_set f r, if_neg h]

theorem State.wave?_set_self (s : State) (w : Wave) (h : (s.wave? w.ref).isSome) : (s.setWave w).wave? w.ref = some w := by
  rw [s.wave?_set w w.ref, if_pos rfl]
  obtain ⟨g, hg⟩ := Option.isSome_iff_exists.mp h
  simp [hg]

theorem State.wave?_set_other (s : State) (w : Wave) (r : WaveRef) (h : w.ref ≠ r) : (s.setWave w).wave? r = s.wave? r := by
  rw [s.wave?_set w r, if_neg h]

end Sys2Proof.Machine
end

