-- ==== Sys2Proof/Laws/Ops.lean ====
section
/-! SUPPORT. The laws of the shared courses of instructions: when `scalarRun` and `laneRun` reach an instruction's own effect,
and everything else they can answer. -/

namespace Sys2Proof.Machine

open Sys2Proof

/-! ## Scalar instructions -/

/-- The checks of R46 and R249 pass. -/
theorem Scalar.check_none (q : Scalar) (c : Cur) (hr : c.has q.regs) (hc : c.clean q.reads)
    (hm : ∀ m ∈ q.masks, c.w.mPoisoned m.toNat c.f.exec = false) (hb : q.bad c = none)
    (hk : q.kernelOnly = true → c.j.kernel = true) (hp : q.priv c = false) : q.check c = none := by
  have h1 : q.regs.any (fun r => decide (roleSregs c.role ≤ r.toNat)) = false := by
    rw [List.any_eq_false]
    intro r h
    simpa using hr r h
  have h2 : q.reads.any c.f.sPoisoned = false := by
    rw [List.any_eq_false]
    intro r h
    simp [hc r h]
  have h3 : q.masks.any (fun m => c.w.mPoisoned m.toNat c.f.exec) = false := by
    rw [List.any_eq_false]
    intro m h
    simp [hm m h]
  have h4 : (q.kernelOnly && !c.j.kernel) = false := by
    cases hq : q.kernelOnly
    · rfl
    · simp [hk hq]
  unfold Scalar.check
  simp only [h1, hb, h2, h3, h4, hp, Bool.or_self, Bool.false_eq_true, if_false]

/-- Once the posted stores are performed an access goes on. -/
theorem State.afterStores_settled (s : State) (c : Cur) (k : State) (h : Settled s c) : s.afterStores c k = k := by
  simp [State.afterStores, h.1, h.2]

/-- Everything the wait for posted stores can answer: the state of the wait, the same state, or the access. -/
theorem State.afterStores_cases (s : State) (c : Cur) (k : State) :
    s.afterStores c k = s.storeWait c ∨ s.afterStores c k = s ∨ s.afterStores c k = k := by
  unfold State.afterStores
  split
  · exact .inl rfl
  · split
    · exact .inr (.inl rfl)
    · exact .inr (.inr rfl)

/-- A scalar instruction whose checks pass has its effect. -/
theorem scalarRun_effect (s : State) (q : Scalar) (eff : Cur → State) (c : Cur) (h : Issues s c)
    (hx : c.f.exiting = false ∨ q.exitOk = true) (hw : q.mem = true → Settled s c) (hq : q.check c = none) :
    scalarRun s q eff = .next (eff c) := by
  have hx' : (c.f.exiting && !q.exitOk) = false := by rcases hx with h | h <;> simp [h]
  unfold scalarRun
  cases hm : q.mem
  · simp [h.1, h.2, hx', hq]
  · simp [h.1, h.2, hx', hq, State.afterStores_settled s c _ (hw hm)]

/-- A scalar instruction whose check fails traps. -/
theorem scalarRun_trap (s : State) (q : Scalar) (eff : Cur → State) (c : Cur) (flt sub : BitVec 8) (h : Issues s c)
    (hx : c.f.exiting = false ∨ q.exitOk = true) (hw : q.mem = true → Settled s c) (hq : q.check c = some (flt, sub)) :
    scalarRun s q eff = .next (s.trapScalar c flt sub) := by
  have hx' : (c.f.exiting && !q.exitOk) = false := by rcases hx with h | h <;> simp [h]
  unfold scalarRun
  cases hm : q.mem
  · simp [h.1, h.2, hx', hq]
  · simp [h.1, h.2, hx', hq, State.afterStores_settled s c _ (hw hm)]

/-- Everything a scalar instruction can answer: a REP misuse, an overrun of an exit routine, the wait for posted stores, a trap of a
check, its effect. -/
theorem scalarRun_cases (s t : State) (q : Scalar) (eff : Cur → State) (h : scalarRun s q eff = .next t) :
    ∃ c, s.current = some c ∧
      ((c.f.rep.isSome = true ∧ q.issue = false ∧ t = s.repMisuse c)
        ∨ (c.f.exiting = true ∧ q.exitOk = false ∧ t = s.exitOverrun c)
        ∨ (q.mem = true ∧ (t = s.storeWait c ∨ t = s))
        ∨ (∃ flt sub, q.check c = some (flt, sub) ∧ t = s.trapScalar c flt sub)
        ∨ (q.check c = none ∧ t = eff c)) := by
  unfold scalarRun at h
  split at h
  · cases h
  · rename_i c hc
    refine ⟨c, hc, ?_⟩
    split at h
    · rename_i hr
      injection h with h
      simp at hr
      have hw : q.mem = true ∧ (t = s.storeWait c ∨ t = s) ∨ t = s.repMisuse c := by
        cases hm : q.mem
        · exact .inr (by simpa [hm] using h.symm)
        · rw [if_pos (by simp [hm])] at h
          rcases s.afterStores_cases c (s.repMisuse c) with hs | hs | hs
          · exact .inl ⟨rfl, .inl (h.symm.trans hs)⟩
          · exact .inl ⟨rfl, .inr (h.symm.trans hs)⟩
          · exact .inr (h.symm.trans hs)
      rcases hw with hw | hw
      · exact .inr (.inr (.inl hw))
      · exact .inl ⟨hr.1, hr.2, hw⟩
    · split at h
      · rename_i hx
        injection h with h
        simp at hx
        exact .inr (.inl ⟨hx.1, hx.2, h.symm⟩)
      · injection h with h
        have run : ∀ k : State, k = (match q.check c with | some (flt, sub) => s.trapScalar c flt sub | none => eff c) →
            (∃ flt sub, q.check c = some (flt, sub) ∧ k = s.trapScalar c flt sub) ∨ (q.check c = none ∧ k = eff c) := by
          intro k hk
          cases hq : q.check c with
          | none => exact .inr ⟨rfl, by simpa [hq] using hk⟩
          | some e => exact .inl ⟨e.1, e.2, rfl, by simpa [hq] using hk⟩
        cases hm : q.mem
        · rw [if_neg (by simp [hm])] at h
          exact .inr (.inr (.inr (run t h.symm)))
        · rw [if_pos (by simp [hm])] at h
          rcases s.afterStores_cases c _ with hs | hs | hs
          · exact .inr (.inr (.inl ⟨rfl, .inl (h.symm.trans hs)⟩))
          · exact .inr (.inr (.inl ⟨rfl, .inr (h.symm.trans hs)⟩))
          · exact .inr (.inr (.inr (run t (h.symm.trans hs))))

/-- A scalar instruction of a fragment always answers a next state. -/
theorem scalarRun_next (s : State) (q : Scalar) (eff : Cur → State) (c : Cur) (h : s.current = some c) :
    ∃ t, scalarRun s q eff = .next t := by
  unfold scalarRun
  simp only [h]
  split
  · exact ⟨_, rfl⟩
  · split <;> exact ⟨_, rfl⟩

/-! ## Lane instructions -/

@[simp] theorem Frag.laneBegin_ref (f : Frag) : f.laneBegin.ref = f.ref := by
  unfold Frag.laneBegin; split <;> (try split) <;> rfl
@[simp] theorem Frag.laneBegin_exec (f : Frag) : f.laneBegin.exec = f.exec := by
  unfold Frag.laneBegin; split <;> (try split) <;> rfl
@[simp] theorem Frag.laneBegin_routine (f : Frag) : f.laneBegin.routine = f.routine := by
  unfold Frag.laneBegin; split <;> (try split) <;> rfl
@[simp] theorem Frag.laneBegin_exiting (f : Frag) : f.laneBegin.exiting = f.exiting := by
  simp [Frag.exiting]
@[simp] theorem Frag.laneBegin_posted (f : Frag) : f.laneBegin.posted = f.posted := by
  unfold Frag.laneBegin; split <;> (try split) <;> rfl
@[simp] theorem Frag.laneBegin_behind (f : Frag) : f.laneBegin.behind = f.behind := by
  unfold Frag.laneBegin; split <;> (try split) <;> rfl
@[simp] theorem Frag.laneBegin_sregs (f : Frag) : f.laneBegin.sregs = f.sregs := by
  unfold Frag.laneBegin; split <;> (try split) <;> rfl
@[simp] theorem Frag.laneBegin_fflags (f : Frag) : f.laneBegin.fflags = f.fflags := by
  unfold Frag.laneBegin; split <;> (try split) <;> rfl
@[simp] theorem Frag.laneBegin_queue (f : Frag) : f.laneBegin.queue = f.queue := by
  unfold Frag.laneBegin
  split
  · rename_i q qs h
    split <;> simp [h]
  · rename_i h; exact h.symm ▸ rfl

@[simp] theorem Frag.laneDone_ref (f : Frag) : f.laneDone.ref = f.ref := by
  show f.laneNext.ref = f.ref
  unfold Frag.laneNext; repeat (first | rfl | split)
@[simp] theorem Frag.laneDone_exec (f : Frag) : f.laneDone.exec = f.exec := by
  show f.laneNext.exec = f.exec
  unfold Frag.laneNext; repeat (first | rfl | split)
@[simp] theorem Frag.laneDone_sregs (f : Frag) : f.laneDone.sregs = f.sregs := by
  show f.laneNext.sregs = f.sregs
  unfold Frag.laneNext; repeat (first | rfl | split)
@[simp] theorem Frag.laneDone_fflags (f : Frag) : f.laneDone.fflags = f.fflags := by
  show f.laneNext.fflags = f.fflags
  unfold Frag.laneNext; repeat (first | rfl | split)
@[simp] theorem Frag.laneDone_spc (f : Frag) : f.laneDone.spc = f.spc := by
  show f.laneNext.spc = f.spc
  unfold Frag.laneNext; repeat (first | rfl | split)

@[simp] theorem Frag.laneDone_flight (f : Frag) : f.laneDone.flight = none := rfl

/-- A repeat's beginning posts no store. -/
theorem Settled.begin {s : State} {c : Cur} (h : Settled s c) :
    Settled (s.setFrag c.f.laneBegin) { c with f := c.f.laneBegin } := by
  refine ⟨by simpa using h.1, ?_⟩
  have hb := h.2
  simp only [State.behindStores, Frag.laneBegin_behind, State.setFrag_frags, State.setFrag_wgs, List.any_eq_false, Bool.or_eq_true,
    List.any_eq_true, List.mem_map, not_or, not_exists, not_and, Frag.laneBegin_ref] at hb ⊢
  intro n hn
  refine ⟨?_, (hb n hn).2⟩
  rintro x ⟨y, hy, rfl⟩ p hp
  by_cases he : y.ref = c.f.ref
  · rw [if_pos he, Frag.laneBegin_posted, h.1] at hp
    cases hp
  · rw [if_neg he] at hp
    exact (hb n hn).1 y hy p hp

/-- A lane instruction whose checks pass has its effect. -/
theorem laneRun_effect (s : State) (op : BitVec 10) (f : LaneOps) (poison : Lane → Option (BitVec 8))
    (eff : State → Lane → State) (mem : Bool) (c : Cur) (h : LaneReady s c op f) (hw : mem = true → Settled s c)
    (hp : poison (laneAt s c f) = none) :
    laneRun s op f poison eff mem = .next (eff (s.setFrag c.f.laneBegin) (laneAt s c f)) := by
  have hx : (c.f.laneBegin.exiting && !exitLane op) = false := by
    rcases h.permitted with h | h <;> simp [h]
  have hm : c.w.mPoisoned f.msel.toNat c.f.laneBegin.exec = false := by simpa using h.clean
  have hact : ({ c with f := c.f.laneBegin } : Cur).active f.msel = c.active f.msel := by simp [Cur.active]
  unfold laneRun
  simp only [h.current, hx, hm, hact, Bool.false_eq_true, if_false]
  cases mem
  · show Host.Outcome.next (match poison (laneAt s c f) with | some sub => _ | none => _) = _
    rw [hp]
    rfl
  · rw [if_pos rfl, State.afterStores_settled _ _ _ (hw rfl).begin]
    show Host.Outcome.next (match poison (laneAt s c f) with | some sub => _ | none => _) = _
    rw [hp]
    rfl

/-- A lane instruction that meets poison traps with the SUB of R237. -/
theorem laneRun_poison (s : State) (op : BitVec 10) (f : LaneOps) (poison : Lane → Option (BitVec 8))
    (eff : State → Lane → State) (mem : Bool) (c : Cur) (sub : BitVec 8) (h : LaneReady s c op f) (hw : mem = true → Settled s c)
    (hp : poison (laneAt s c f) = some sub) :
    laneRun s op f poison eff mem
      = .next ((s.setFrag c.f.laneBegin).trapLane (laneAt s c f).c (laneAt s c f).act fltPoison sub) := by
  have hx : (c.f.laneBegin.exiting && !exitLane op) = false := by
    rcases h.permitted with h | h <;> simp [h]
  have hm : c.w.mPoisoned f.msel.toNat c.f.laneBegin.exec = false := by simpa using h.clean
  have hact : ({ c with f := c.f.laneBegin } : Cur).active f.msel = c.active f.msel := by simp [Cur.active]
  unfold laneRun
  simp only [h.current, hx, hm, hact, Bool.false_eq_true, if_false]
  cases mem
  · show Host.Outcome.next (match poison (laneAt s c f) with | some sub => _ | none => _) = _
    rw [hp]
    rfl
  · rw [if_pos rfl, State.afterStores_settled _ _ _ (hw rfl).begin]
    show Host.Outcome.next (match poison (laneAt s c f) with | some sub => _ | none => _) = _
    rw [hp]
    rfl

/-- Everything a lane instruction can answer: an overrun of an exit routine, the wait for posted stores, a trap for a poisoned mask
select or operand, its effect. -/
theorem laneRun_cases (s t : State) (op : BitVec 10) (f : LaneOps) (poison : Lane → Option (BitVec 8))
    (eff : State → Lane → State) (mem : Bool) (h : laneRun s op f poison eff mem = .next t) :
    ∃ c, s.current = some c ∧
      (t = (s.setFrag c.f.laneBegin).exitOverrun (laneAt s c f).c
        ∨ (mem = true ∧ (t = (s.setFrag c.f.laneBegin).storeWait (laneAt s c f).c ∨ t = s.setFrag c.f.laneBegin))
        ∨ (∃ sub, t = (s.setFrag c.f.laneBegin).trapLane (laneAt s c f).c (laneAt s c f).act fltPoison sub)
        ∨ (poison (laneAt s c f) = none ∧ t = eff (s.setFrag c.f.laneBegin) (laneAt s c f))) := by
  unfold laneRun at h
  split at h
  · cases h
  · rename_i c hc
    have hact : ({ c with f := c.f.laneBegin } : Cur).active f.msel = c.active f.msel := by simp [Cur.active]
    refine ⟨c, hc, ?_⟩
    simp only [hact] at h
    split at h
    · injection h with h
      exact .inl h.symm
    · have run : ∀ k : State, k = (if c.w.mPoisoned f.msel.toNat c.f.laneBegin.exec
            then (s.setFrag c.f.laneBegin).trapLane (laneAt s c f).c (laneAt s c f).act fltPoison 0x03
            else match poison (laneAt s c f) with
              | some sub => (s.setFrag c.f.laneBegin).trapLane (laneAt s c f).c (laneAt s c f).act fltPoison sub
              | none => eff (s.setFrag c.f.laneBegin) (laneAt s c f)) →
          (∃ sub, k = (s.setFrag c.f.laneBegin).trapLane (laneAt s c f).c (laneAt s c f).act fltPoison sub)
            ∨ (poison (laneAt s c f) = none ∧ k = eff (s.setFrag c.f.laneBegin) (laneAt s c f)) := by
        intro k hk
        split at hk
        · exact .inl ⟨0x03, hk⟩
        · cases hp : poison (laneAt s c f) with
          | none => exact .inr ⟨rfl, by simpa [hp] using hk⟩
          | some sub => exact .inl ⟨sub, by simpa [hp] using hk⟩
      injection h with h
      cases mem
      · exact .inr (.inr (run t h.symm))
      · rw [if_pos rfl] at h
        rcases State.afterStores_cases (s.setFrag c.f.laneBegin) (laneAt s c f).c _ with hs | hs | hs
        · exact .inr (.inl ⟨rfl, .inl (h.symm.trans hs)⟩)
        · exact .inr (.inl ⟨rfl, .inr (h.symm.trans hs)⟩)
        · exact .inr (.inr (run t (h.symm.trans hs)))

/-- A lane instruction of a fragment always answers a next state. -/
theorem laneRun_next (s : State) (op : BitVec 10) (f : LaneOps) (poison : Lane → Option (BitVec 8))
    (eff : State → Lane → State) (mem : Bool) (c : Cur) (h : s.current = some c) :
    ∃ t, laneRun s op f poison eff mem = .next t := by
  unfold laneRun
  simp only [h]
  split <;> exact ⟨_, rfl⟩

end Sys2Proof.Machine
end

