-- ==== Sys2Proof/Laws/Lane.lean ====
section
/-! SUPPORT. The laws of the shared lane operations: what a lane-by-lane instruction answers once its checks pass. -/

namespace Sys2Proof.Machine

open Sys2Proof

/-- No flag changes no fragment. -/
@[simp] theorem Frag.flag_none (f : Frag) : f.flag 0#7 = f := by
  unfold Frag.flag
  simp
theorem Frag.flag_zero (f : Frag) : f.flag 0 = f := f.flag_none

/-- Readiness is the same for every opcode that an exit routine permits alike. -/
theorem LaneReady.to {s : State} {c : Cur} {op op' : BitVec 10} {f : LaneOps} (h : LaneReady s c op f)
    (he : exitLane op = true → exitLane op' = true) : LaneReady s c op' f :=
  ⟨h.current, h.permitted.imp id he, h.clean⟩

/-- A lane-by-lane instruction whose sources are clean has its result. -/
theorem laneMap_result (s : State) (op : BitVec 10) (f : LaneOps) (n : Nat) (h : Word64 → Word64 → Word64 → Word64) (c : Cur)
    (hr : LaneReady s c op f) (hp : (laneAt s c f).poisonSrc f.ty n = none) :
    laneMap s op f n h = laneResult s (laneAt s c f) f.ty f.dest (fun l => h ((laneAt s c f).srcA f.ty l)
      ((laneAt s c f).srcB f.ty l) ((laneAt s c f).srcC f.ty l)) 0 := by
  unfold laneMap laneResult
  rw [laneRun_effect s op f _ _ false c hr (by intro h; cases h) hp, Frag.flag_zero]
  rfl

/-- A lane-by-lane instruction with flags whose sources are clean has its result and flags. -/
theorem laneMapF_result (s : State) (op : BitVec 10) (f : LaneOps) (n : Nat)
    (h : BitVec 3 → Word64 → Word64 → Word64 → Word64 × BitVec 7) (c : Cur)
    (hr : LaneReady s c op f) (hp : (laneAt s c f).poisonSrc f.ty n = none) :
    laneMapF s op f n h = laneResult s (laneAt s c f) f.ty f.dest
      (fun l => (h s.issue.fmode ((laneAt s c f).srcA f.ty l) ((laneAt s c f).srcB f.ty l) ((laneAt s c f).srcC f.ty l)).1)
      ((laneAt s c f).flags (fun l =>
        (h s.issue.fmode ((laneAt s c f).srcA f.ty l) ((laneAt s c f).srcB f.ty l) ((laneAt s c f).srcC f.ty l)).2)) := by
  unfold laneMapF laneResult
  rw [laneRun_effect s op f _ _ false c hr (by intro h; cases h) hp]
  rfl

/-- A lane-by-lane instruction that meets poison in a source traps. -/
theorem laneMap_poison (s : State) (op : BitVec 10) (f : LaneOps) (n : Nat) (h : Word64 → Word64 → Word64 → Word64) (c : Cur)
    (sub : BitVec 8) (hr : LaneReady s c op f) (hp : (laneAt s c f).poisonSrc f.ty n = some sub) :
    laneMap s op f n h = laneTrapResult s (laneAt s c f) fltPoison sub 0 := by
  unfold laneMap
  rw [laneRun_poison s op f _ _ false c sub hr (by intro h; cases h) hp]
  rfl

/-- A lane instruction whose one effect is a mask has its mask result. -/
theorem laneRun_mask (s : State) (op : BitVec 10) (f : LaneOps) (poison : Lane → Option (BitVec 8)) (code : BitVec 8)
    (bits : Lane → Word64) (c : Cur) (hr : LaneReady s c op f) (hp : poison (laneAt s c f) = none) :
    laneRun s op f poison (fun s1 x => s1.endMask x x.c.f code (bits x))
      = maskResult s (laneAt s c f) code (bits (laneAt s c f)) 0 := by
  unfold maskResult
  rw [laneRun_effect s op f _ _ false c hr (by intro h; cases h) hp, Frag.flag_zero]
  rfl

end Sys2Proof.Machine
end

