-- ==== Sys2Proof/Laws/Late.lean ====
section
/-! SUPPORT. The laws of the writes that arrive late (R177) and of the record log (R257), where none is on its way and where none is kept. -/

namespace Sys2Proof.Machine

open Sys2Proof

/-- Where no write is on its way none arrives. -/
theorem State.landIf_empty (s : State) (test : Held → Bool) (h : s.remote = []) : s.landIf test = s := by
  cases s
  simp only at h
  subst h
  rfl
theorem State.landOwn_empty (s : State) (r : FragRef) (h : s.remote = []) : s.landOwn r = s := s.landIf_empty _ h
theorem State.landGroup_empty (s : State) (g : WgRef) (h : s.remote = []) : s.landGroup g = s := s.landIf_empty _ h
theorem State.landCmd_empty (s : State) (i : Nat) (h : s.remote = []) : s.landCmd i = s := s.landIf_empty _ h

/-- A write of the scratchpad, or to a place that is neither host nor peer memory, arrives at once. -/
theorem State.arrivesLate_scratch (s : State) (off : Nat) : s.arrivesLate (.scratch off) = false := rfl
theorem State.arrivesLate_near (s : State) (p : Phys) (h : s.remoteWord p = none) : s.arrivesLate (.phys p) = false := by
  simp [State.arrivesLate, h]
theorem State.storeAt_scratch (s : State) (x : Writer) (off n v : Nat) :
    s.storeAt x (.scratch off) n v = s.storePlain x.wg (.scratch off) n v := rfl
theorem State.storeAt_near (s : State) (x : Writer) (p : Phys) (n v : Nat) (h : s.remoteWord p = none) :
    s.storeAt x (.phys p) n v = s.storePlain x.wg (.phys p) n v := by
  simp [State.storeAt, State.arrivesLate_near s p h]

/-- A write on its way changes nothing else. -/
theorem State.sendLate_phys (s : State) (x : Writer) (p : Phys) (n v : Nat) (o : Bool) :
    s.sendLate x (.phys p) n v o = { s with remote := s.remote ++
      [{ wg := x.wg, wave := x.wave, owners := x.owners, src := x.src, or := o, step := s.fresh, place := p, size := n, val := v }] } := rfl

/-- The fence keeps what a command has read of host and peer memory, except at system scope, where it keeps nothing (R172, R177). -/
theorem Cmd.readAfter_system (x : Cmd) : x.readAfter 3 = { x with seen := [], far := [] } := by simp [Cmd.readAfter]
theorem Frag.pastFence_system (f : Frag) (now : Nat) :
    f.pastFence 3 now = { f with fenced := now, sysFenced := now, snaps := [], peeks := [] } := by simp [Frag.pastFence]

/-- Without a log the results of an instruction are those it computed (R257). -/
theorem State.logged_off (s : State) (c : Cur) (es : List Logged) (k : State → List Word64 → State)
    (h1 : c.j.log.mode ≠ 1) (h2 : c.j.log.mode ≠ 2) : s.logged c es k = k s (es.map (·.value)) := by
  rw [State.logged, if_neg h1, if_neg h2]
theorem State.logAhead_off (s : State) (c : Cur) (es : List Logged)
    (h1 : c.j.log.mode ≠ 1) (h2 : c.j.log.mode ≠ 2) : s.logAhead c es = some none := by
  rw [State.logAhead, if_neg h1, if_neg h2]

end Sys2Proof.Machine
end

