-- ==== Sys2Proof/Laws/PerInstr.lean ====
section
/-! SUPPORT. Per instruction: it has at most one stored form, a lane word or a scalar word (R39). -/

/-- An instruction that a lane word stores has no scalar word. -/
def Sys2Proof.Laws.OneForm.Statement (i : Sys2Proof.Instr) : Prop :=
  (Sys2Proof.laneCode i).isSome = true → Sys2Proof.encodeScalar i = none

namespace Sys2Proof.Laws.OneForm

open Sys2Proof

theorem saddR (d a b : BitVec 6) : Statement (.saddR d a b) := fun h => Bool.noConfusion h
theorem ssub (d a b : BitVec 6) : Statement (.ssub d a b) := fun h => Bool.noConfusion h
theorem smul (d a b : BitVec 6) : Statement (.smul d a b) := fun h => Bool.noConfusion h
theorem smulh (d a b : BitVec 6) : Statement (.smulh d a b) := fun h => Bool.noConfusion h
theorem sandR (d a b : BitVec 6) : Statement (.sandR d a b) := fun h => Bool.noConfusion h
theorem sorR (d a b : BitVec 6) : Statement (.sorR d a b) := fun h => Bool.noConfusion h
theorem sxorR (d a b : BitVec 6) : Statement (.sxorR d a b) := fun h => Bool.noConfusion h
theorem sshlR (d a b : BitVec 6) : Statement (.sshlR d a b) := fun h => Bool.noConfusion h
theorem sshrR (d a b : BitVec 6) : Statement (.sshrR d a b) := fun h => Bool.noConfusion h
theorem ssraR (d a b : BitVec 6) : Statement (.ssraR d a b) := fun h => Bool.noConfusion h
theorem smin (d a b : BitVec 6) : Statement (.smin d a b) := fun h => Bool.noConfusion h
theorem smax (d a b : BitVec 6) : Statement (.smax d a b) := fun h => Bool.noConfusion h
theorem scmp (cc : BitVec 3) (d a b : BitVec 6) : Statement (.scmp cc d a b) := fun h => Bool.noConfusion h
theorem ssel (c d a b : BitVec 6) : Statement (.ssel c d a b) := fun h => Bool.noConfusion h
theorem saddI (d a : BitVec 6) (imm : BitVec 14) : Statement (.saddI d a imm) := fun h => Bool.noConfusion h
theorem sandI (d a : BitVec 6) (imm : BitVec 14) : Statement (.sandI d a imm) := fun h => Bool.noConfusion h
theorem sorI (d a : BitVec 6) (imm : BitVec 14) : Statement (.sorI d a imm) := fun h => Bool.noConfusion h
theorem sxorI (d a : BitVec 6) (imm : BitVec 14) : Statement (.sxorI d a imm) := fun h => Bool.noConfusion h
theorem sshlI (d a : BitVec 6) (amt : BitVec 6) : Statement (.sshlI d a amt) := fun h => Bool.noConfusion h
theorem sshrI (d a : BitVec 6) (amt : BitVec 6) : Statement (.sshrI d a amt) := fun h => Bool.noConfusion h
theorem ssraI (d a : BitVec 6) (amt : BitVec 6) : Statement (.ssraI d a amt) := fun h => Bool.noConfusion h
theorem sli (d : BitVec 6) (imm : BitVec 14) : Statement (.sli d imm) := fun h => Bool.noConfusion h
theorem slui (d a : BitVec 6) (imm : BitVec 14) : Statement (.slui d a imm) := fun h => Bool.noConfusion h
theorem sld (d a : BitVec 6) (off : BitVec 14) : Statement (.sld d a off) := fun h => Bool.noConfusion h
theorem sst (d a : BitVec 6) (off : BitVec 14) : Statement (.sst d a off) := fun h => Bool.noConfusion h
theorem sldk (d : BitVec 6) (k : BitVec 14) : Statement (.sldk d k) := fun h => Bool.noConfusion h
theorem sysrd (d : BitVec 6) (n : BitVec 14) : Statement (.sysrd d n) := fun h => Bool.noConfusion h
theorem syswrExec (a : BitVec 6) : Statement (.syswrExec a) := fun h => Bool.noConfusion h
theorem syswrFmode (a : BitVec 6) : Statement (.syswrFmode a) := fun h => Bool.noConfusion h
theorem syswrFflags (a : BitVec 6) : Statement (.syswrFflags a) := fun h => Bool.noConfusion h
theorem syswrPev (a : BitVec 6) : Statement (.syswrPev a) := fun h => Bool.noConfusion h
theorem syswrEvmask (a : BitVec 6) : Statement (.syswrEvmask a) := fun h => Bool.noConfusion h
theorem syswrReadonly (a : BitVec 6) (n : BitVec 14) : Statement (.syswrReadonly a n) := fun h => Bool.noConfusion h
theorem bc (cond : BitVec 2) (a : BitVec 6) (off : BitVec 16) : Statement (.bc cond a off) := fun h => Bool.noConfusion h
theorem bcMask (cond : BitVec 2) (m : BitVec 3) (off : BitVec 16) : Statement (.bcMask cond m off) := fun h => Bool.noConfusion h
theorem split (m : BitVec 3) (k : BitVec 6) (off : BitVec 16) : Statement (.split m k off) := fun h => Bool.noConfusion h
theorem jmp (off : BitVec 26) : Statement (.jmp off) := fun h => Bool.noConfusion h
theorem call (off : BitVec 26) : Statement (.call off) := fun h => Bool.noConfusion h
theorem waitaddr (cond : BitVec 3) (a b : BitVec 6) : Statement (.waitaddr cond a b) := fun h => Bool.noConfusion h
theorem cpstart (a b : BitVec 6) : Statement (.cpstart a b) := fun h => Bool.noConfusion h
theorem cptest (any : BitVec 1) (d a b : BitVec 6) : Statement (.cptest any d a b) := fun h => Bool.noConfusion h
theorem nop : Statement .nop := fun h => Bool.noConfusion h
theorem endFrag : Statement .endFrag := fun h => Bool.noConfusion h
theorem yieldSlot : Statement .yieldSlot := fun h => Bool.noConfusion h
theorem ret (a : BitVec 6) : Statement (.ret a) := fun h => Bool.noConfusion h
theorem reconv (k : BitVec 6) : Statement (.reconv k) := fun h => Bool.noConfusion h
theorem ifence : Statement .ifence := fun h => Bool.noConfusion h
theorem efence (scope : BitVec 2) : Statement (.efence scope) := fun h => Bool.noConfusion h
theorem entrydone : Statement .entrydone := fun h => Bool.noConfusion h
theorem exitdone : Statement .exitdone := fun h => Bool.noConfusion h
theorem trap (code : BitVec 14) : Statement (.trap code) := fun h => Bool.noConfusion h
theorem tret : Statement .tret := fun h => Bool.noConfusion h
theorem svc (n : BitVec 10) : Statement (.svc n) := fun h => Bool.noConfusion h
theorem svcret : Statement .svcret := fun h => Bool.noConfusion h
theorem smode (m : BitVec 3) : Statement (.smode m) := fun h => Bool.noConfusion h
theorem tlbiPage (a : BitVec 6) : Statement (.tlbiPage a) := fun h => Bool.noConfusion h
theorem tlbiJob (a : BitVec 6) : Statement (.tlbiJob a) := fun h => Bool.noConfusion h
theorem tlbiPartition (a : BitVec 6) : Statement (.tlbiPartition a) := fun h => Bool.noConfusion h
theorem lissue (n : BitVec 5) : Statement (.lissue n) := fun h => Bool.noConfusion h
theorem ljump (imm : BitVec 14) : Statement (.ljump imm) := fun h => Bool.noConfusion h
theorem ljumpReg (a : BitVec 6) : Statement (.ljumpReg a) := fun h => Bool.noConfusion h
theorem rep (imm : BitVec 14) : Statement (.rep imm) := fun h => Bool.noConfusion h
theorem armBarrier (n : BitVec 4) (a : BitVec 6) (off : BitVec 11) : Statement (.armBarrier n a off) := fun h => Bool.noConfusion h
theorem armBitmap (n : BitVec 4) (a : BitVec 6) (off : BitVec 11) : Statement (.armBitmap n a off) := fun h => Bool.noConfusion h
theorem armMailbox (n : BitVec 4) (a : BitVec 6) (off : BitVec 11) : Statement (.armMailbox n a off) := fun h => Bool.noConfusion h
theorem armPool (n : BitVec 4) (a : BitVec 6) (off : BitVec 11) : Statement (.armPool n a off) := fun h => Bool.noConfusion h
theorem armAddr (n : BitVec 4) (a : BitVec 6) (off : BitVec 11) : Statement (.armAddr n a off) := fun h => Bool.noConfusion h
theorem armReply (n : BitVec 4) (a : BitVec 6) (off : BitVec 11) : Statement (.armReply n a off) := fun h => Bool.noConfusion h
theorem armTimer (n : BitVec 4) (a : BitVec 6) (off : BitVec 11) : Statement (.armTimer n a off) := fun h => Bool.noConfusion h
theorem armBaton (n : BitVec 4) (a : BitVec 6) (off : BitVec 11) : Statement (.armBaton n a off) := fun h => Bool.noConfusion h
theorem await (slots : BitVec 16) : Statement (.await slots) := fun h => Bool.noConfusion h
theorem disarm (n : BitVec 4) : Statement (.disarm n) := fun h => Bool.noConfusion h
theorem barinit (k : BitVec 8) : Statement (.barinit k) := fun h => Bool.noConfusion h
theorem bararrive (a : BitVec 6) (k : BitVec 8) : Statement (.bararrive a k) := fun h => Bool.noConfusion h
theorem barwait (k : BitVec 8) : Statement (.barwait k) := fun h => Bool.noConfusion h
theorem batonTake : Statement .batonTake := fun h => Bool.noConfusion h
theorem batonPass : Statement .batonPass := fun h => Bool.noConfusion h
theorem vadd (f : LaneOps) : Statement (.vadd f) := fun _ => rfl
theorem vsub (f : LaneOps) : Statement (.vsub f) := fun _ => rfl
theorem vmul (f : LaneOps) : Statement (.vmul f) := fun _ => rfl
theorem vmulh (f : LaneOps) : Statement (.vmulh f) := fun _ => rfl
theorem vmad (f : LaneOps) : Statement (.vmad f) := fun _ => rfl
theorem vdiv (f : LaneOps) : Statement (.vdiv f) := fun _ => rfl
theorem vrem (f : LaneOps) : Statement (.vrem f) := fun _ => rfl
theorem vmin (f : LaneOps) : Statement (.vmin f) := fun _ => rfl
theorem vmax (f : LaneOps) : Statement (.vmax f) := fun _ => rfl
theorem vabs (f : LaneOps) : Statement (.vabs f) := fun _ => rfl
theorem vand (f : LaneOps) : Statement (.vand f) := fun _ => rfl
theorem vor (f : LaneOps) : Statement (.vor f) := fun _ => rfl
theorem vxor (f : LaneOps) : Statement (.vxor f) := fun _ => rfl
theorem vshl (f : LaneOps) : Statement (.vshl f) := fun _ => rfl
theorem vshr (f : LaneOps) : Statement (.vshr f) := fun _ => rfl
theorem vsra (f : LaneOps) : Statement (.vsra f) := fun _ => rfl
theorem vpopc (f : LaneOps) : Statement (.vpopc f) := fun _ => rfl
theorem vclz (f : LaneOps) : Statement (.vclz f) := fun _ => rfl
theorem vctz (f : LaneOps) : Statement (.vctz f) := fun _ => rfl
theorem vbrev (f : LaneOps) : Statement (.vbrev f) := fun _ => rfl
theorem vbfe (f : LaneOps) : Statement (.vbfe f) := fun _ => rfl
theorem vbfi (f : LaneOps) : Statement (.vbfi f) := fun _ => rfl
theorem vcmp (f : LaneOps) : Statement (.vcmp f) := fun _ => rfl
theorem vsel (f : LaneOps) : Statement (.vsel f) := fun _ => rfl
theorem vmov (f : LaneOps) : Statement (.vmov f) := fun _ => rfl
theorem vli (f : LaneOps) : Statement (.vli f) := fun _ => rfl
theorem vlane (f : LaneOps) : Statement (.vlane f) := fun _ => rfl
theorem fadd (f : LaneOps) : Statement (.fadd f) := fun _ => rfl
theorem fsub (f : LaneOps) : Statement (.fsub f) := fun _ => rfl
theorem fmul (f : LaneOps) : Statement (.fmul f) := fun _ => rfl
theorem ffma (f : LaneOps) : Statement (.ffma f) := fun _ => rfl
theorem fmin (f : LaneOps) : Statement (.fmin f) := fun _ => rfl
theorem fmax (f : LaneOps) : Statement (.fmax f) := fun _ => rfl
theorem fcmp (f : LaneOps) : Statement (.fcmp f) := fun _ => rfl
theorem fclass (f : LaneOps) : Statement (.fclass f) := fun _ => rfl
theorem fdiv (f : LaneOps) : Statement (.fdiv f) := fun _ => rfl
theorem fsqrt (f : LaneOps) : Statement (.fsqrt f) := fun _ => rfl
theorem frcp (f : LaneOps) : Statement (.frcp f) := fun _ => rfl
theorem frsq (f : LaneOps) : Statement (.frsq f) := fun _ => rfl
theorem fexp2 (f : LaneOps) : Statement (.fexp2 f) := fun _ => rfl
theorem flog2 (f : LaneOps) : Statement (.flog2 f) := fun _ => rfl
theorem fsin (f : LaneOps) : Statement (.fsin f) := fun _ => rfl
theorem fcos (f : LaneOps) : Statement (.fcos f) := fun _ => rfl
theorem ftanh (f : LaneOps) : Statement (.ftanh f) := fun _ => rfl
theorem cvt (f : LaneOps) : Statement (.cvt f) := fun _ => rfl
theorem cvtn (f : LaneOps) : Statement (.cvtn f) := fun _ => rfl
theorem qpack (f : LaneOps) : Statement (.qpack f) := fun _ => rfl
theorem qunpack (f : LaneOps) : Statement (.qunpack f) := fun _ => rfl
theorem vld (f : LaneOps) : Statement (.vld f) := fun _ => rfl
theorem vst (f : LaneOps) : Statement (.vst f) := fun _ => rfl
theorem vldb (f : LaneOps) : Statement (.vldb f) := fun _ => rfl
theorem vstb (f : LaneOps) : Statement (.vstb f) := fun _ => rfl
theorem vlds (f : LaneOps) : Statement (.vlds f) := fun _ => rfl
theorem vsts (f : LaneOps) : Statement (.vsts f) := fun _ => rfl
theorem vatom (f : LaneOps) : Statement (.vatom f) := fun _ => rfl
theorem vpref (f : LaneOps) : Statement (.vpref f) := fun _ => rfl
theorem xballot (f : LaneOps) : Statement (.xballot f) := fun _ => rfl
theorem xbcast (f : LaneOps) : Statement (.xbcast f) := fun _ => rfl
theorem xperm (f : LaneOps) : Statement (.xperm f) := fun _ => rfl
theorem xred (f : LaneOps) : Statement (.xred f) := fun _ => rfl
theorem xscan (f : LaneOps) : Statement (.xscan f) := fun _ => rfl
theorem mand (f : LaneOps) : Statement (.mand f) := fun _ => rfl
theorem mor (f : LaneOps) : Statement (.mor f) := fun _ => rfl
theorem mxor (f : LaneOps) : Statement (.mxor f) := fun _ => rfl
theorem mandn (f : LaneOps) : Statement (.mandn f) := fun _ => rfl
theorem mnot (f : LaneOps) : Statement (.mnot f) := fun _ => rfl
theorem mmov (f : LaneOps) : Statement (.mmov f) := fun _ => rfl
theorem mpopc (f : LaneOps) : Statement (.mpopc f) := fun _ => rfl
theorem mma (f : LaneOps) : Statement (.mma f) := fun _ => rfl
theorem mvstream (f : LaneOps) : Statement (.mvstream f) := fun _ => rfl
theorem bload (f : LaneOps) : Statement (.bload f) := fun _ => rfl
theorem acczero (f : LaneOps) : Statement (.acczero f) := fun _ => rfl
theorem accread (f : LaneOps) : Statement (.accread f) := fun _ => rfl
theorem accwrite (f : LaneOps) : Statement (.accwrite f) := fun _ => rfl
theorem pinitCreate (f : LaneOps) : Statement (.pinitCreate f) := fun _ => rfl
theorem pinitDestroy (f : LaneOps) : Statement (.pinitDestroy f) := fun _ => rfl
theorem pput (f : LaneOps) : Statement (.pput f) := fun _ => rfl
theorem ptake (f : LaneOps) : Statement (.ptake f) := fun _ => rfl
theorem pstat (f : LaneOps) : Statement (.pstat f) := fun _ => rfl
theorem rload (f : LaneOps) : Statement (.rload f) := fun _ => rfl
theorem extensionOpcode (op : BitVec 10) (f : LaneOps) : Statement (.extensionOpcode op f) := fun _ => rfl
theorem fqtail (d : BitVec 2) (v : BitVec 32) : Statement (.fqtail d v) := fun _ => rfl
theorem fqdoneRetry (d : BitVec 2) (seq : BitVec 32) : Statement (.fqdoneRetry d seq) := fun _ => rfl
theorem fqdoneKill (d : BitVec 2) (seq : BitVec 32) : Statement (.fqdoneKill d seq) := fun _ => rfl
theorem sqtail (d : BitVec 2) (v : BitVec 32) : Statement (.sqtail d v) := fun _ => rfl
theorem sqdone (d : BitVec 2) (seq : BitVec 32) : Statement (.sqdone d seq) := fun _ => rfl
theorem sqrestart (d : BitVec 2) : Statement (.sqrestart d) := fun _ => rfl
theorem serviceFaultVerdict (d : BitVec 2) (v : Word64) : Statement (.serviceFaultVerdict d v) := fun _ => rfl
theorem freeze (j : JobRef) (wg : BitVec 32) : Statement (.freeze j wg) := fun _ => rfl
theorem thaw (j : JobRef) (wg : BitVec 32) : Statement (.thaw j wg) := fun _ => rfl
theorem step (fr : FragRef) (count : BitVec 16) : Statement (.step fr count) := fun _ => rfl
theorem freezept (j : JobRef) (slot : BitVec 3) (addr : Word64) : Statement (.freezept j slot addr) := fun _ => rfl
theorem read (w : WaveRef) (host : Word64) : Statement (.read w host) := fun _ => rfl
theorem write (w : WaveRef) (host : Word64) : Statement (.write w host) := fun _ => rfl
theorem checkpoint (part : BitVec 4) (graph area : Word64) (hold : Bool) : Statement (.checkpoint part graph area hold) := fun _ => rfl
theorem restore (part : BitVec 4) (area : Word64) : Statement (.restore part area) := fun _ => rfl
theorem log (j : JobRef) (area bytes : Word64) (mode : BitVec 2) : Statement (.log j area bytes mode) := fun _ => rfl
theorem reset (part : BitVec 4) : Statement (.reset part) := fun _ => rfl
theorem clusters (part : BitVec 4) (v : BitVec 32) : Statement (.clusters part v) := fun _ => rfl
theorem parklimit (part : BitVec 4) (v : BitVec 32) : Statement (.parklimit part v) := fun _ => rfl
theorem qos (part : BitVec 4) (v : Word64) : Statement (.qos part v) := fun _ => rfl
theorem clkstep (d : BitVec 2) (v : BitVec 3) : Statement (.clkstep d v) := fun _ => rfl
theorem gate (d : BitVec 2) (v : Word64) : Statement (.gate d v) := fun _ => rfl
theorem margincommit (d : BitVec 2) (v : Word64) : Statement (.margincommit d v) := fun _ => rfl
theorem registerWrite (r : CtlReg) (v : BitVec 512) : Statement (.registerWrite r v) := fun _ => rfl
theorem null (c : CallSrc) : Statement (.null c) := fun _ => rfl
theorem launch (c : CallSrc) : Statement (.launch c) := fun _ => rfl
theorem stopgraph (c : CallSrc) : Statement (.stopgraph c) := fun _ => rfl
theorem resumegraph (c : CallSrc) : Statement (.resumegraph c) := fun _ => rfl
theorem rescreate (c : CallSrc) : Statement (.rescreate c) := fun _ => rfl
theorem resdemote (c : CallSrc) : Statement (.resdemote c) := fun _ => rfl
theorem resevict (c : CallSrc) : Statement (.resevict c) := fun _ => rfl
theorem respromote (c : CallSrc) : Statement (.respromote c) := fun _ => rfl
theorem resfree (c : CallSrc) : Statement (.resfree c) := fun _ => rfl
theorem map (c : CallSrc) : Statement (.map c) := fun _ => rfl
theorem unmap (c : CallSrc) : Statement (.unmap c) := fun _ => rfl
theorem armlaunch (c : CallSrc) : Statement (.armlaunch c) := fun _ => rfl
theorem protect (c : CallSrc) : Statement (.protect c) := fun _ => rfl
theorem teardown (c : CallSrc) : Statement (.teardown c) := fun _ => rfl
theorem attest (c : CallSrc) : Statement (.attest c) := fun _ => rfl
theorem mcload (c : CallSrc) : Statement (.mcload c) := fun _ => rfl
theorem collgroup (c : CallSrc) : Statement (.collgroup c) := fun _ => rfl
theorem collfree (c : CallSrc) : Statement (.collfree c) := fun _ => rfl
theorem controlProgramCall (c : CallSrc) (status : BitVec 8) (result : Word64) : Statement (.controlProgramCall c status result) := fun _ => rfl
theorem launchStart (queue : BitVec 5) : Statement (.launchStart queue) := fun _ => rfl
theorem dieReport (j : JobRef) (d : BitVec 2) : Statement (.dieReport j d) := fun _ => rfl
theorem completionSignal (j : JobRef) : Statement (.completionSignal j) := fun _ => rfl
theorem workgroupRetirement (w : WgRef) : Statement (.workgroupRetirement w) := fun _ => rfl
theorem dispatch (w : WgRef) (core : BitVec 8) : Statement (.dispatch w core) := fun _ => rfl
theorem parkLimitExpiry (j : JobRef) : Statement (.parkLimitExpiry j) := fun _ => rfl
theorem preemptionRequest (w : WgRef) (k : PreemptKind) : Statement (.preemptionRequest w k) := fun _ => rfl
theorem drainLimitExpiry (w : WgRef) : Statement (.drainLimitExpiry w) := fun _ => rfl
theorem copySquash (w : WgRef) : Statement (.copySquash w) := fun _ => rfl
theorem saveCompletion (w : WgRef) : Statement (.saveCompletion w) := fun _ => rfl
theorem exitDeadlineExpiry (fr : FragRef) : Statement (.exitDeadlineExpiry fr) := fun _ => rfl
theorem graphStopJob (part : BitVec 4) : Statement (.graphStopJob part) := fun _ => rfl
theorem starvationBoost (fr : FragRef) : Statement (.starvationBoost fr) := fun _ => rfl
theorem dataReturn (fr : FragRef) : Statement (.dataReturn fr) := fun _ => rfl
theorem postedStoreTranslation (fr : FragRef) : Statement (.postedStoreTranslation fr) := fun _ => rfl
theorem faultQueueWrite (d : BitVec 2) : Statement (.faultQueueWrite d) := fun _ => rfl
theorem serviceQueuePost (d : BitVec 2) : Statement (.serviceQueuePost d) := fun _ => rfl
theorem copyFire (core : BitVec 8) (chan : BitVec 3) : Statement (.copyFire core chan) := fun _ => rfl
theorem chunkLand (cmd : Nat) (chunk : Nat) : Statement (.chunkLand cmd chunk) := fun _ => rfl
theorem copyCompletion (cmd : Nat) : Statement (.copyCompletion cmd) := fun _ => rfl
theorem collectiveResult (cmd : Nat) (contribs : Contribs) : Statement (.collectiveResult cmd contribs) := fun _ => rfl
theorem timerTokenFire (w : WaveRef) (slot : BitVec 4) : Statement (.timerTokenFire w slot) := fun _ => rfl
theorem poolSummary (pool : BitVec 6) (d : BitVec 2) : Statement (.poolSummary pool d) := fun _ => rfl
theorem poolCensus (pool : BitVec 6) : Statement (.poolCensus pool) := fun _ => rfl
theorem tlbiCompletion (id : Nat) : Statement (.tlbiCompletion id) := fun _ => rfl
theorem tlbiDrainExpiry (id : Nat) : Statement (.tlbiDrainExpiry id) := fun _ => rfl
theorem freezePointHit (fr : FragRef) : Statement (.freezePointHit fr) := fun _ => rfl
theorem stepEnd (fr : FragRef) : Statement (.stepEnd fr) := fun _ => rfl
theorem frameArrival (frame : List Byte) : Statement (.frameArrival frame) := fun _ => rfl
theorem remoteWriteArrival (tgt : RemoteAddr) (bytes : List Byte) : Statement (.remoteWriteArrival tgt bytes) := fun _ => rfl
theorem dieLoss (d : BitVec 2) : Statement (.dieLoss d) := fun _ => rfl
theorem flitCrcFailure (d : BitVec 2) : Statement (.flitCrcFailure d) := fun _ => rfl
theorem ucieModuleFailure (d : BitVec 2) (m : BitVec 4) : Statement (.ucieModuleFailure d m) := fun _ => rfl
theorem moduleReset : Statement .moduleReset := fun _ => rfl
theorem powerLoss : Statement .powerLoss := fun _ => rfl
theorem firmwareFlip (digest : BitVec 256) (version : Nat) (signed : Bool) : Statement (.firmwareFlip digest version signed) := fun _ => rfl
theorem floorRaise (version : Nat) (signed : Bool) : Statement (.floorRaise version signed) := fun _ => rfl
theorem thermalTrip : Statement .thermalTrip := fun _ => rfl
theorem scrubUnit (ctx : Nat) : Statement (.scrubUnit ctx) := fun _ => rfl
theorem controlCoreAccess (hart : BitVec 5) (pa : BitVec 44) (op : CoreOp) : Statement (.controlCoreAccess hart pa op) := fun _ => rfl
theorem peerAtomicArrival (tgt : RemoteAddr) (ty : BitVec 5) (op : BitVec 4) (b c : Word64) : Statement (.peerAtomicArrival tgt ty op b c) := fun _ => rfl
theorem portFailure (plane : BitVec 5) (module : BitVec 10) : Statement (.portFailure plane module) := fun _ => rfl
theorem peerGroupChange (part : BitVec 4) (group : BitVec 8) (rank : BitVec 10) (created : Bool) : Statement (.peerGroupChange part group rank created) := fun _ => rfl
theorem marginProposal (d : BitVec 2) (v : Word64) : Statement (.marginProposal d v) := fun _ => rfl

end Sys2Proof.Laws.OneForm
end

