-- ==== Sys2Proof/Laws/Sparse.lean ====
section
/-! SUPPORT. The laws of `Sparse` storage: what a read finds after a write, and that every operation keeps the canonical
form. -/

namespace Sys2Proof.Machine

variable {w : Nat}

@[simp] theorem Sparse.get_nil (i : Nat) : Sparse.get ([] : Sparse w) i = 0 := rfl

theorem Sparse.get_drop (m : Sparse w) (i j : Nat) :
    Sparse.get (Sparse.drop m i) j = if j = i then 0 else Sparse.get m j := by
  induction m with
  | nil => simp [Sparse.drop]
  | cons c m ih =>
    obtain ⟨k, u⟩ := c
    by_cases h : i = k
    · rw [Sparse.drop, if_pos h, ih, Sparse.get]
      subst h
      split <;> rfl
    · rw [Sparse.drop, if_neg h, Sparse.get, ih, Sparse.get]
      by_cases hj : j = k
      · have : ¬ j = i := fun e => h (e.symm.trans hj)
        rw [if_pos hj, if_neg this, if_pos hj]
      · rw [if_neg hj, if_neg hj]

theorem Sparse.get_insert (m : Sparse w) (i j : Nat) (v : BitVec w) :
    Sparse.get (Sparse.insert m i v) j = if j = i then v else Sparse.get m j := by
  induction m with
  | nil => simp [Sparse.insert, Sparse.get]
  | cons c m ih =>
    obtain ⟨k, u⟩ := c
    unfold Sparse.insert
    split
    · simp [Sparse.get]
    · split
      · rename_i h
        subst h
        by_cases hj : j = i <;> simp [Sparse.get, hj]
      · rename_i h
        rw [Sparse.get, ih, Sparse.get]
        by_cases hj : j = k
        · have : ¬ j = i := fun e => h (e.symm.trans hj)
          rw [if_pos hj, if_neg this, if_pos hj]
        · rw [if_neg hj, if_neg hj]

/-- What a read finds after a write. -/
theorem Sparse.get_set (m : Sparse w) (i j : Nat) (v : BitVec w) :
    Sparse.get (Sparse.set m i v) j = if j = i then v else Sparse.get m j := by
  unfold Sparse.set
  split
  · rename_i h
    rw [Sparse.get_drop, h]
  · exact Sparse.get_insert m i j v

@[simp] theorem Sparse.get_set_self (m : Sparse w) (i : Nat) (v : BitVec w) : Sparse.get (Sparse.set m i v) i = v := by
  rw [Sparse.get_set, if_pos rfl]

theorem Sparse.get_set_ne (m : Sparse w) (i j : Nat) (v : BitVec w) (h : j ≠ i) :
    Sparse.get (Sparse.set m i v) j = Sparse.get m j := by
  rw [Sparse.get_set, if_neg h]

theorem Sparse.wfFrom_mono (m : Sparse w) (lo hi : Nat) (h : Sparse.wfFrom hi m = true) (hle : lo ≤ hi) :
    Sparse.wfFrom lo m = true := by
  cases m with
  | nil => rfl
  | cons c m =>
    simp only [Sparse.wfFrom, Bool.and_eq_true, decide_eq_true_eq] at h ⊢
    exact ⟨⟨by omega, h.1.2⟩, h.2⟩

theorem Sparse.wfFrom_drop (m : Sparse w) (lo i : Nat) (h : Sparse.wfFrom lo m = true) :
    Sparse.wfFrom lo (Sparse.drop m i) = true := by
  induction m generalizing lo with
  | nil => rfl
  | cons c m ih =>
    obtain ⟨k, u⟩ := c
    simp only [Sparse.wfFrom, Bool.and_eq_true, decide_eq_true_eq] at h
    unfold Sparse.drop
    split
    · exact Sparse.wfFrom_mono _ lo (k + 1) (ih (k + 1) h.2) (by omega)
    · simp only [Sparse.wfFrom, Bool.and_eq_true, decide_eq_true_eq]
      exact ⟨h.1, ih (k + 1) h.2⟩

theorem Sparse.wfFrom_insert (m : Sparse w) (lo i : Nat) (v : BitVec w) (h : Sparse.wfFrom lo m = true) (hi : lo ≤ i)
    (hv : v ≠ 0) : Sparse.wfFrom lo (Sparse.insert m i v) = true := by
  induction m generalizing lo with
  | nil =>
    simp only [Sparse.insert, Sparse.wfFrom, Bool.and_eq_true, decide_eq_true_eq]
    exact ⟨⟨hi, hv⟩, trivial⟩
  | cons c m ih =>
    obtain ⟨k, u⟩ := c
    simp only [Sparse.wfFrom, Bool.and_eq_true, decide_eq_true_eq] at h
    unfold Sparse.insert
    split
    · simp only [Sparse.wfFrom, Bool.and_eq_true, decide_eq_true_eq]
      exact ⟨⟨hi, hv⟩, ⟨by omega, h.1.2⟩, h.2⟩
    · split
      · rename_i heq
        simp only [Sparse.wfFrom, Bool.and_eq_true, decide_eq_true_eq]
        exact ⟨⟨hi, hv⟩, heq ▸ h.2⟩
      · simp only [Sparse.wfFrom, Bool.and_eq_true, decide_eq_true_eq]
        exact ⟨h.1, ih (k + 1) h.2 (by omega)⟩

theorem Sparse.wfFrom_set (m : Sparse w) (lo i : Nat) (v : BitVec w) (h : Sparse.wfFrom lo m = true) (hi : lo ≤ i) :
    Sparse.wfFrom lo (Sparse.set m i v) = true := by
  unfold Sparse.set
  split
  · exact Sparse.wfFrom_drop m lo i h
  · rename_i hv
    exact Sparse.wfFrom_insert m lo i v h hi hv

/-- Writing keeps the canonical form. -/
theorem Sparse.wf_set (m : Sparse w) (i : Nat) (v : BitVec w) (h : Sparse.wf m = true) : Sparse.wf (Sparse.set m i v) = true :=
  Sparse.wfFrom_set m 0 i v h (Nat.zero_le i)

theorem Sparse.wf_filter (m : Sparse w) (lo : Nat) (p : Nat × BitVec w → Bool) (h : Sparse.wfFrom lo m = true) :
    Sparse.wfFrom lo (m.filter p) = true := by
  induction m generalizing lo with
  | nil => rfl
  | cons c m ih =>
    obtain ⟨k, u⟩ := c
    simp only [Sparse.wfFrom, Bool.and_eq_true, decide_eq_true_eq] at h
    have ht := ih (k + 1) h.2
    simp only [List.filter_cons]
    split
    · simp only [Sparse.wfFrom, Bool.and_eq_true, decide_eq_true_eq]
      exact ⟨h.1, ht⟩
    · exact Sparse.wfFrom_mono _ lo (k + 1) ht (by omega)

theorem Sparse.wf_erase (m : Sparse w) (base len : Nat) (h : Sparse.wf m = true) : Sparse.wf (Sparse.erase m base len) = true :=
  Sparse.wf_filter m 0 _ h

theorem Sparse.wf_setAll (m : Sparse w) (base : Nat) (cs : Sparse w) (h : Sparse.wf m = true) :
    Sparse.wf (Sparse.setAll m base cs) = true := by
  induction cs generalizing m with
  | nil => exact h
  | cons c cs ih => exact ih _ (Sparse.wf_set m _ _ h)

theorem Sparse.wf_paste (m : Sparse w) (base len : Nat) (b : Sparse w) (h : Sparse.wf m = true) :
    Sparse.wf (Sparse.paste m base len b) = true :=
  Sparse.wf_setAll _ _ _ (Sparse.wf_erase m base len h)

theorem Sparse.wf_setBytes (m : Sparse 8) (i n v : Nat) (h : Sparse.wf m = true) :
    Sparse.wf (Sparse.setBytes m i n v) = true := by
  induction n generalizing m i v with
  | zero => exact h
  | succ n ih => exact ih _ _ _ (Sparse.wf_set m i _ h)

theorem Sparse.wf_setList (m : Sparse 8) (i : Nat) (bs : List Byte) (h : Sparse.wf m = true) :
    Sparse.wf (Sparse.setList m i bs) = true := by
  induction bs generalizing m i with
  | nil => exact h
  | cons b bs ih => exact ih _ _ (Sparse.wf_set m i b h)

/-- A write of `n` bytes leaves every other byte alone. -/
theorem Sparse.get_setBytes_out (m : Sparse 8) (i n v a : Nat) (h : a < i ∨ i + n ≤ a) :
    Sparse.get (Sparse.setBytes m i n v) a = Sparse.get m a := by
  induction n generalizing m i v with
  | zero => rfl
  | succ n ih =>
    rw [Sparse.setBytes, ih _ _ _ (by omega)]
    exact Sparse.get_set_ne m i a _ (by omega)

/-- A read of `n` bytes after their write gives the value, as far as it fits. -/
theorem Sparse.bytesNat_setBytes (m : Sparse 8) (i n v : Nat) :
    Sparse.bytesNat (Sparse.setBytes m i n v) i n = v % 256 ^ n := by
  induction n generalizing m i v with
  | zero => simp [Sparse.bytesNat, Nat.mod_one]
  | succ n ih =>
    rw [Sparse.setBytes, Sparse.bytesNat, ih, Sparse.get_setBytes_out _ _ _ _ _ (by omega),
      Sparse.get_set_self, BitVec.toNat_ofNat, Nat.pow_succ' (n := n),
      Nat.mod_mul]

/-- A write of a list of bytes leaves every other byte alone. -/
theorem Sparse.get_setList_out (m : Sparse 8) (i : Nat) (bs : List Byte) (a : Nat) (h : a < i ∨ i + bs.length ≤ a) :
    Sparse.get (Sparse.setList m i bs) a = Sparse.get m a := by
  induction bs generalizing m i with
  | nil => rfl
  | cons b bs ih =>
    simp only [List.length_cons] at h
    rw [Sparse.setList, ih _ _ (by omega)]
    exact Sparse.get_set_ne m i a _ (by omega)

theorem Memory.wf_set (m : Memory) (i : Nat) (v : Byte) (h : Memory.wf m = true) : Memory.wf (Sparse.set m i v) = true :=
  Sparse.wf_set m i v h
theorem Memory.wf_setBytes (m : Memory) (i n v : Nat) (h : Memory.wf m = true) : Memory.wf (Sparse.setBytes m i n v) = true :=
  Sparse.wf_setBytes m i n v h
theorem Memory.wf_setList (m : Memory) (i : Nat) (bs : List Byte) (h : Memory.wf m = true) :
    Memory.wf (Sparse.setList m i bs) = true := Sparse.wf_setList m i bs h
theorem Memory.wf_erase (m : Memory) (base len : Nat) (h : Memory.wf m = true) : Memory.wf (Sparse.erase m base len) = true :=
  Sparse.wf_erase m base len h

end Sys2Proof.Machine
end

