-- ==== Sys2Proof/Laws/Scalar.lean ====
section
/-! SUPPORT. The laws of scalar registers and of the shared scalar operations: when they give their result. -/

namespace Sys2Proof.Machine

open Sys2Proof

@[simp] theorem Cur.has_nil (c : Cur) : c.has [] ↔ True := by simp [Cur.has]
@[simp] theorem Cur.has_cons (c : Cur) (r : BitVec 6) (rs : List (BitVec 6)) :
    c.has (r :: rs) ↔ r.toNat < roleSregs c.role ∧ c.has rs := by simp [Cur.has]
@[simp] theorem Cur.clean_nil (c : Cur) : c.clean [] ↔ True := by simp [Cur.clean]
@[simp] theorem Cur.clean_cons (c : Cur) (r : BitVec 6) (rs : List (BitVec 6)) :
    c.clean (r :: rs) ↔ c.f.sPoisoned r = false ∧ c.clean rs := by simp [Cur.clean]

/-! ## The scalar file (R66, R249) -/

@[simp] theorem Frag.setS_ref (f : Frag) (d : BitVec 6) (v : Word64) : (f.setS d v).ref = f.ref := by
  unfold Frag.setS; split <;> rfl
@[simp] theorem Frag.setS_spc (f : Frag) (d : BitVec 6) (v : Word64) : (f.setS d v).spc = f.spc := by
  unfold Frag.setS; split <;> rfl
@[simp] theorem Frag.setS_lpc (f : Frag) (d : BitVec 6) (v : Word64) : (f.setS d v).lpc = f.lpc := by
  unfold Frag.setS; split <;> rfl
@[simp] theorem Frag.setS_exec (f : Frag) (d : BitVec 6) (v : Word64) : (f.setS d v).exec = f.exec := by
  unfold Frag.setS; split <;> rfl
@[simp] theorem Frag.setS_fmode (f : Frag) (d : BitVec 6) (v : Word64) : (f.setS d v).fmode = f.fmode := by
  unfold Frag.setS; split <;> rfl
@[simp] theorem Frag.setS_fflags (f : Frag) (d : BitVec 6) (v : Word64) : (f.setS d v).fflags = f.fflags := by
  unfold Frag.setS; split <;> rfl
@[simp] theorem Frag.setS_rptc (f : Frag) (d : BitVec 6) (v : Word64) : (f.setS d v).rptc = f.rptc := by
  unfold Frag.setS; split <;> rfl
@[simp] theorem Frag.setS_join (f : Frag) (d : BitVec 6) (v : Word64) : (f.setS d v).join = f.join := by
  unfold Frag.setS; split <;> rfl
@[simp] theorem Frag.setS_evslot (f : Frag) (d : BitVec 6) (v : Word64) : (f.setS d v).evslot = f.evslot := by
  unfold Frag.setS; split <;> rfl
@[simp] theorem Frag.setS_evinfo (f : Frag) (d : BitVec 6) (v : Word64) : (f.setS d v).evinfo = f.evinfo := by
  unfold Frag.setS; split <;> rfl
@[simp] theorem Frag.setS_queue (f : Frag) (d : BitVec 6) (v : Word64) : (f.setS d v).queue = f.queue := by
  unfold Frag.setS; split <;> rfl
@[simp] theorem Frag.setS_posted (f : Frag) (d : BitVec 6) (v : Word64) : (f.setS d v).posted = f.posted := by
  unfold Frag.setS; split <;> rfl
@[simp] theorem Frag.setS_slot (f : Frag) (d : BitVec 6) (v : Word64) : (f.setS d v).slot = f.slot := by
  unfold Frag.setS; split <;> rfl

/-! ## The shared scalar operations -/

theorem State.putS_result (s : State) (c : Cur) (d : BitVec 6) (v : Word64) :
    Host.Outcome.next (s.putS c d v) = scalarResult s c d v := by
  simp [State.putS, Frag.next, scalarResult]

/-- A register-form ALU instruction's result. -/
theorem aluR_result (s : State) (c : Cur) (d a b : BitVec 6) (op : Word64 → Word64 → Word64) (h : Issues s c)
    (hr : c.has [d, a, b]) (hc : c.clean [a, b]) : aluR s d a b op = scalarResult s c d (op (c.f.s a) (c.f.s b)) := by
  unfold aluR
  rw [scalarRun_effect s _ _ c h (.inr rfl) (by intro h; cases h) (Scalar.check_none _ _ hr hc (by simp) rfl (by simp) rfl), State.putS_result]

/-- An immediate-form ALU instruction's result. -/
theorem aluI_result (s : State) (c : Cur) (d a : BitVec 6) (op : Word64 → Word64) (h : Issues s c)
    (hr : c.has [d, a]) (hc : c.clean [a]) : aluI s d a op = scalarResult s c d (op (c.f.s a)) := by
  unfold aluI
  rw [scalarRun_effect s _ _ c h (.inr rfl) (by intro h; cases h) (Scalar.check_none _ _ hr hc (by simp) rfl (by simp) rfl), State.putS_result]

end Sys2Proof.Machine
end

