-- ==== Sys2Proof/Laws/Translate.lean ====
section
/-! SUPPORT. The laws of the walks (R158, R166): each walk level by level, and the walks of a party that has read no entry ahead. -/

namespace Sys2Proof.Machine

open Sys2Proof

/-- A partition-stage walk with no level left. -/
theorem State.walk2_nil (s : State) (ipa tab : Nat) : s.walk2 ipa [] tab = .error { cause := 0x06, ipa := ipa } := rfl

/-- One level of a partition-stage walk (R158). -/
theorem State.walk2_cons (s : State) (ipa l : Nat) (ls : List Nat) (tab : Nat) :
    s.walk2 ipa (l :: ls) tab =
      match s.tableEntry { pa := tab + 8 * (ipa / 2 ^ levelShift l % levelEntries true l), key := none } with
      | .error e => .error e
      | .ok e =>
        match entOf true l e with
        | .absent => .error { cause := 0x04, ipa := ipa }
        | .malformed => .error { cause := 0x06, ipa := ipa }
        | .table a => s.walk2 ipa ls a
        | .leaf a b => .ok (a + ipa % 2 ^ levelShift l, b) := by
  unfold State.walk2
  rw [walk2By]
  all_goals (split <;> rename_i h <;> simp only [h])
  all_goals (split <;> rename_i h <;> simp only [h])

/-- The service job's second stage is the identity (R258). -/
theorem State.stage2_service (s : State) (ipa : Nat) : s.stage2 16 ipa = .ok (ipa, identityLeaf) := rfl

/-- The second stage of a partition (R158). -/
theorem State.stage2_part (s : State) (part ipa : Nat) (h : part ≠ 16) :
    s.stage2 part ipa =
      match s.part? part with
      | none => .error { cause := 0x04, ipa := ipa }
      | some p => s.walk2 ipa [1, 2, 3, 4] ((p.s2root.extractLsb' 8 36).toNat * 256) := by
  unfold State.stage2 State.stage2By
  rw [if_neg h]
  rfl

/-- A job-stage walk with no level left. -/
theorem State.walk1_nil (s : State) (part va tab : Nat) : s.walk1 part va [] tab = .error { cause := 0x03, ipa := 0 } := rfl

/-- One level of a job-stage walk, its table reached through stage 2 (R158). -/
theorem State.walk1_cons (s : State) (part va l : Nat) (ls : List Nat) (tab : Nat) :
    s.walk1 part va (l :: ls) tab =
      match s.stage2 part (tab + 8 * (va / 2 ^ levelShift l % levelEntries false l)) with
      | .error e => .error e
      | .ok (pa, b) =>
        match s.tableEntry { pa := pa, key := leafKey b } with
        | .error e => .error e
        | .ok e =>
          match entOf false l e with
          | .absent => .error { cause := 0x01, ipa := 0 }
          | .malformed => .error { cause := 0x03, ipa := 0 }
          | .table a => s.walk1 part va ls a
          | .leaf a b => .ok (a + va % 2 ^ levelShift l, b) := by
  unfold State.walk1 State.stage2
  rw [State.walk1By]
  all_goals (split <;> rename_i h <;> simp only [h])
  all_goals (split <;> rename_i h <;> simp only [h])
  all_goals (split <;> rename_i h <;> simp only [h])

/-- The party reads each entry as it stands where it has read none ahead (R166). -/
theorem State.entryFor_fresh (s : State) (w : Who) (va i k : Nat) (p : Phys) (h : w.walked = []) :
    s.entryFor w va i k p = s.tableEntry p := by
  simp [State.entryFor, Who.entryAhead, h]

/-- Its walks are then those of the entries as they stand. -/
theorem State.jobWalk_fresh (s : State) (w : Who) (va : Nat) (h : w.walked = []) :
    s.jobWalk w va = s.walk1 w.job.part va [0, 1, 2, 3, 4] (w.s1root % 2 ^ 44) := by
  have e : s.entryFor w va = fun _ _ p => s.tableEntry p := by
    funext i k p
    exact s.entryFor_fresh w va i k p h
  rw [State.jobWalk, e, State.walk1]
theorem State.partWalk_fresh (s : State) (w : Who) (va ipa : Nat) (h : w.walked = []) :
    s.partWalk w va ipa = s.stage2 w.job.part ipa := by
  have e : s.entryFor w va 5 = fun _ p => s.tableEntry p := by
    funext k p
    exact s.entryFor_fresh w va 5 k p h
  rw [State.partWalk, e, State.stage2]

/-- No translation is cached where none stands in the TLB (R160). -/
theorem State.cached_none (s : State) (w : Who) (va : Nat) (u : Use) (h : s.tlb = []) : s.cached w va u = none := by
  simp [State.cached, h]

end Sys2Proof.Machine
end

