-- ==== Sys2Proof/Machine/Latency.lean ====
section
/-! DEFINITION. The certified count of an exit routine: the entries of R74 and the largest sum of them along a path to an EXITDONE (R74, R75). The
machine's own limit is the exit deadline, which counts every cycle from vectoring (`Routine.exit`, `State.exitLate`; R245). -/

namespace Sys2Proof.Machine

open Sys2Proof

/-! ## Entries (R74) -/

/-- Whether a lane instruction's first source uses a cross-lane mode: W2 is its modifier word and names one (R54, R55). -/
def usesCross (op : BitVec 10) (f : LaneOps) : Bool :=
  decide (op.toNat < 0x200 ∨ (0x280 ≤ op.toNat ∧ op.toNat < 0x2C0)) && f.kA != 2 && f.kB != 2 && f.kC != 2 && f.w2.extractLsb' 29 3 != 0

/-- The entry of a lane instruction, doubled by a 64-bit type; 4 cycles for a cross-lane source. -/
def laneEntry (w : BitVec 96) : Option Nat :=
  let op := laneOpcode w
  let f := laneFields w
  (exitCycles op).map (fun n => (if tyIs64 f.ty then 2 * n else n) + (if usesCross op f then 4 else 0))

/-- The entries of a scalar instruction that goes on at the next one. -/
def scalarEntry (i : Instr) : Option Nat :=
  match i with
  | .saddR _ _ _ | .ssub _ _ _ | .sandR _ _ _ | .sorR _ _ _ | .sxorR _ _ _ | .sshlR _ _ _ | .sshrR _ _ _ | .ssraR _ _ _ | .smin _ _ _
  | .smax _ _ _ | .scmp _ _ _ _ | .ssel _ _ _ _ | .saddI _ _ _ | .sandI _ _ _ | .sorI _ _ _ | .sxorI _ _ _ | .sshlI _ _ _ | .sshrI _ _ _
  | .ssraI _ _ _ | .sli _ _ | .slui _ _ _ | .nop => some 2
  | .smul _ _ _ | .smulh _ _ _ | .sysrd _ _ | .smode _ => some 4
  | .sst _ _ _ => some 16
  | _ => none

/-! ## The certified count (R75) -/

/-- The sum of the entries of `n` lane words from word `l` on. -/
def laneSum (lane : Nat → Option (BitVec 96)) (l : Nat) : Nat → Option Nat
  | 0 => some 0
  | n + 1 =>
    match (lane l).bind laneEntry, laneSum lane (l + 1) n with
    | some a, some b => some (a + b)
    | _, _ => none

/-- The sum of what a LISSUE enqueues, its first instruction `times` times over. -/
def issueSum (lane : Nat → Option (BitVec 96)) (l n times : Nat) : Option Nat :=
  match (lane l).bind laneEntry, laneSum lane (l + 1) (n - 1) with
  | some a, some b => some (a * times + b)
  | _, _ => none

/-- The largest sum along any path from scalar word `i`, with the next lane word `l`, to an EXITDONE; none where an instruction has no entry, or a path
does not come to one. `fuel` bounds the path's length: every branch goes forward. A register LJUMP leads to lane words that no tool knows. -/
def pathSum (scalar : Nat → Option (BitVec 32)) (lane : Nat → Option (BitVec 96)) : Nat → Nat → Nat → Option (BitVec 14) → Option Nat
  | 0, _, _, _ => none
  | fuel + 1, i, l, rep =>
    let on (cycles i' l' : Nat) : Option Nat := (pathSum scalar lane fuel i' l' none).map (fun n => cycles + n)
    let fork (off : Int) : Option Nat :=
      if off ≤ 0 then none
      else match on 4 (i + off.toNat) l, on 4 (i + 1) l with | some x, some y => some (max x y) | _, _ => none
    match (scalar i).map decodeScalar with
    | some (.ok ins) =>
      if rep.isSome && !(match ins with | .lissue _ => true | _ => false) then none
      else
        match ins with
        | .exitdone => some 1
        | .rep imm => (pathSum scalar lane fuel (i + 1) l (some imm)).map (fun n => 1 + n)
        | .lissue n =>
          (issueSum lane l n.toNat (match rep with | some imm => repCount imm | none => 1)).bind (fun k => on (2 + k) (i + 1) (l + n.toNat))
        | .ljump imm => if (l : Int) + imm.toInt < 0 then none else on 2 (i + 1) ((l : Int) + imm.toInt).toNat
        | .jmp off => if off.toInt ≤ 0 then none else on 4 (i + off.toInt.toNat) l
        | .bc _ _ off => fork off.toInt
        | .bcMask _ _ off => fork off.toInt
        | _ => (scalarEntry ins).bind (fun k => on k (i + 1) l)
    | _ => none

/-- The certified count of a routine whose first instructions are scalar word `i` and lane word `l`: 8 for vectoring, and the path's sum. -/
def certifiedCount (scalar : Nat → Option (BitVec 32)) (lane : Nat → Option (BitVec 96)) (fuel i l : Nat) : Option Nat :=
  (pathSum scalar lane fuel i l none).map (fun n => 8 + n)

/-- The certified count of the exit routine of a job's region, in the code as it stands in memory; gelas accepts the region where it does not exceed
the region's BUDGET. -/
def State.certified (s : State) (j : Job) (r : BitVec 256) : Option Nat :=
  certifiedCount
    (fun i => (s.readVaNat j.who (j.scalarBase + BitVec.ofNat 64 (4 * i)) 4).map (BitVec.ofNat 32))
    (fun l => (s.readVaNat j.who (j.laneBase + BitVec.ofNat 64 (12 * l)) 12).map (BitVec.ofNat 96))
    (j.scalarSize / 4) ((regionExit r).toNat / 4) (((s.routineLane j r 0) - j.laneBase).toNat / 12)

/-- Whether a region is certified: its exit routine's count is within its budget (R75, R97). -/
def State.isCertified (s : State) (j : Job) (r : BitVec 256) : Bool :=
  match s.certified j r with | some n => decide (n ≤ (r.extractLsb' 96 32).toNat) | none => false

end Sys2Proof.Machine
end

