-- ==== Sys2Proof/Tests/Slice0.lean ====
section
/-! SUPPORT. The author's tests: ill-formed terms that each check of WellFormed refuses, words of the spec that decode to
their instructions, and for every obligation with hypotheses a state and operands that meet them. -/

namespace Sys2Proof.Tests

set_option exponentiation.threshold 4096
set_option maxRecDepth 20000

open Sys2Proof Sys2Proof.Machine

/-! ## Well-formedness: one ill-formed term for each check -/

/-- A lane instruction's fields with a type and registers, all else zero. -/
def ops (ty : BitVec 5) (dest a b : BitVec 8) : LaneOps :=
  { ty := ty, msel := 0, rnd := 0, sat := 0, kA := 0, kB := 0, kC := 0, flags := 0, dest := dest, a := a, b := b, c := 0, w2 := 0 }

theorem test_wf_scmp : (Instr.scmp 6 1 2 3).wf = false ∧ (Instr.scmp 5 1 2 3).wf = true := by decide
theorem test_wf_bcMask : (Instr.bcMask 3 1 0).wf = false ∧ (Instr.bcMask 2 1 0).wf = true := by decide
theorem test_wf_waitaddr : (Instr.waitaddr 6 1 2).wf = false ∧ (Instr.waitaddr 5 1 2).wf = true := by decide
theorem test_wf_syswr : (Instr.syswrReadonly 1 0x010).wf = false ∧ (Instr.syswrReadonly 1 0x000).wf = true := by decide
theorem test_wf_ljump : (Instr.ljumpReg 0).wf = false ∧ (Instr.ljumpReg 63).wf = true := by decide
/-- A VADD of f32, which R60 does not permit. -/
theorem test_wf_lane_type : (Instr.vadd (ops 0x0C 1 2 3)).wf = false ∧ (Instr.vadd (ops 0x04 1 2 3)).wf = true := by decide
/-- A 64-bit operand in an odd register (R49). -/
theorem test_wf_lane_pair : (Instr.vadd (ops 0x05 1 2 4)).wf = false ∧ (Instr.vadd (ops 0x05 2 4 6)).wf = true := by decide
/-- PINIT's flags tell its two rows apart (R209). -/
theorem test_wf_pinit : (Instr.pinitCreate { ops 0x01 2 4 5 with flags := 1 }).wf = false := by decide

/-! ## Decoding: encodings that the spec writes out -/

theorem test_decode_alu :
    decodeTableWord 32 0x00714401 = some (.ssub 7 5 4) ∧ decodeTableWord 32 0x01205200 = some (.saddR 18 1 18)
      ∧ decodeTableWord 32 0x0020C414 = some (.scmp 4 2 3 4) ∧ decodeTableWord 32 0x0020C489 = some (.ssel 9 2 3 4) := by decide
theorem test_decode_immediate :
    decodeTableWord 32 0x04514001 = some (.saddI 5 5 1) ∧ decodeTableWord 32 0x08C3001F = some (.sandI 12 12 31)
      ∧ decodeTableWord 32 0x15230003 = some (.sshlI 18 12 3) ∧ decodeTableWord 32 0x18300400 = some (.sli 3 0x400)
      ∧ decodeTableWord 32 0x1C30C000 = some (.slui 3 3 0) := by decide
theorem test_decode_control :
    decodeTableWord 32 0x4043FFFB = some (.bc 1 3 0xFFFB) ∧ decodeTableWord 32 0x41810003 = some (.bcMask 2 1 3)
      ∧ decodeTableWord 32 0x4BFFFFFB = some (.jmp 0x3FFFFFB) ∧ decodeTableWord 32 0x64100000 = some (.ljump 0)
      ∧ decodeTableWord 32 0x64103FF9 = some (.ljump 0x3FF9) ∧ decodeTableWord 32 0x6413C000 = some (.ljumpReg 15)
      ∧ decodeTableWord 32 0x64203F51 = some (.rep 0x3F51) ∧ decodeTableWord 32 0x60A00000 = some .tret := by decide
theorem test_decode_events :
    decodeTableWord 32 0x68818803 = some (.armBitmap 2 6 3) ∧ decodeTableWord 32 0x68411814 = some (.armPool 1 4 20)
      ∧ decodeTableWord 32 0x68C0B7FB = some (.armTimer 3 2 0x7FB) ∧ decodeTableWord 32 0x6C200001 = some (.await 0x8001)
      ∧ decodeTableWord 32 0x74000007 = some (.barinit 7) ∧ decodeTableWord 32 0x74114003 = some (.bararrive 5 3)
      ∧ decodeTableWord 32 0x74200003 = some (.barwait 3) := by decide
theorem test_decode_memory :
    decodeTableWord 32 0x5892D101 = some (.cptest 1 9 11 17) ∧ decodeTableWord 32 0x20000000 = some (.sld 0 0 0)
      ∧ decodeTableWord 32 0x24FC3FFF = some (.sst 15 48 0x3FFF) := by decide
theorem test_decode_lane_int :
    decodeTableWord 96 0x000800800402000000000064 = some (.vadd { ops 0x04 4 2 0 with kB := 2, w2 := 100 })
      ∧ decodeTableWord 96 0xA4C000000301020000000000 = some (.mandn (ops 0 3 1 2))
      ∧ decodeTableWord 96 0xA58040000302000000000000 = some (.mpopc { ops 0 3 2 0 with msel := 1 }) := by decide
theorem test_decode_lane_float :
    decodeTableWord 96 0x401800000605070042000000 = some (.fadd { ops 0x0C 6 5 7 with w2 := 0x42000000 })
      ∧ decodeTableWord 96 0x40D800000405060400000000 = some (.ffma { ops 0x0C 4 5 6 with c := 4 })
      ∧ decodeTableWord 96 0x4118000003010200000C0000 = some (.fmin { ops 0x0C 3 1 2 with w2 := 0x000C0000 })
      ∧ decodeTableWord 96 0x419800020204050000000000 = some (.fcmp { ops 0x0C 2 4 5 with flags := 2 }) := by decide
theorem test_decode_lane_convert :
    decodeTableWord 96 0x48081000020100000000000C = some (.cvt { ops 0x04 2 1 0 with rnd := 2, w2 := 0x0C })
      ∧ decodeTableWord 96 0x48A000100804050300000004 = some (.qpack { ops 0x10 8 4 5 with kC := 1, c := 3, w2 := 4 }) := by decide
theorem test_decode_lane_matrix :
    decodeTableWord 96 0xB118C0302800000200001B64 = some (.accread { ops 0x0C 40 0 0 with msel := 3, kC := 3, c := 2, w2 := 0x1B64 })
      ∧ decodeTableWord 96 0xB0800140000D100000000000 = some (.bload { ops 0 0 13 16 with kA := 1, kB := 1 }) := by decide
theorem test_decode_lane_pool :
    decodeTableWord 96 0xB40200100204000500000000 = some (.pinitCreate { ops 0x01 2 4 0 with kC := 1, c := 5 })
      ∧ decodeTableWord 96 0xB40200110200000500000000 = some (.pinitDestroy { ops 0x01 2 0 0 with kC := 1, flags := 1, c := 5 })
      ∧ decodeTableWord 96 0xB48240100204060400000000 = some (.ptake { ops 0x01 2 4 6 with msel := 1, kC := 1, c := 4 }) := by decide
/-- An unassigned scalar opcode, a must-be-0 field, an unassigned lane opcode and a reserved type are refused. -/
theorem test_decode_refuses :
    decodeTableWord 32 0xFC000000 = none ∧ decodeTableWord 32 0x60000001 = none
      ∧ decodeTableWord 96 (0x0A * 2 ^ 86) = none ∧ decodeTableWord 96 (0x1F * 2 ^ 81) = none := by decide


/-! ## Witnesses: a small machine -/

/-- Its tables: stage 2 at 0x1000, 0x2000 and 0x6000, stage 1 at 0x3000, 0x4000 and 0x5000. -/
def kitMem : Sparse 8 :=
  [(0x1000, 0x03), (0x1001, 0x20), (0x1028, 0x03), (0x1029, 0x60), (0x2000, 0x0D), (0x3000, 0x03), (0x3001, 0x40), (0x4000, 0x03),
   (0x4001, 0x50), (0x5000, 0x0D), (0x5008, 0x0D), (0x500C, 0xE0), (0x500D, 0x02), (0x6C00, 0x0D), (0x6C04, 0xE0), (0x6C05, 0x02)]
/-- One wave of 32 lanes with one fragment on core 1 of die 0, every register, all panels, and tables that map the first GiB
to itself and the second to the copy aperture; what a test changes is `f`, `w`, `g`, `j` and then `m`. -/
def kitAt (r : JobRef) (f : Frag → Frag) (w : Wave → Wave) (g : Wg → Wg) (j : Job → Job) (m : State → State) : State × Cur :=
  let s := State.reset.withFetchWord 32 0
  let y : Job := { placedJob with ref := r }
  let q : WgRef := { job := r, wg := 0 }
  let c : Cur :=
    { f := f { y.freshFrag q 0 0 1 0 with spc := 0x100000, lpc := 0x200010, slot := .active }, w := w (y.freshWave q 0 0)
      g := g (y.freshWg q 0 1 0), j := j y }
  (m { s with
        agenda := [], cur := some c.f.ref, frags := [c.f], waves := [c.w], wgs := [c.g], jobs := [c.j]
        mem := kitMem }, c)

/-- A job of partition 0, and the service job. -/
def kit := kitAt { part := 0, id := 0 }
def kitK := kitAt { part := 16, id := 0 }
def kitF (f : Frag → Frag) : State × Cur := kit f id id id id

/-- s1 holds the arguments' address, s2 and s3 two numbers. -/
def demo : State × Cur := kitF (fun f => (f.setS 2 5).setS 3 0xFFFFFFFFFFFFFFFD)

theorem demo_plain : Plain demo.1 demo.2 := ⟨⟨rfl, rfl⟩, rfl⟩

theorem plain_low (s : State) (p n : Nat) (hk : s.lineKey = []) (h : p + n ≤ 2 ^ 30) : PlainBytes s { pa := p, key := none } n := by
  intro i hi
  refine ⟨by simp only [regionOf]; rw [if_pos (by omega)], ?_⟩
  simp only [State.keyTag, hk]; rfl

/-- What answers can be told to be an answer, without a look at the value. -/
def okB {α β : Type} : Except α β → Bool | .ok _ => true | .error _ => false
theorem ok_of {α β : Type} {e : Except α β} (h : okB e = true) : ∃ v, e = .ok v := by
  cases e with
  | ok v => exact ⟨v, rfl⟩
  | error _ => cases h
def okIs {α β : Type} [BEq β] (e : Except α β) (v : β) : Bool := match e with | .ok u => u == v | .error _ => false
theorem is_of {α β : Type} [BEq β] [LawfulBEq β] {e : Except α β} {v : β} (h : okIs e v = true) : e = .ok v := by
  cases e with
  | ok u => exact congrArg _ (eq_of_beq h)
  | error _ => cases h
/-- Where both stages of a partition's and a job's tables map the first GiB to itself, and nothing is cached or keyed. -/
structure Low (s : State) (part : Nat) : Prop where
  root : ∃ p, s.part? part = some p ∧ p.s2root = 0x1000 ∧ p.savewin = 0
  job : part ≠ 16
  l1 : s.tableEntry { pa := 0x1000, key := none } = .ok 0x2003
  l2 : s.tableEntry { pa := 0x2000, key := none } = .ok 0x0D
  j0 : s.tableEntry { pa := 0x3000, key := none } = .ok 0x4003
  j1 : s.tableEntry { pa := 0x4000, key := none } = .ok 0x5003
  j2 : s.tableEntry { pa := 0x5000, key := none } = .ok 0x0D
  tlb : s.tlb = []
  keys : s.lineKey = []
theorem Low.stage2 {s : State} {part : Nat} (hs : Low s part) (ipa : Nat) (h : ipa < 2 ^ 30) : s.stage2 part ipa = .ok (ipa, 0x0D) := by
  obtain ⟨p, hp, hr, -⟩ := hs.root
  have h1 : ipa / 2 ^ 39 % 32 = 0 := by omega
  have h2 : ipa / 2 ^ 30 % 512 = 0 := by omega
  have f1 : entOf true 1 0x2003 = .table 0x2000 := by decide
  have f2 : entOf true 2 0x0D = .leaf 0 0x0D := by decide
  have w : s.stage2 part ipa = s.walk2 ipa [1, 2, 3, 4] 0x1000 := by
    rw [s.stage2_part part ipa hs.job, hp]
    simp only [hr]
    rfl
  rw [w]
  simp only [levelShift, levelEntries, h1, State.walk2_cons, reduceIte, h2, hs.l1, hs.l2, f1, f2, and_self, or_true, Nat.mul_zero, Nat.add_zero,
    Nat.zero_add, Nat.mod_eq_of_lt h, Nat.reduceEqDiff, and_false, or_self]
theorem Low.translate {s : State} {part : Nat} (hs : Low s part) (w : Who) (va : Word64) (u : Use) (hp : w.job.part = part)
    (hr : w.s1root % 2 ^ 44 = 0x3000) (h : va.toNat < 2 ^ 30) (hk : w.walked = []) : s.translate w va u = .ok { pa := va.toNat, key := none } := by
  have hv : va.extractLsb' 57 7 = 0 := by
    apply BitVec.eq_of_toNat_eq
    simp only [BitVec.extractLsb'_toNat, Nat.shiftRight_eq_div_pow, BitVec.ofNat_eq_ofNat, BitVec.toNat_ofNat]
    omega
  have hw : s.inSaveWindow part va.toNat = false := by
    obtain ⟨p, hp, -, hv⟩ := hs.root
    simp only [State.inSaveWindow, hp, Part.saveWindow, hv]
    exact decide_eq_false (by simp)
  have hc : s.cached w va.toNat u = none := s.cached_none w _ u hs.tlb
  have i0 : va.toNat / 2 ^ 48 % 512 = 0 := by omega
  have i1 : va.toNat / 2 ^ 39 % 512 = 0 := by omega
  have i2 : va.toNat / 2 ^ 30 % 512 = 0 := by omega
  have k : leafKey 0x0D = none := by decide
  have e0 : entOf false 0 0x4003 = .table 0x4000 := by decide
  have e1 : entOf false 1 0x5003 = .table 0x5000 := by decide
  have e2 : entOf false 2 0x0D = .leaf 0 0x0D := by decide
  have hd : regionOf va.toNat = .device := by simp only [regionOf]; rw [if_pos (by omega)]
  have walk : s.walk1 part va.toNat [0, 1, 2, 3, 4] 0x3000 = .ok (va.toNat, 0x0D) := by
    have a0 := hs.stage2 0x3000 (by decide)
    have a1 := hs.stage2 0x4000 (by decide)
    have a2 := hs.stage2 0x5000 (by decide)
    simp only [levelShift, levelEntries, i0, i1, i2, State.walk1_cons, reduceIte, a0, a1, a2, k, hs.j0, hs.j1, hs.j2, e0, e1, e2, or_self, false_and,
      Nat.mul_zero, Nat.add_zero, Nat.zero_add, Nat.mod_eq_of_lt h, Nat.reduceEqDiff, Bool.false_eq_true]
  have ok1 : refuses1 w 0x0D u = false := by cases u <;> simp [refuses1, leafAllows]
  have ok2 : leafAllows 0x0D u = true := by cases u <;> rfl
  have wk : s.walk w va.toNat u = .ok (va.toNat, 0x0D, 0x0D) := by
    simp only [State.walk, s.jobWalk_fresh w _ hk, s.partWalk_fresh w _ _ hk, hp, hr, walk, ok1, hs.stage2 _ h, ok2]; rfl
  have chk : s.checkPhys w va.toNat 0x0D u = .ok { pa := va.toNat, key := none } := by
    simp only [State.checkPhys, hd, k, State.emptyKey]; rfl
  simp only [State.translate, hv, hp, hw, hc, wk, chk]
  rfl
theorem Low.readVa {s : State} {part : Nat} (hs : Low s part) (w : Who) (n : Nat) (va : Word64) (hp : w.job.part = part)
    (hr : w.s1root % 2 ^ 44 = 0x3000) (h : va.toNat + n ≤ 2 ^ 30) (hf : w.walked = [] := by rfl) :
    s.readVa w va n = some ((List.range n).map (fun i => s.mem.get (va.toNat + i))) := by
  induction n generalizing va with
  | zero => rfl
  | succ n ih =>
    have hd : regionOf va.toNat = .device := by simp only [regionOf]; rw [if_pos (by omega)]
    have hk : (va + 1).toNat = va.toNat + 1 := by
      have : (1 : Word64).toNat = 1 := rfl
      rw [BitVec.toNat_add, this]; omega
    have hb : s.physByte w { pa := va.toNat, key := none } 0 = s.mem.get va.toNat := by
      simp only [State.physByte, Nat.add_zero, hd, State.deviceByte, State.keyTag, hs.keys]; rfl
    have r := ih (va + 1) (by omega)
    rw [State.readVa] at r
    rw [State.readVa, State.readAs, hs.translate w va .read hp hr (by omega) hf, r, List.range_succ_eq_map, List.map_cons, List.map_map, hk]
    simp only [Option.some.injEq, List.cons.injEq, Nat.add_zero, hb, true_and]
    apply List.map_congr_left
    intro i _
    simp only [Function.comp, Nat.add_assoc, Nat.add_comm 1]

theorem demo_low : Low demo.1 0 :=
  ⟨⟨_, rfl, rfl, rfl⟩, by decide, is_of (by decide +kernel), is_of (by decide +kernel), is_of (by decide +kernel), is_of (by decide +kernel),
    is_of (by decide +kernel), rfl, rfl⟩
theorem has_all (c : Cur) (h : roleSregs c.role = 64) (rs : List (BitVec 6)) : c.has rs := fun r _ => by
  rw [h]; exact r.isLt
theorem clean_all (c : Cur) (h : c.f.spois = 0) (rs : List (BitVec 6)) : c.clean rs := fun r _ => by
  simp [Frag.sPoisoned, h]

/-- A fetch at SPC of the placed word, its older copies gone (FetchReadsLittleEndian). -/
theorem witness_FetchReadsLittleEndian : demo.2.w.fetched = []
    ∧ demo.1.translate (demo.1.who demo.2 true) demo.2.f.spc .fetch = .ok { pa := 0x100000, key := none }
    ∧ PlainBytes demo.1 { pa := 0x100000, key := none } 4 := by
  refine ⟨rfl, rfl, ?_⟩; unfold PlainBytes; decide
theorem witness_DecodeEncodeAgree : (Instr.saddI 63 0 0x3FFF).wf = true
    ∧ encode (.saddI 63 0 0x3FFF) = some (.scalar 0x07F03FFF)
    ∧ (Instr.vadd (ops 0x04 255 1 2)).wf = true
    ∧ encode (.vadd (ops 0x04 255 1 2)) = some (.lane 0x00080000FF01020000000000) := by decide
theorem witness_EncodeDecodeAgree : decode (.scalar 0x07F03FFF) = .ok (.saddI 63 0 0x3FFF)
    ∧ decode (.lane 0x00080000FF01020000000000) = .ok (.vadd (ops 0x04 255 1 2)) := ⟨rfl, rfl⟩
theorem witness_StepKeepsMemoryCanonical : State.reset.memWf ∧ ∃ t, step State.reset = .next t :=
  ⟨by unfold State.memWf; decide, _, rfl⟩
/-- Microcode loaded, an extension opcode at the head of the lane queue. -/
def ext : State := { State.reset.withFetchWord 96 (0x300 * 2 ^ 86) with microcode := some 1 }
/-- Its effect is a free value: whatever it is, the step answers a next state. -/
theorem test_extension_runs : ∃ t, step ext = .next t := ⟨_, rfl⟩
theorem witness_ProgramsLeaveTheRootAlone : (Instr.saddI 2 2 1).coded = true ∧ ∃ t, exec (.saddI 2 2 1) demo.1 = .next t :=
  ⟨rfl, _, rfl⟩
/-- A scalar word at SPC, and a lane instruction in the queue. -/
def placed : State := State.reset.withFetchWord 32 0x04514001
def placedLaneWord : State := State.reset.withFetchWord 96 0x00080000FF01020000000000
def lookOf (s : State) : Cur := (s.look placedRef).getD demo.2
theorem witness_StepRunsDecodedInstruction :
    (placed.tick.nextTurn.1 = .frag placedRef ∧ placed.tick.nextTurn.2.look placedRef = some (lookOf placed)
      ∧ placed.tick.nextTurn.2.canIssue (lookOf placed) = true ∧ (lookOf placed).f.queue = [] ∧ (lookOf placed).freezeHere = false
      ∧ (lookOf placed).g.engine = []
      ∧ placed.tick.nextTurn.2.fetchScalar (lookOf placed) = .ok 0x04514001
      ∧ decodeScalar 0x04514001 = .ok (.saddI 5 5 1))
    ∧ (placedLaneWord.tick.nextTurn.1 = .frag placedRef
      ∧ placedLaneWord.tick.nextTurn.2.look placedRef = some (lookOf placedLaneWord)
      ∧ placedLaneWord.tick.nextTurn.2.canIssue (lookOf placedLaneWord) = true
      ∧ (lookOf placedLaneWord).g.engine = []
      ∧ ∃ q, (lookOf placedLaneWord).f.queue = q :: [] ∧ q.instr = some (.vadd (ops 0x04 255 1 2))) :=
  ⟨⟨rfl, rfl, rfl, rfl, rfl, rfl, rfl, rfl⟩, rfl, rfl, rfl, rfl, _, rfl, rfl⟩

/-! ### Scalar instructions -/

theorem witness_ScalarAluResults : Issues demo.1 demo.2 ∧ demo.2.has [63, 2] ∧ demo.2.clean [2] ∧ demo.2.has [3]
    ∧ demo.2.clean [3] := ⟨demo_plain.1, has_all _ rfl _, clean_all _ rfl _, has_all _ rfl _, clean_all _ rfl _⟩
/-- A constant section of one word: k = 0 lies in it and k = 1 at its end. -/
def consts : State × Cur := kit id id id (fun j => { j with consts := [7] }) id
theorem witness_CompareSelectConstantResults : Issues consts.1 consts.2 ∧ consts.2.has [63] ∧ consts.2.f.exiting = false
    ∧ (0#14).toNat < consts.2.j.consts.length ∧ ¬ (1#14).toNat < consts.2.j.consts.length ∧ consts.2.has [2] ∧ consts.2.clean [2]
    ∧ consts.2.has [3] ∧ consts.2.clean [3] ∧ consts.2.has [4] ∧ consts.2.clean [4] :=
  ⟨⟨rfl, rfl⟩, has_all _ rfl _, rfl, by decide, by decide, has_all _ rfl _, clean_all _ rfl _, has_all _ rfl _,
    clean_all _ rfl _, has_all _ rfl _, clean_all _ rfl _⟩
/-- A fragment in its exit routine, with save frame 0. -/
def exits : State × Cur := kitF (fun f => { f with routine := .exit 0 1 false, frame := some 0 })
theorem witness_SystemRegisterReads : Issues demo.1 demo.2 ∧ demo.2.has [63] ∧ demo.2.f.routine = .none ∧ demo.2.unlogged
    ∧ sysListed (0x3FFF#14).toNat = false ∧ sysListed (0x006#14).toNat = false
    ∧ Issues exits.1 exits.2 ∧ exits.2.f.routine ≠ .none ∧ exits.2.f.frame = some 0
    ∧ ∃ p, exits.1.part? exits.2.j.ref.part = some p :=
  ⟨demo_plain.1, has_all _ rfl _, rfl, by unfold Cur.unlogged; decide, rfl, rfl, ⟨rfl, rfl⟩, by decide, rfl, _, rfl⟩
theorem witness_SystemRegisterWrites : Issues demo.1 demo.2 ∧ demo.2.f.exiting = false ∧ demo.2.has [63] ∧ demo.2.clean [63]
    ∧ sysListed (0x040#14).toNat = true ∧ sysListed (0x041#14).toNat = false :=
  ⟨demo_plain.1, rfl, has_all _ rfl _, clean_all _ rfl _, rfl, rfl⟩
theorem witness_ControlTransferResults : Issues demo.1 demo.2 ∧ demo.2.f.exiting = false ∧ demo.2.has [2] ∧ demo.2.clean [2]
    ∧ demo.2.w.mPoisoned 7 demo.2.f.exec = false ∧ demo.2.has [63]
    ∧ Issues exits.1 exits.2 ∧ exits.2.f.exiting = true ∧ 0 < (1#16).toInt ∧ ¬ 0 < (0#26).toInt
    ∧ (∃ s : State × Cur, s.1.current = some s.2 ∧ s.2.f.rep = some 0x350) :=
  ⟨demo_plain.1, rfl, has_all _ rfl _, clean_all _ rfl _, rfl, has_all _ rfl _, ⟨rfl, rfl⟩, rfl, by decide, by decide,
    kitF (fun f => { f with rep := some 0x350 }), rfl, rfl⟩
theorem witness_ScalarRegisterFrame : (Instr.saddI 2 2 1).scalarDest = some (some 2) ∧ demo.1.current = some demo.2
    ∧ ∃ t, exec (.saddI 2 2 1) demo.1 = .next t := ⟨rfl, rfl, _, rfl⟩

/-! ### Divergence -/

/-- m1 holds the low 8 lanes, m2 all, m3 none; a join stack of `n` entries below `js`. -/
def masked (js : List JoinEntry) : State × Cur :=
  kit (fun f => { f with join := js }) (fun w => { w with masks := [(1, 0xFF), (2, 0xFFFFFFFF)] }) id id id
def joinOf (kind : JoinKind) (partner : Nat) : JoinEntry :=
  { token := 5, kind := kind, partner := partner, lanes := 0xF0, spc := 0x100100, lpc := 0x200010, hasLpc := true }
/-- A second fragment of the wave. -/
def twin (c : Cur) (idx : Nat) (slot : Slot) (js : List JoinEntry) : Frag :=
  { c.f with ref := { c.f.ref with frag := idx }, slot := slot, join := js }
/-- Four fragments of one wave. -/
def crowd : State × Cur :=
  kit id (fun w => { w with masks := [(1, 0xFF)] }) id id
    (fun s => { s with frags := s.frags ++ (List.range 3).map (fun i => twin (masked []).2 (i + 1) .ready []) })
theorem witness_SplitRule : Plain (masked []).1 (masked []).2 ∧ (masked []).2.w.mPoisoned 1 (masked []).2.f.exec = false
    ∧ (masked []).2.f.exec &&& (masked []).2.w.m (masked []).2.j.width 3 = 0
    ∧ (masked []).2.f.exec &&& (masked []).2.w.m (masked []).2.j.width 2 ≠ 0
    ∧ (masked []).2.f.exec &&& ~~~(masked []).2.w.m (masked []).2.j.width 2 = 0
    ∧ (masked []).2.f.exec &&& (masked []).2.w.m (masked []).2.j.width 1 ≠ 0
    ∧ (masked []).2.f.exec &&& ~~~(masked []).2.w.m (masked []).2.j.width 1 ≠ 0
    ∧ (masked []).2.f.join.length < 16
    ∧ (∀ f ∈ (masked []).1.frags, f.ref ≠ { wave := (masked []).2.w.ref, frag := 1 })
    ∧ (∀ j, j < 1 → ∃ f ∈ (masked []).1.frags, f.ref = { wave := (masked []).2.w.ref, frag := j })
    ∧ ((masked []).1.fragsOf (masked []).2.w.ref).length < 4 ∧ (masked []).1.slotsTaken (masked []).2.g.die (masked []).2.g.core < 32
    ∧ Plain crowd.1 crowd.2 ∧ ¬ ((crowd.1.fragsOf crowd.2.w.ref).length < 4) :=
  ⟨⟨⟨rfl, rfl⟩, rfl⟩, rfl, by decide, by decide, by decide, by decide, by decide, by decide, by decide, by decide, by decide,
    by decide, ⟨⟨rfl, rfl⟩, rfl⟩, by decide⟩
def fullJoin : State × Cur := masked (List.replicate 16 (joinOf .deferred 0))
theorem witness_JoinOverflow : Plain fullJoin.1 fullJoin.2 ∧ fullJoin.2.w.mPoisoned 1 fullJoin.2.f.exec = false
    ∧ 16 ≤ fullJoin.2.f.join.length
    ∧ fullJoin.2.f.exec &&& fullJoin.2.w.m fullJoin.2.j.width 1 ≠ 0
    ∧ fullJoin.2.f.exec &&& ~~~fullJoin.2.w.m fullJoin.2.j.width 1 ≠ 0
    ∧ fullJoin.2.f.exec &&& fullJoin.2.w.m fullJoin.2.j.width 3 = 0
    ∧ fullJoin.2.f.exec &&& fullJoin.2.w.m fullJoin.2.j.width 2 ≠ 0
    ∧ fullJoin.2.f.exec &&& ~~~fullJoin.2.w.m fullJoin.2.j.width 2 = 0 :=
  ⟨⟨⟨rfl, rfl⟩, rfl⟩, rfl, by decide, by decide, by decide, by decide, by decide, by decide⟩
/-- A parent or a detached fragment, its partner of index 1 waiting at RECONV 5 or not. -/
def pair (kind : JoinKind) (slot : Slot) : State × Cur :=
  let p := twin (masked []).2 1 slot [{ joinOf .parent 0 with kind := if kind = .parent then .detached else .parent }]
  kit (fun f => { f with join := [joinOf kind 1] }) id id id (fun s => { s with frags := s.frags ++ [p] })
/-- The machine of a pair, and the partner as the pair's fragment knows it. -/
def inPair (kind : JoinKind) (slot : Slot) (p : Frag) : Prop :=
  Plain (pair kind slot).1 (pair kind slot).2 ∧ (pair kind slot).2.f.join = [joinOf kind 1]
    ∧ (pair kind slot).1.frag? { wave := (pair kind slot).2.f.ref.wave, frag := 1 } = some p ∧ p.slot = slot
    ∧ p.join = [{ joinOf .parent 0 with kind := if kind = .parent then .detached else .parent }]
theorem pair_parked (kind : JoinKind) : ∃ p, inPair kind (.parked (.reconv 5)) p ∧ p.waitsFor 5 0 = true := by
  cases kind <;> exact ⟨_, ⟨⟨⟨rfl, rfl⟩, rfl⟩, rfl, rfl, rfl, rfl⟩, rfl⟩
theorem pair_ready (kind : JoinKind) : ∃ p, inPair kind .ready p ∧ p.waitsFor 5 0 = false := by
  cases kind <;> exact ⟨_, ⟨⟨⟨rfl, rfl⟩, rfl⟩, rfl, rfl, rfl, rfl⟩, rfl⟩
theorem masked_plain (js : List JoinEntry) : Plain (masked js).1 (masked js).2 ∧ (masked js).2.f.join = js := ⟨⟨⟨rfl, rfl⟩, rfl⟩, rfl⟩
/-- An empty stack, each kind of top entry, a partner that has ended, one that waits at the RECONV and one that does not. -/
theorem witness_ReconvRule : (∀ js, Plain (masked js).1 (masked js).2 ∧ (masked js).2.f.join = js)
    ∧ (joinOf .deferred 0).token = 5 ∧ (joinOf .parent 4).partner = 4 ∧ (joinOf .parent 1).partner ≠ 4
    ∧ (∀ kind, ∃ p, inPair kind (.parked (.reconv 5)) p ∧ p.waitsFor 5 0 = true)
    ∧ (∀ kind, ∃ p, inPair kind .ready p ∧ p.waitsFor 5 0 = false) :=
  ⟨masked_plain, rfl, rfl, by decide, pair_parked, pair_ready⟩
/-- A stack that END drops whole, one with a deferred entry below what it drops, and a detached and a parent entry whose partner
waits at their RECONV or runs. -/
theorem witness_EndRule : Plain demo.1 demo.2 ∧ demo.2.f.join = []
    ∧ (∀ f ∈ demo.1.frags, f.ref.wave = demo.2.f.ref.wave → f.ref = demo.2.f.ref)
    ∧ (∀ js, Plain (masked js).1 (masked js).2 ∧ (masked js).2.f.join = js)
    ∧ (let drops (js : List JoinEntry) := js.dropWhile
         (fun e => e.kind == .second || ((e.kind == .parent || e.kind == .detached) && e.partner == 4))
       drops [joinOf .second 0, joinOf .parent 4, joinOf .detached 4] = []
         ∧ drops [joinOf .second 0, joinOf .deferred 0] = [joinOf .deferred 0]
         ∧ drops [joinOf .detached 1] = [joinOf .detached 1] ∧ drops [joinOf .parent 1] = [joinOf .parent 1])
    ∧ ({ wave := (pair .parent .ready).2.f.ref.wave, frag := 1 } : FragRef) ≠ (pair .parent .ready).2.f.ref
    ∧ (∀ kind, ∃ p, inPair kind (.parked (.reconv 5)) p ∧ p.waitsFor 5 0 = true)
    ∧ (∀ kind, ∃ p, inPair kind .ready p ∧ p.waitsFor 5 0 = false) :=
  ⟨demo_plain, rfl, by decide, masked_plain, ⟨rfl, rfl, rfl, rfl⟩, by decide, pair_parked, pair_ready⟩

/-! ### Lane issue, traps and verdicts -/

/-- Lane words of VADD at LPC, below a queue of `n` entries. -/
def lanes (n : Nat) : State × Cur :=
  kit (fun f => { f with queue := List.replicate n {}, rep := some 0x350 }) id id id
    (fun s => { s with mem := s.mem.setBytes 0x200010 12 0x000800000401020000000000 })
theorem witness_LissueRule : (lanes 15).1.current = some (lanes 15).2 ∧ (16 : Nat) < (17#5).toNat ∧ (0#5).toNat = 0
    ∧ 16 < (lanes 16).2.f.queue.length + (lanes 16).2.f.lissue.getD (1#5).toNat
    ∧ (lanes 15).2.f.queue.length + (lanes 15).2.f.lissue.getD (1#5).toNat ≤ 16
    ∧ (lanes 15).1.fetchLanes (lanes 15).2 (lanes 15).2.f.lpc 1 = .ok [0x000800000401020000000000]
    ∧ enqueueFault (lanes 15).2.laneEnv (lanes 15).2.f (lanes 15).2.j.kernel (lanes 15).1.microcode.isSome
        0x000800000401020000000000 (some 0x350) = none := ⟨rfl, by decide, rfl, by decide, by decide, rfl, rfl⟩
/-- A queue whose head has `n` repeats left, of `vadd.s32 v8, v0, v4` under `rep 4, d=1, a=1` (R65). -/
def repeating (n : Nat) : State × Cur := kitF (fun f => { f with queue := [{ word := 0x000800000800040000000000, rep := 0x350, left := n }, {}] })
theorem witness_LissueRule_end : ∀ n ∈ [0, 1, 2, 64], (repeating n).2.f.queue = { word := 0x000800000800040000000000, rep := 0x350, left := n } :: [{}]
    ∧ n ≤ 64 ∧ (repeating n).1.frag? (repeating n).2.f.ref = some (repeating n).2.f
    ∧ (repeating n).1.wg? (repeating n).2.g.ref = some (repeating n).2.g := by
  intro n h
  simp only [List.mem_cons, List.not_mem_nil, or_false] at h
  rcases h with rfl | rfl | rfl | rfl <;> exact ⟨rfl, by decide, rfl, rfl⟩
/-- Before the last repeat of the four LEFT is 1, and after it 0; D and A are then 3 steps on (R64, R65). -/
theorem test_rep_last : (repeating 1).2.f.laneBegin.rptc = 0x10350 ∧ (repeating 1).2.f.laneDone.rptc = 0x350
    ∧ ((QEntry.fields { word := 0x000800000800040000000000, rep := 0x350, left := 1 }).dest = 11
      ∧ (QEntry.fields { word := 0x000800000800040000000000, rep := 0x350, left := 1 }).a = 3) := by decide
theorem witness_TrapTaken : demo.1.look placedRef = some demo.2 ∧ demo.2.f.exiting = false ∧ demo.2.draining = false
    ∧ demo.2.j.kernel = false ∧ ∃ d, demo.1.die? demo.2.g.die = some d ∧ d.sq.room = true ∧ d.sq.late = [] :=
  ⟨rfl, rfl, rfl, rfl, _, rfl, rfl, rfl⟩
/-- A fragment with a trap in progress, its return point aligned or not, and one that waits for a verdict on one. -/
def handling (spc : Word64) : State × Cur := kitF (fun f => { f with inTrap := some { retry := { spc := spc, lpc := 0x180 } } })
def trapped (n : Bool) : State × Cur := kitF (fun f => { f with waiting := some { nested := n }, slot := .parked .trap })
theorem witness_TrapAndReturnRule : Plain demo.1 demo.2 ∧ Settled demo.1 demo.2 ∧ demo.2.f.inTrap = none
    ∧ (∀ a, Plain (handling a).1 (handling a).2 ∧ (handling a).2.f.inTrap = some { retry := { spc := a, lpc := 0x180 } })
    ∧ (0x100040#64).toNat % 4 = 0 ∧ (0x180#64).toNat % 12 = 0 ∧ (0x100042#64).toNat % 4 ≠ 0 :=
  ⟨demo_plain, ⟨rfl, rfl⟩, rfl, fun _ => ⟨⟨⟨rfl, rfl⟩, rfl⟩, rfl⟩, by decide, by decide, by decide⟩
/-- The last word of the scalar section and the last lane instruction as handlers; one beyond each; a reserved bit. -/
theorem witness_VerdictRule : demo.1.look placedRef = some demo.2 ∧ demo.2.f.waiting = none
    ∧ (trapped false).1.look placedRef = some (trapped false).2 ∧ (trapped false).2.f.waiting = some { nested := false }
    ∧ (let v : Word64 := 0x0000FFFC00001003
       v.extractLsb' 0 8 = 3 ∧ (v.extractLsb' 32 32).toNat % 4 = 0 ∧ (v.extractLsb' 32 32).toNat < (trapped false).2.j.scalarSize
         ∧ 12 * (v.extractLsb' 8 24).toNat < (trapped false).2.j.laneSize)
    ∧ (let v : Word64 := 0x0001000000000003
       v.extractLsb' 0 2 = 3 ∧ ¬ (v.extractLsb' 32 32).toNat < (trapped false).2.j.scalarSize)
    ∧ (trapped true).1.look placedRef = some (trapped true).2 ∧ (trapped true).2.f.waiting = some { nested := true } :=
  ⟨rfl, rfl, rfl, rfl, by decide, by decide, rfl, rfl⟩

/-! ### Services, routines, scalar memory and copies -/

def service : State × Cur := kitK (fun f => f.setS 2 7) id id id id
/-- A role of 3 lane registers. -/
def narrow : State × Cur := kit id id id (fun j => { j with kdesc := j.kdesc &&& ~~~(0xFFFC#2048 <<< 1168) ||| (3#2048 <<< 1168) }) id
theorem witness_ServiceCallRule : Plain narrow.1 narrow.2 ∧ Settled narrow.1 narrow.2 ∧ roleVregs narrow.2.role < 4
    ∧ Plain service.1 service.2 ∧ service.2.j.kernel = true ∧ 4 ≤ roleVregs service.2.role ∧ Settled service.1 service.2
    ∧ service.2.clean [2] ∧ Plain demo.1 demo.2 ∧ demo.2.j.kernel = false ∧ 4 ≤ roleVregs demo.2.role ∧ Settled demo.1 demo.2
    ∧ demo.2.f.exec ≠ 0 ∧ demo.2.f.exec.toNat < 2 ^ demo.2.j.width
    ∧ (∀ l ∈ lanesOf demo.2.j.width demo.2.f.exec, ∀ r, r < 4 → demo.2.w.vPoisoned r l = false)
    ∧ (∃ d, demo.1.die? demo.2.g.die = some d ∧ d.sq.room = true ∧ d.sq.late = [])
    ∧ ∃ k : State × Cur, Plain k.1 k.2 ∧ Settled k.1 k.2 ∧ k.2.j.kernel = false ∧ 4 ≤ roleVregs k.2.role ∧ k.2.f.exec = 0 :=
  ⟨⟨⟨rfl, rfl⟩, rfl⟩, ⟨rfl, rfl⟩, by decide, ⟨⟨rfl, rfl⟩, rfl⟩, rfl, by decide, ⟨rfl, rfl⟩, clean_all _ rfl _, demo_plain, rfl, by decide,
    ⟨rfl, rfl⟩, by decide, by decide, by decide, ⟨_, rfl, rfl, rfl⟩, kitF (fun f => { f with exec := 0 }), ⟨⟨rfl, rfl⟩, rfl⟩, ⟨rfl, rfl⟩,
    rfl, by decide, rfl⟩
theorem witness_TlbiRule : Plain demo.1 demo.2 ∧ demo.2.has [63] ∧ demo.2.j.kernel = false ∧ Plain service.1 service.2
    ∧ service.2.has [2] ∧ service.2.j.kernel = true ∧ service.2.clean [2] ∧ Settled service.1 service.2
    ∧ (service.2.f.s 2).extractLsb' 57 7 = 0 ∧ (service.2.f.s 2).extractLsb' 16 48 = 0 ∧ (service.2.f.s 2).extractLsb' 4 60 = 0
    ∧ (let k := kitK (fun f => f.setS 2 0xFFFFFFFFFFFFFFFF) id id id id
       Plain k.1 k.2 ∧ (k.2.f.s 2).extractLsb' 57 7 ≠ 0 ∧ (k.2.f.s 2).extractLsb' 16 48 ≠ 0 ∧ (k.2.f.s 2).extractLsb' 4 60 ≠ 0) :=
  ⟨demo_plain, has_all _ rfl _, rfl, ⟨⟨rfl, rfl⟩, rfl⟩, has_all _ rfl _, rfl, clean_all _ rfl _, ⟨rfl, rfl⟩, by decide, by decide,
    by decide, ⟨⟨rfl, rfl⟩, rfl⟩, by decide, by decide, by decide⟩
def saved : Resume :=
  { spc := 0x100010, lpc := 0x200010, exec := 3, fmode := 0, fflags := 0, rptc := 0, region := 0, queue := [], lissue := none, trap := none
    verified := none }
def enters : State × Cur := kitF (fun f => { f with routine := .entry, resume := some saved, frame := some 0 })
/-- R75's two exit routines: SYSRD of SAVEBASE, SST of s7, REP 4, LISSUE 1 of a VSTB, EXITDONE; of f32 and, with step 2, of b64. -/
def routineWords (rep : BitVec 32) : List (BitVec 32) := [0x2C100040, 0x24704000, rep, 0x64000001, 0x60800000]
theorem test_certified_counts :
    certifiedCount (fun i => (routineWords 0x64200304)[i]?) (fun l => if l = 0 then some 0x80D800000000000000000000 else none) 5 0 0 = some 96
    ∧ certifiedCount (fun i => (routineWords 0x64200308)[i]?) (fun l => if l = 0 then some 0x80C200000000000000000000 else none) 5 0 0
        = some 160 := by decide
/-- An exit routine at its deadline of 8,192 cycles, or one beyond it. -/
def exitsAt (n : Nat) : State × Cur :=
  kit (fun f => { f with routine := .exit 0 1 false, frame := some 0 }) id id id (fun s => { s with cycle := n })
theorem witness_RoutineEndRule : (∀ n ∈ [8192, 8193], Issues (exitsAt n).1 (exitsAt n).2 ∧ (exitsAt n).2.f.routine = .exit 0 1 false
      ∧ (exitsAt n).1.cycle = n ∧ ∃ p, (exitsAt n).1.part? (exitsAt n).2.j.ref.part = some p ∧ p.exitdl = 8192) ∧ Issues demo.1 demo.2
    ∧ demo.2.f.exiting = false ∧ demo.2.f.routine = .none ∧ Issues enters.1 enters.2 ∧ enters.2.f.routine = .entry
    ∧ enters.2.f.resume = some saved ∧ enters.1.entryMismatch enters.2 saved = none ∧ enters.2.g.held = none :=
  ⟨fun _ _ => ⟨⟨rfl, rfl⟩, rfl, rfl, _, rfl, by decide⟩, demo_plain.1, rfl, rfl, ⟨rfl, rfl⟩, rfl, rfl, rfl, rfl⟩
/-- s2 holds the address 0x6008, the last word of a page's table, and s3 a misaligned one. -/
def words : State × Cur := kitF (fun f => (f.setS 2 0x6008).setS 3 0x6009)
theorem words_low : Low words.1 0 :=
  ⟨⟨_, rfl, rfl, rfl⟩, by decide, is_of (by decide +kernel), is_of (by decide +kernel), is_of (by decide +kernel), is_of (by decide +kernel),
    is_of (by decide +kernel), rfl, rfl⟩
theorem witness_ScalarMemoryRule : Plain words.1 words.2 ∧ Settled words.1 words.2 ∧ words.2.has [4, 2] ∧ words.2.clean [2]
    ∧ (words.2.f.s 2 + (0x3FF8#14).signExtend 64).toNat % 8 = 0 ∧ (words.2.f.s 3 + (0#14).signExtend 64).toNat % 8 ≠ 0
    ∧ words.1.translate (words.1.who words.2 true) (words.2.f.s 2 + (0x3FF8#14).signExtend 64) .read
        = .ok { pa := 0x6000, key := none }
    ∧ PlainBytes words.1 { pa := 0x6000, key := none } 8 ∧ words.2.clean [4]
    ∧ (words.2.f.s 2 + (0x3FF8#14).signExtend 64).extractLsb' 57 7 = 0
    ∧ words.1.namesChannel (words.1.who words.2 true) (words.2.f.s 2 + (0x3FF8#14).signExtend 64) = false
    ∧ (∀ p, words.1.translate (words.1.who words.2 true) (words.2.f.s 2 + (0x3FF8#14).signExtend 64) .write = .ok p → chanOf p.pa = none)
    ∧ words.2.has [5] ∧ words.2.clean [5] ∧ words.2.unlogged ∧ (words.2.f.s 2).toNat % 8 = 0
    ∧ words.1.translate (words.1.who words.2 true) (words.2.f.s 2) .read = .ok { pa := 0x6008, key := none }
    ∧ PlainBytes words.1 { pa := 0x6008, key := none } 8 := by
  refine ⟨⟨⟨rfl, rfl⟩, rfl⟩, ⟨rfl, rfl⟩, has_all _ rfl _, clean_all _ rfl _, by decide, by decide, rfl, ?_, clean_all _ rfl _, by decide,
    by decide +kernel, ?_, has_all _ rfl _, clean_all _ rfl _, ?_, by decide, rfl, ?_⟩
  · unfold PlainBytes; decide
  · intro p h
    rw [words_low.translate _ _ .write rfl rfl (by decide) rfl] at h
    cases h; rfl
  · unfold Cur.unlogged; decide
  · unfold PlainBytes; decide
/-- s2 holds an aligned address of the address space that no table maps; the fault queue holds `es`. -/
def unmapped (es : List FqEntry) : State × Cur :=
  kit (fun f => f.setS 2 0x0100000000000008) id id id (fun s => s.modDie 0 (fun d => { d with fq := { d.fq with entries := es } }))
/-- An open entry of the last 8 bytes of the page, and one of the page after it. -/
def entryAt (va : Word64) : FqEntry :=
  { vaddr := va, ipa := 0, pc := 0, job := { part := 0, id := 0 }, waveid := 0, waiters := 1, seq := 5, issuer := 0, gone := false
    write := true, fetch := false, kmode := false, cause := 1, opened := true, who := [] }
theorem witness_ScalarMemoryRule_fault : (∀ es, Plain (unmapped es).1 (unmapped es).2 ∧ Settled (unmapped es).1 (unmapped es).2
      ∧ (unmapped es).2.j.kernel = false ∧ (unmapped es).2.draining = false)
    ∧ (unmapped []).2.has [4, 2] ∧ (unmapped []).2.clean [2] ∧ ((unmapped []).2.f.s 2 + (0#14).signExtend 64).toNat % 8 = 0
    ∧ (∀ es ∈ [[], [entryAt 0x0100000000010000], [entryAt 0x010000000000FFF8]], ∃ x e, (unmapped es).1.die? (unmapped es).2.g.die = some x
        ∧ x.fq.entries = es ∧ x.fq.room = true
        ∧ (unmapped es).1.translate ((unmapped es).1.who (unmapped es).2 true) (0x0100000000000008 + (0#14).signExtend 64) .read = .error e)
    ∧ (∀ va, (entryAt va).opened = true ∧ (entryAt va).gone = false ∧ (entryAt va).job = (unmapped []).2.j.ref)
    ∧ (entryAt 0x0100000000010000).vaddr.extractLsb' 16 41 ≠ (0x0100000000000008 : Word64).extractLsb' 16 41
    ∧ (entryAt 0x010000000000FFF8).vaddr.extractLsb' 16 41 = (0x0100000000000008 : Word64).extractLsb' 16 41 := by
  refine ⟨fun _ => ⟨⟨⟨rfl, rfl⟩, rfl⟩, ⟨rfl, rfl⟩, rfl, rfl⟩, has_all _ rfl _, clean_all _ rfl _, by decide, ?_, fun _ => ⟨rfl, rfl, rfl⟩, by decide,
    by decide⟩
  intro es h
  simp only [List.mem_cons, List.not_mem_nil, or_false] at h
  rcases h with rfl | rfl | rfl <;> exact ⟨_, _, rfl, rfl, rfl, rfl⟩
/-- A template of 16 bytes from 0x10000 to 0x20000. -/
def tmpl16 : BitVec 512 := (0x10000#512 <<< 448) ||| (0x20000#512 <<< 384) ||| (16#512 <<< 224)
def cmdOf (i chan : Nat) (fired : Bool) (t : BitVec 512) : Cmd :=
  { id := i, wg := placedRef.wave.wg, wave := 0, frag := 0, owners := [0], core := 1, chan := chan, word := 0, tmpl := t, pc := 0
    fired := fired, landed := [], bitDue := none, squashed := false, error := none, srcPtr := 0, dstPtr := 0, fault := none
    tailDone := false, headDone := false, result := none, nth := 0 }
/-- s2 names channel 7, s3 no channel, s4 the template and s5 none. -/
def copies (cs : List Cmd) : State × Cur :=
  kit (fun f => (((f.setS 2 0x40000038).setS 3 0x2000).setS 4 0).setS 5 1) id id (fun j => { j with tmpls := [tmpl16] })
    (fun s => { s with cmds := cs })
theorem witness_CopyStartRule : Plain (copies []).1 (copies []).2 ∧ Settled (copies []).1 (copies []).2
    ∧ (copies []).2.has [2, 4] ∧ (copies []).2.clean [2, 4]
    ∧ (copies []).1.translate ((copies []).1.who (copies []).2 true) ((copies []).2.f.s 2) .write
        = .ok { pa := 0x2E000000038, key := none }
    ∧ chanOf 0x2E000000038 = some 7
    ∧ (copies []).1.translate ((copies []).1.who (copies []).2 true) ((copies []).2.f.s 3) .write = .ok { pa := 0x2000, key := none }
    ∧ chanOf 0x2000 = none ∧ cmdFault (copies []).1 (copies []).2 ((copies []).2.f.s 5) = some (0x04, 0x31)
    ∧ cmdFault (copies []).1 (copies []).2 ((copies []).2.f.s 4) = none
    ∧ ((copies []).1.chanQueue (copies []).2.g.coreId 7).length < 32
    ∧ (let k := copies ((List.range 32).map (fun i => cmdOf i 7 false tmpl16))
       Plain k.1 k.2 ∧ 32 ≤ (k.1.chanQueue k.2.g.coreId 7).length) :=
  ⟨⟨⟨rfl, rfl⟩, rfl⟩, ⟨rfl, rfl⟩, has_all _ rfl _, clean_all _ rfl _, rfl, rfl, rfl, rfl, rfl, rfl, by decide, ⟨⟨rfl, rfl⟩, rfl⟩, by decide⟩
theorem witness_WaitAndFenceRule : Plain words.1 words.2 ∧ Settled words.1 words.2
    ∧ (∀ x ∈ words.1.cmds, ¬ (x.wg = words.2.g.ref ∧ x.wave = words.2.w.ref.wave ∧ words.2.f.ref.frag ∈ x.owners ∧ x.fired = true))
    ∧ (let k := copies [cmdOf 0 7 true tmpl16]
       Plain k.1 k.2 ∧ ∃ x ∈ k.1.cmds, x.wg = k.2.g.ref ∧ x.wave = k.2.w.ref.wave ∧ k.2.f.ref.frag ∈ x.owners ∧ x.fired = true)
    ∧ words.2.has [2, 4] ∧ words.2.clean [2, 4] ∧ words.2.f.slot = .active ∧ (words.2.f.s 3).toNat % 8 ≠ 0
    ∧ (words.2.f.s 2).toNat % 8 = 0
    ∧ words.1.translate (words.1.who words.2 true) (words.2.f.s 2) .read = .ok { pa := 0x6008, key := none }
    ∧ PlainBytes words.1 { pa := 0x6008, key := none } 8 := by
  refine ⟨⟨⟨rfl, rfl⟩, rfl⟩, ⟨rfl, rfl⟩, by decide, ⟨⟨⟨rfl, rfl⟩, rfl⟩, by decide⟩, has_all _ rfl _, clean_all _ rfl _, rfl, by decide,
    by decide, rfl, ?_⟩
  unfold PlainBytes; decide

/-! ### Events, barriers, the baton -/

/-- Constellation 3, of this wave alone, broken or not, and a pool of handle 0x1_0005; s2 to s9 hold operands of ARM. -/
def barrierOf (broken : Bool) : Barrier :=
  { k := 3, members := [0], phase := 4, arrived := 0, expect := 1, pending := 0, broken := broken }
def shardOf (es : List Elem) : Shard := { die := 0, elems := es, steals := 0, summaries := [] }
def poolOf (es : List Elem) : Pool :=
  { num := 5, gen := 1, live := true, job := { part := 0, id := 0 }, psumm := 64, pbound := 1, pstarve := 100, pdepth := 4, dies := 1, dies0 := 1
    spillBase := 0, spillSize := 0, shards := [shardOf es], puts := 0, fulls := 0, ageds := 0, censuses := 0, lastCensus := none, takes := [] }
/-- The wave's role in baton mode. -/
def inBaton (j : Job) : Job := { j with kdesc := j.kdesc ||| (1#2048 <<< 1200) }
def arms : State × Cur :=
  kit (fun f => ((((((f.setS 2 0x6008).setS 3 0x8000000000000000).setS 4 0x10005).setS 5 3).setS 6 64).setS 7 0x100000000).setS 8 4)
    (fun w => { w with members := [{ con := 3, arrived := false, target := 4 }] }) id (fun j => { j with barriers := [barrierOf false] })
    (fun s => { s with pools := [poolOf []] })
def batonArms : State × Cur := kit id id id inBaton id
theorem witness_ArmRule : Plain arms.1 arms.2 ∧ Settled arms.1 arms.2 ∧ arms.2.f.slot = .active ∧ arms.2.w.evslots.length = 16
    ∧ arms.2.has [0] ∧ Plain batonArms.1 batonArms.2 ∧ batonArms.2.batonMode = true ∧ arms.2.batonMode = false
    ∧ arms.2.has [2] ∧ arms.2.clean [2]
    ∧ (arms.2.f.s 6).extractLsb' 32 32 = 0 ∧ (arms.2.f.s 7).extractLsb' 32 32 ≠ 0 ∧ (arms.2.f.s 5).extractLsb' 8 56 = 0
    ∧ (arms.2.j.barrier? ((arms.2.f.s 5).setWidth 8)).isSome = true ∧ (arms.2.w.member? ((arms.2.f.s 5).setWidth 8)).isSome = true
    ∧ (arms.2.f.s 8).extractLsb' 8 56 = 0 ∧ arms.2.w.member? ((arms.2.f.s 8).setWidth 8) = none
    ∧ arms.1.handleFault arms.2 (arms.2.f.s 4) true = none
    ∧ (arms.2.f.s 2).getLsbD 63 = false ∧ (arms.2.f.s 2).toNat % 8 = 0
    ∧ arms.1.translate (arms.1.who arms.2 true) (arms.2.f.s 2) .read = .ok { pa := 0x6008, key := none }
    ∧ (arms.2.f.s 3).getLsbD 63 = true ∧ (arms.2.f.s 3).extractLsb' 19 44 = 0
    ∧ ((arms.2.f.s 3).extractLsb' 0 19).toNat + 8 ≤ arms.2.j.scratchSize ∧ ((arms.2.f.s 3).extractLsb' 0 19).toNat % 8 = 0
    ∧ arms.2.g.stashAddr ((arms.2.f.s 3).extractLsb' 0 19).toNat = none ∧ (2 : BitVec 6) ≠ 63 ∧ arms.2.has [2 + 1]
    ∧ arms.2.clean [2 + 1] :=
  ⟨⟨⟨rfl, rfl⟩, rfl⟩, ⟨rfl, rfl⟩, rfl, rfl, has_all _ rfl _, ⟨⟨rfl, rfl⟩, rfl⟩, by decide, by decide, has_all _ rfl _, clean_all _ rfl _,
    by decide, by decide, by decide, by decide, by decide, by decide, by decide, by decide, by decide, by decide, rfl, by decide,
    by decide, by decide, by decide, by decide, by decide, has_all _ rfl _, clean_all _ rfl _⟩
/-- Slot 0 disarmed, slot 15 armed with its handler; pending or not. -/
def awaits (pev : BitVec 16) : State × Cur :=
  kit id (fun w => { w with pev := pev, evslots := w.evslots.set 15 { EvSlot.none with armed := true, kind := 6, handler := 0x100080 } })
    id id id
theorem witness_AwaitDisarmRule : Plain (awaits 0).1 (awaits 0).2 ∧ Settled (awaits 0).1 (awaits 0).2
    ∧ (0x0001#16 &&& (awaits 0).2.w.armed) = 0 ∧ (0x8000#16 &&& (awaits 0).2.w.armed) ≠ 0
    ∧ (awaits 0).2.w.pev &&& (0x8000#16 &&& (awaits 0).2.w.armed) &&& ~~~(awaits 0).2.w.evmask = 0
    ∧ Plain (awaits 0x8000).1 (awaits 0x8000).2
    ∧ ((awaits 0x8000).2.w.pev &&& (0x8000#16 &&& (awaits 0x8000).2.w.armed) &&& ~~~(awaits 0x8000).2.w.evmask) = 0x8000#16
    ∧ (0x8000#16).getLsbD 15 = true ∧ (∀ j, j < 15 → (0x8000#16).getLsbD j = false)
    ∧ (awaits 0x8000).2.unlogged ∧ (awaits 0x8000).2.f.slot = .active ∧ (∃ e, (awaits 0x8000).2.w.evslots[15]? = some e)
    ∧ (awaits 0).2.w.armed.getLsbD (0#4).toNat = false ∧ (∀ f ∈ (awaits 0).1.frags, f.awaits = none)
    ∧ (awaits 0).2.f.awaits = none :=
  ⟨⟨⟨rfl, rfl⟩, rfl⟩, ⟨rfl, rfl⟩, by decide, by decide, by decide, ⟨⟨rfl, rfl⟩, rfl⟩, by decide, rfl, by decide, by unfold Cur.unlogged; decide,
    rfl, ⟨_, rfl⟩, by decide, by decide, rfl⟩
def barred (broken : Bool) : State × Cur :=
  kit (fun f => f.setS 2 0x7FFFFFFF) (fun w => { w with members := [{ con := 3, arrived := false, target := 4 }] }) id
    (fun j => { j with barriers := [barrierOf broken] }) id
theorem witness_BarrierRule : Plain demo.1 demo.2 ∧ demo.2.w.member? 3 = none
    ∧ (∀ b, Plain (barred b).1 (barred b).2 ∧ Settled (barred b).1 (barred b).2 ∧ (barred b).2.has [2] ∧ (barred b).2.clean [2]
        ∧ (barred b).2.j.barrier? 3 = some (barrierOf b)
        ∧ (barred b).2.w.member? 3 = some { con := 3, arrived := false, target := 4 })
    ∧ -(2 ^ 31 : Int) ≤ (barrierOf false).pending + ((barred false).2.f.s 2).toInt
    ∧ (barrierOf false).pending + ((barred false).2.f.s 2).toInt ≤ 2 ^ 31 - 1 := by
  refine ⟨demo_plain, rfl, ?_, by decide, by decide⟩
  intro b
  cases b <;> exact ⟨⟨⟨rfl, rfl⟩, rfl⟩, ⟨rfl, rfl⟩, has_all _ rfl _, clean_all _ rfl _, rfl, rfl⟩
def baton (h : List Nat) : State × Cur := kit id id (fun g => { g with baton := h }) inBaton id
theorem witness_BatonRule : Plain demo.1 demo.2 ∧ Settled demo.1 demo.2 ∧ demo.2.batonMode = false
    ∧ (∀ h ∈ [[0], ([] : List Nat)], Plain (baton h).1 (baton h).2 ∧ Settled (baton h).1 (baton h).2 ∧ (baton h).2.batonMode = true)
    ∧ (baton [0]).2.w.ref.wave ∈ (baton [0]).2.g.baton ∧ (baton []).2.w.ref.wave ∉ (baton []).2.g.baton
    ∧ nextHolder ((baton [0]).1.ring (baton [0]).2.g.ref (baton [0]).2.w.role) (baton [0]).2.w.ref.wave = some 0 := by
  refine ⟨demo_plain, ⟨rfl, rfl⟩, by decide, ?_, by decide, by decide, by decide⟩
  intro h hh
  simp only [List.mem_cons, List.not_mem_nil, or_false] at hh
  rcases hh with rfl | rfl <;> exact ⟨⟨⟨rfl, rfl⟩, rfl⟩, ⟨rfl, rfl⟩, by decide⟩

/-! ### Lane instructions -/

theorem demo_lane (op : BitVec 10) (f : LaneOps) (h : demo.2.w.mPoisoned f.msel.toNat demo.2.f.exec = false) :
    LaneReady demo.1 demo.2 op f := ⟨rfl, .inl rfl, h⟩
theorem witness_LaneArithmeticResults : LaneReady demo.1 demo.2 0 (ops 0x04 255 1 2)
    ∧ (laneAt demo.1 demo.2 (ops 0x04 255 1 2)).poisonSrc 0x04 1 = none
    ∧ (laneAt demo.1 demo.2 (ops 0x04 255 1 2)).poisonSrc 0x04 2 = none
    ∧ (laneAt demo.1 demo.2 (ops 0x04 255 1 2)).poisonSrc 0x04 3 = none :=
  ⟨demo_lane _ _ rfl, by decide, by decide, by decide⟩
theorem witness_LaneNumberLaws : (0x09 : BitVec 5) ∈ ([0x04, 0x05, 0x08, 0x09] : List (BitVec 5)) ∧ 0 < 64 ∧ 64 ≤ 64
    ∧ (0xFFFFFFFFFFFFFFFF : Word64).toNat < 2 ^ 64 ∧ (1 : Word64).toNat < 2 ^ 1 ∧ (255 : Nat) < 2 ^ 8 ∧ (65535 : Nat) < 2 ^ 16 := by
  decide
theorem witness_LaneBitResults : LaneReady demo.1 demo.2 0 (ops 0x01 254 2 4)
    ∧ (laneAt demo.1 demo.2 (ops 0x01 254 2 4)).poisonSrc 0x01 1 = none
    ∧ (laneAt demo.1 demo.2 (ops 0x01 254 2 4)).poisonSrc 0x01 2 = none
    ∧ (laneAt demo.1 demo.2 (ops 0x01 254 2 4)).poisonSrc 0x01 3 = none :=
  ⟨demo_lane _ _ rfl, by decide, by decide, by decide⟩
/-- Each of VCMP's codes is a value of the flags field; masks 7 and EXEC (8) are clean. -/
theorem witness_LaneCompareMoveMaskResults : LaneReady demo.1 demo.2 0 { ops 0x04 7 1 2 with flags := 5 }
    ∧ (laneAt demo.1 demo.2 { ops 0x04 7 1 2 with flags := 5 }).poisonSrc 0x04 1 = none
    ∧ (laneAt demo.1 demo.2 { ops 0x04 7 1 2 with flags := 5 }).poisonSrc 0x04 2 = none
    ∧ (laneAt demo.1 demo.2 (ops 0x04 8 7 8)).maskPoisoned 7 = false
    ∧ (laneAt demo.1 demo.2 (ops 0x04 8 7 8)).maskPoisoned 8 = false :=
  ⟨demo_lane _ _ rfl, by decide, by decide, by decide, by decide⟩
theorem witness_FloatResults : LaneReady demo.1 demo.2 0x100 { ops 0x0C 7 1 2 with flags := 7 }
    ∧ (laneAt demo.1 demo.2 { ops 0x0C 7 1 2 with flags := 7 }).poisonSrc 0x0C 1 = none
    ∧ (laneAt demo.1 demo.2 { ops 0x0C 7 1 2 with flags := 7 }).poisonSrc 0x0C 2 = none
    ∧ (laneAt demo.1 demo.2 { ops 0x0C 7 1 2 with flags := 7 }).poisonSrc 0x0C 3 = none :=
  ⟨demo_lane _ _ rfl, by decide, by decide, by decide⟩
theorem witness_FloatLaws : 0 < 1 ∧ fmtF32.decode false 0x7F7FFFFF = .fin false 16777215 104 ∧ 0x7F7FFFFF < 2 ^ (fmtF32.sbit + 1)
    ∧ (fmtF32.decode false 0x7FC00000).isNan = true
    -- a tail below the least m that may have one; a result that overflows, one that does not, and one that is subnormal
    ∧ 2 ^ (fmtF32.mbits + 2) ≤ 2 ^ 25
    ∧ (fmtF32.encode .rne false false false (2 ^ 25) 103 true).2 &&& flOF ≠ 0
    ∧ (fmtF32.encode .rne false false false (2 ^ 25) 102 true).2 &&& flOF = 0
    ∧ (fmtF32.encode .rne false false true (2 ^ 25) (-152) true).1 % 2 ^ fmtF32.sbit < 2 ^ fmtF32.mbits
    -- 1.5, 1.5 and the least subnormal; a difference that is zero
    ∧ fmtF32.decode false 0x3FC00000 = .fin false 0xC00000 (-23) ∧ fmtF32.decode false 1 = .fin false 1 (-149)
    ∧ (fmtF32.add .rdn false true 0x3FC00000 0x3FC00000).1 = 0x80000000 ∧ (fmtF32.mul .rne false 0x3FC00000 0x3FC00000).1 = 0x40100000
    ∧ (fDiv .rne false 0x3FC00000 1).1 = 0x7F800000 ∧ (fSqrt .rne false 0x40100000).1 = 0x3FC00000
    -- f16 to f8e4 and to s8, u8 to f16; a NaN's code and types beyond byte and b64
    ∧ fmtOf (pairElem 0x12) = some fmtF16 ∧ fmtOf (pairElem 0x02) = none ∧ fmtF16.decode false 0xFBFF = .fin true 2047 5
    ∧ (convert 0x12 0x02 .rne false false 0xFBFF).2 = flNV ∧ 0xFBFF < 2 ^ tyBits (pairElem 0x12) ∧ 1 < (pairElem 0x02).toNat
    -- a dot product of one term, its sum zero or not
    ∧ dot [] 0x3FC00000 [.fin true 0xC00000 (-23)] = 0 ∧ dot [] 0x3FC00000 [.fin false 1 0] = 0x40200000 := by
  refine ⟨by decide, rfl, by decide, rfl, by decide, by decide, by decide, by decide, rfl, rfl, by decide, by decide, by decide +kernel, by decide +kernel,
    rfl, rfl, rfl, by decide, by decide, by decide, by decide +kernel, by decide +kernel⟩
theorem witness_ConversionAndCrossLaneResults : LaneReady demo.1 demo.2 0x120 { ops 0x04 2 1 3 with w2 := 0x0C }
    ∧ (laneAt demo.1 demo.2 { ops 0x04 2 1 3 with w2 := 0x0C }).poisonSrc 0x0C 1 = none
    ∧ (laneAt demo.1 demo.2 { ops 0x11 2 1 3 with w2 := 0x0C }).poisonSrc 0x0C 2 = none ∧ (fmtOf 0x0B).isSome = true
    ∧ (laneAt demo.1 demo.2 (ops 0x10 2 1 3)).poisonSrc 0x04 3 = none
    ∧ (laneAt demo.1 demo.2 (ops 0x04 2 1 3)).poisonSrc 0x10 1 = none
    ∧ (∀ l ∈ (laneAt demo.1 demo.2 (ops 0x04 2 1 3)).lanes,
        (laneAt demo.1 demo.2 (ops 0x04 2 1 3)).rawPoisoned ((laneAt demo.1 demo.2 (ops 0x04 2 1 3)).opC 0x10) l = false)
    ∧ (laneAt demo.1 demo.2 (ops 0x04 2 1 3)).poisonNamed 0x04 = none
    ∧ (laneAt demo.1 demo.2 (ops 0x04 2 1 3)).act ≠ 0 ∧ 0 < (laneAt demo.1 demo.2 (ops 0x04 2 1 3)).width
    ∧ (laneAt demo.1 (kit id id id id id).2 { ops 0x04 2 1 3 with flags := 4 }).f.flags = 4 :=
  ⟨demo_lane _ _ rfl, by decide, by decide, rfl, by decide, by decide, by decide, by decide, by decide, by decide, rfl⟩
theorem witness_LaneWriteRule : (laneAt demo.1 demo.2 (ops 0x05 254 2 4)).width ≤ 64
    ∧ 31 ∈ (laneAt demo.1 demo.2 (ops 0x05 254 2 4)).lanes ∧ 32 ∉ (laneAt demo.1 demo.2 (ops 0x05 254 2 4)).lanes
    ∧ tyIs64 0x05 = true ∧ tyIs64 0x04 = false := by decide
theorem witness_OperandForms :
    let x := laneAt demo.1 demo.2 { ops 0x05 2 4 6 with kA := 1, kB := 2, kC := 3, c := 2 }
    x.f.kA = 1 ∧ x.f.kB = 2 ∧ x.f.kC = 3 ∧ x.f.c = 2
      ∧ (laneAt demo.1 demo.2 { ops 0x04 2 4 6 with w2 := 6 * 2 ^ 29 }).f.kA = 0 := ⟨rfl, rfl, rfl, rfl, rfl⟩
/-- m1 poisoned in lane 0, and v1 in lane 31; an exit routine at an instruction without an entry in R74. -/
def poisoned : State × Cur := kit id (fun w => { w with mpois := [(1, 1)], vpois := [(vkey 1 31, 1)] }) id id id
def selOp (m : BitVec 8) : LaneOps := { ops 0x04 3 1 2 with c := m }
theorem witness_LanePoisonTraps : exits.1.current = some exits.2 ∧ laneCode (.ptake (ops 0x01 2 4 6)) = some (0x2D2, ops 0x01 2 4 6)
    ∧ exits.2.f.exiting = true ∧ exitLane 0x2D2 = false
    ∧ poisoned.1.current = some poisoned.2 ∧ laneCode (.vadd (ops 0x04 3 1 2)) = some (0, ops 0x04 3 1 2)
    ∧ poisoned.2.w.mPoisoned 1 poisoned.2.f.exec = true ∧ LaneReady poisoned.1 poisoned.2 0 (ops 0x04 3 1 2)
    ∧ (laneAt poisoned.1 poisoned.2 (ops 0x04 3 1 2)).poisonSrc 0x04 2 = some 0x02
    -- VSEL under mask C, MAND with mask A or B
    ∧ laneCode (.vsel (selOp 1)) = some (0x021, selOp 1) ∧ (laneAt poisoned.1 poisoned.2 (selOp 1)).maskPoisoned 1 = true
    ∧ (laneAt poisoned.1 poisoned.2 (selOp 2)).maskPoisoned 2 = false
    ∧ ((laneAt poisoned.1 poisoned.2 (selOp 2)).poisonSrc 0x04 2).isSome = true
    ∧ laneCode (.mand (ops 0 3 1 2)) = some (0x290, ops 0 3 1 2)
    ∧ (laneAt poisoned.1 poisoned.2 (ops 0 3 1 2)).maskPoisoned 1 = true
    ∧ (laneAt poisoned.1 poisoned.2 (ops 0 3 2 1)).maskPoisoned 1 = true :=
  ⟨rfl, rfl, rfl, by decide, rfl, rfl, by decide, ⟨rfl, .inl rfl, rfl⟩, by decide, rfl, by decide, by decide, by decide, rfl, by decide,
    by decide⟩
theorem witness_LaneFrame : laneCode (.vadd (ops 0x04 255 1 2)) = some (0, ops 0x04 255 1 2) ∧ demo.1.current = some demo.2
    ∧ demo.2.j.width ≤ 64 ∧ ∃ t, exec (.vadd (ops 0x04 255 1 2)) demo.1 = .next t := ⟨rfl, rfl, by decide, _, rfl⟩

/-! ### Lane memory -/

/-- Records 0 (scratchpad), 1 (global, 256 bytes at 0x6000), 2 (read-only) and 3 (a table of row ends), 16 bytes of code for
lane 0 alone under m1; v4 holds the offset 252 there. -/
def recordOf (base size : Nat) (kind : Nat) : BitVec 256 := (BitVec.ofNat 256 base <<< 192) ||| (BitVec.ofNat 256 size <<< 128) ||| BitVec.ofNat 256 kind
def mem1 : State × Cur :=
  kit id (fun w => { w with masks := [(1, 1)], vregs := [(vkey 4 0, 252)] })
    (fun g => { g with scratch := [(1024, 2), (1028, 40)] })
    (fun j => { j with recs := [recordOf 0 256 1, recordOf 0x6000 256 0, recordOf 0x6000 256 2, recordOf 1024 8 1] }) id
def laneOp (rec' : Nat) (low : Nat) : LaneOps := { ops 0x08 2 4 6 with msel := 1, w2 := BitVec.ofNat 32 (1048576 * rec' + low) }
theorem mem1_lanes (f : LaneOps) (h : f.msel = 1) : (laneAt mem1.1 mem1.2 f).lanes = [0] := by
  have : (laneAt mem1.1 mem1.2 f).act = 1 := by simp only [laneAt, h]; decide
  have hw : (laneAt mem1.1 mem1.2 f).width = 32 := rfl
  simp only [Lane.lanes, this, hw]; decide
theorem mem1_ready (op : BitVec 10) (f : LaneOps) (h : f.msel = 1) : LaneReady mem1.1 mem1.2 op f :=
  ⟨rfl, .inl rfl, by rw [h]; rfl⟩
theorem witness_LaneLoadResults : Settled mem1.1 mem1.2 ∧ mem1.2.f.flight = none ∧ tyBytes (laneOp 0 0).ty ≠ 0 ∧ LaneReady mem1.1 mem1.2 0x200 (laneOp 0 0)
    ∧ (laneAt mem1.1 mem1.2 (laneOp 0 0)).lanes = [0]
    ∧ (∀ l ∈ [0], (laneAt mem1.1 mem1.2 (laneOp 0 0)).rawPoisoned ((laneAt mem1.1 mem1.2 (laneOp 0 0)).opA 0x08) l = false)
    -- the scratchpad's record at its last element, and the record of device memory there
    ∧ mem1.2.j.recs[0]? = some (recordOf 0 256 1) ∧ InRecord mem1.2 (recordOf 0 256 1) 252 4
    ∧ Holds mem1.1 mem1.2 .read (recordPiece (recordOf 0 256 1) 252 4) 0
    ∧ mem1.2.j.recs[1]? = some (recordOf 0x6000 256 0) ∧ InRecord mem1.2 (recordOf 0x6000 256 0) 252 4
    ∧ Holds mem1.1 mem1.2 .read (recordPiece (recordOf 0x6000 256 0) 252 4) 0
    -- no record, and an offset beyond the extent
    ∧ (laneAt mem1.1 mem1.2 (laneOp 4 0)).act ≠ 0 ∧ mem1.2.j.recs[4]? = none
    ∧ recScratch (recordOf 0x6000 252 0) = false ∧ recSize (recordOf 0x6000 252 0) < 252 + 4
    -- the address form, the block form and the scratchpad form, at the end of the allocation and beyond it
    ∧ (laneOp 0 0x80000).w2.getLsbD 19 = true ∧ 252 + 524032 + 4 ≤ mem1.2.j.scratchSize
    ∧ mem1.2.j.scratchSize < 252 + 524033 + 4 := by
  refine ⟨⟨rfl, rfl⟩, rfl, by decide, mem1_ready _ _ rfl, mem1_lanes _ rfl, by decide, rfl, by unfold InRecord; decide, ?_, rfl, by unfold InRecord; decide, ?_,
    by decide, rfl, by decide, by decide, by decide, by decide, by decide⟩
  · rw [Holds, if_pos (by decide)]; decide
  · rw [Holds, if_neg (by decide)]
    exact ⟨{ pa := 0x60FC, key := none }, rfl, by unfold PlainBytes; decide, by decide⟩
/-- An exit routine with a save slot of 256 bytes. -/
def saves : State × Cur := kitF (fun f => { f with routine := .exit 0 256 false, frame := some 0 })
theorem witness_LaneStorePosts : Settled mem1.1 mem1.2 ∧ mem1.2.f.flight = none ∧ LaneReady mem1.1 mem1.2 0x201 (laneOp 1 0)
    ∧ (∀ l ∈ [0], (laneAt mem1.1 mem1.2 (laneOp 1 0)).rawPoisoned ((laneAt mem1.1 mem1.2 (laneOp 1 0)).opA 0x08) l = false
        ∧ (laneAt mem1.1 mem1.2 (laneOp 1 0)).rawPoisoned ((laneAt mem1.1 mem1.2 (laneOp 1 0)).opB 0x08) l = false)
    ∧ mem1.2.f.exiting = false ∧ recRo (recordOf 0x6000 256 2) = true ∧ recRo (recordOf 0x6000 256 0) = false
    ∧ InRecord mem1.2 (recordOf 0x6000 256 0) 252 4 ∧ recScratch (recordOf 0x6000 256 0) = false
    ∧ InRecord mem1.2 (recordOf 0 256 1) 252 4 ∧ recScratch (recordOf 0 256 1) = true ∧ mem1.2.g.stashAddr 252 = none
    ∧ (recBase (recordOf 0 256 1)).toNat + recSize (recordOf 0 256 1) ≤ mem1.2.j.scratchSize
    ∧ saves.2.f.exiting = true ∧ saves.2.f.flight = none ∧ Settled saves.1 saves.2 ∧ LaneReady saves.1 saves.2 0x203 (ops 0x08 2 4 6)
    ∧ saves.1.inSaveSlot saves.2 0x8FC 4 = true := by
  refine ⟨⟨rfl, rfl⟩, rfl, mem1_ready _ _ rfl, by decide, rfl, by decide, by decide, by unfold InRecord; decide, by decide, by unfold InRecord; decide,
    by decide, by decide, by decide, rfl, rfl, ⟨rfl, rfl⟩, ⟨rfl, .inr (by decide), rfl⟩, by decide⟩
/-- A posted store of two elements. -/
def posts : State × Cur :=
  let es : List Piece := [{ scratch := false, addr := 0x6000, size := 8, val := 1 }, { scratch := false, addr := 0x6008, size := 8, val := 2 }]
  kitF (fun f => { f with posted := [{ id := 9, pc := 0, lane := false, lanes := 0, fault := none, killed := false, elems := es }] })
theorem witness_PostedStorePerforms : posts.1.look placedRef = some posts.2 ∧ posts.2.j.kernel = false
    ∧ ∃ p, p.placed = [] ∧ posts.2.f.posted.find? (fun q => q.fault.isNone && !q.killed) = some p
      ∧ ∀ e ∈ p.elems, e.scratch = false
        ∧ posts.1.translate { posts.1.who posts.2 (!p.lane) with afresh := p.afresh } e.addr .write
            = .ok { pa := e.addr.toNat, key := none }
        ∧ regionOf e.addr.toNat = .device ∧ posts.1.lineKey.get (e.addr.toNat / 128) = posts.1.keyTag none := by
  refine ⟨rfl, rfl, _, rfl, rfl, ?_⟩
  intro e he
  simp only [List.mem_cons, List.not_mem_nil, or_false] at he
  rcases he with rfl | rfl <;> exact ⟨rfl, rfl, by decide, by decide⟩
/-- RLOAD's operands: cursor (0, 0) in v8 and v9, rows in v6, data record 0, table record 3. -/
def ragged : LaneOps := { ops 0x08 2 8 6 with msel := 1, w2 := 0x00000300 }
def rowEnd (i : Nat) : Nat := if i = 0 then 2 else 40
def rowOf (l : Nat) : Nat := if l < 2 then 0 else 1
theorem witness_AtomicAndRaggedResults : Settled mem1.1 mem1.2 ∧ mem1.2.f.flight = none ∧ LaneReady mem1.1 mem1.2 0x207 (laneOp 0 0)
    ∧ LaneReady mem1.1 mem1.2 0x206 (laneOp 0 0) ∧ mem1.2.unlogged ∧ mem1.2.j.kernel = false
    ∧ (laneAt mem1.1 mem1.2 (laneOp 0 0)).lanes = [0] ∧ (laneAt mem1.1 mem1.2 (laneOp 0 0)).act ≠ 0
    ∧ recRo (recordOf 0 256 1) = false ∧ InRecord mem1.2 (recordOf 0 256 1) 252 4
    ∧ Holds mem1.1 mem1.2 .write (recordPiece (recordOf 0 256 1) 252 4) 0
    ∧ Holds mem1.1 mem1.2 .write (recordPiece (recordOf 0x6000 256 0) 252 4) 0 ∧ tyBits 0x08 = 8 * tyBytes 0x08
    -- RLOAD
    ∧ LaneReady mem1.1 mem1.2 0x2E0 ragged ∧ mem1.2.f.seen = [] ∧ mem1.2.j.width ≤ 64 ∧ (laneAt mem1.1 mem1.2 ragged).lanes.head? = some 0
    ∧ mem1.2.j.recs[(ragged.w2.extractLsb' 20 12).toNat]? = some (recordOf 0 256 1)
    ∧ mem1.2.j.recs[(ragged.w2.extractLsb' 8 12).toNat]? = some (recordOf 1024 8 1)
    ∧ (recBase (recordOf 1024 8 1)).toNat + recSize (recordOf 1024 8 1) ≤ mem1.2.j.scratchSize
    ∧ tyIs64 ragged.ty = false ∧ ragged.b ≠ ragged.dest ∧ ragged.a ≠ ragged.dest ∧ ragged.a.toNat + 1 ≠ ragged.dest.toNat
    ∧ ragged.a ≠ ragged.b ∧ ragged.a.toNat + 1 ≠ ragged.b.toNat
    ∧ mem1.2.w.vPoisoned 8 0 = false ∧ mem1.2.w.vPoisoned 9 0 = false
    ∧ (∀ i, i < recSize (recordOf 1024 8 1) / 4 →
        mem1.1.rowLen (mem1.1.who mem1.2 false) mem1.2.g (recordOf 1024 8 1) i = .ok (rowEnd i))
    ∧ (∀ i, i + 1 < recSize (recordOf 1024 8 1) / 4 → rowEnd i ≤ rowEnd (i + 1))
    ∧ (∀ l, l ≤ mem1.2.j.width → 0 ≤ rowOf l ∧ rowOf l ≤ max 0 (recSize (recordOf 1024 8 1) / 4)
        ∧ (∀ i, 0 ≤ i → i < rowOf l → rowEnd i ≤ 0 + l) ∧ (rowOf l < recSize (recordOf 1024 8 1) / 4 → 0 + l < rowEnd (rowOf l)))
    ∧ InRecord mem1.2 (recordOf 0 256 1) 0 4 ∧ Holds mem1.1 mem1.2 .read (recordPiece (recordOf 0 256 1) 0 4) 0 := by
  have h8 : recSize (recordOf 1024 8 1) / 4 = 2 := by decide
  have hw : mem1.2.j.width = 32 := by decide
  refine ⟨⟨rfl, rfl⟩, rfl, mem1_ready _ _ rfl, mem1_ready _ _ rfl, by unfold Cur.unlogged; decide, rfl, mem1_lanes _ rfl, by decide, by decide,
    by unfold InRecord; decide, ?_, ?_, by decide, mem1_ready _ _ rfl, rfl, by decide, by rw [mem1_lanes _ rfl]; rfl, rfl, rfl, by decide, by decide,
    by decide, by decide, by decide, by decide, by decide, by decide, by decide, ?_, ?_, ?_, by unfold InRecord; decide, ?_⟩
  · rw [Holds, if_pos (by decide)]; decide
  · rw [Holds, if_neg (by decide)]
    exact ⟨{ pa := 0x60FC, key := none }, rfl, by unfold PlainBytes; decide, by decide⟩
  · intro i hi; rw [h8] at hi
    have : i = 0 ∨ i = 1 := by omega
    rcases this with rfl | rfl <;> rfl
  · intro i hi; rw [h8] at hi
    have : i = 0 := by omega
    subst this; decide
  · intro l hl; rw [hw] at hl; rw [h8]
    simp only [rowOf, rowEnd]
    split <;> refine ⟨by omega, by omega, fun i _ h => ?_, fun _ => ?_⟩ <;> (try split) <;> omega
  · rw [Holds, if_pos (by decide)]; decide

/-! ### Matrix and pools -/

/-- The operands of a matrix instruction: the offset 0 in A, the format block at 0x7000 in B, with bf16 on both sides. -/
def matIssue : QEntry := { b := 0x7000 }
def fmtBlock : Nat := 0x0B + 0x0B * 2 ^ 192 + 0x0C * 2 ^ 384
def mat : State × Cur :=
  kit id (fun w => { w with masks := [(1, 1)] }) id
    (fun j => { j with recs := [recordOf 0 524288 1, recordOf 0 2288 1] })
    (fun s => { s with issue := matIssue, mem := s.mem.setBytes 0x7000 64 fmtBlock })
def matOp (low : Nat) : LaneOps := { ops 0x0C 7 64 0 with msel := 1, kB := 1, w2 := BitVec.ofNat 32 low }
theorem mat_lanes (f : LaneOps) (h : f.msel = 1) : (laneAt mat.1 mat.2 f).lanes = [0] := by
  have : (laneAt mat.1 mat.2 f).act = 1 := by simp only [laneAt, h]; decide
  have hw : (laneAt mat.1 mat.2 f).width = 32 := rfl
  simp only [Lane.lanes, this, hw]; decide
theorem mat_ready (op : BitVec 10) (f : LaneOps) (h : f.msel = 1) : LaneReady mat.1 mat.2 op f := ⟨rfl, .inl rfl, by rw [h]; rfl⟩
/-- The same under loaded microcode. -/
def matCode : State × Cur :=
  kit id (fun w => { w with masks := [(1, 1)] }) id id (fun s => { s with issue := matIssue, microcode := some 1 })
theorem mat_block : (mat.1.setFrag (laneAt mat.1 mat.2 (matOp 0)).c.f).formatBlock (laneAt mat.1 mat.2 (matOp 0))
    (mat.1.who mat.2 false) = .ok (BitVec.ofNat 512 fmtBlock) := is_of (by decide +kernel)
/-- MMA with the highest panel and B-offset 0; MVSTREAM of columns 16 bytes apart, BLOAD of whole columns. -/
theorem witness_MatrixResults : mat.2.j.width ≤ 64 ∧ mat.2.f.exiting = false ∧ Settled mat.1 mat.2 ∧ mat.2.batonMode = false
    ∧ LaneReady mat.1 mat.2 0x2C0 (matOp (127 * 2 ^ 25)) ∧ (laneAt mat.1 mat.2 (matOp (127 * 2 ^ 25))).matPoison = none
    ∧ 127 ∉ mat.2.g.lost ∧ (laneAt mat.1 mat.2 (matOp (127 * 2 ^ 25))).act ≠ 0
    ∧ 0 + blockK (BitVec.ofNat 512 fmtBlock) * matBits (descFmt (blockB (BitVec.ofNat 512 fmtBlock))) ≤ 2048
    ∧ (∃ as, mat.1.operandBytes (mat.1.who mat.2 false) mat.2 (blockA (BitVec.ofNat 512 fmtBlock))
        (blockK (BitVec.ofNat 512 fmtBlock) / descBlk (blockA (BitVec.ofNat 512 fmtBlock))) [0] = .ok as)
    ∧ (∃ bs, mat.1.operandBytes (mat.1.who mat.2 false) mat.2 (blockB (BitVec.ofNat 512 fmtBlock))
        (blockK (BitVec.ofNat 512 fmtBlock) / descBlk (blockB (BitVec.ofNat 512 fmtBlock))) (List.range 128) = .ok bs)
    ∧ LaneReady mat.1 mat.2 0x2C1 (matOp (2 ^ 20 + 16)) ∧ mat.2.j.recs[memRecord (matOp (2 ^ 20 + 16))]? = some (recordOf 0 2288 1)
    ∧ 0 + 127 * 16 + 256 ≤ recSize (recordOf 0 2288 1)
    ∧ (∃ cols, mat.1.streamCols (mat.1.who mat.2 false) mat.2.g (recordOf 0 2288 1) 0 16 256 (List.range 128) = .ok cols)
    ∧ LaneReady mat.1 mat.2 0x2C2 (matOp (127 * 2 ^ 13)) ∧ mat.2.j.recs[memRecord (matOp (127 * 2 ^ 13))]? = some (recordOf 0 524288 1)
    ∧ 0 + 127 * 256 + 256 ≤ recSize (recordOf 0 524288 1)
    ∧ (∃ m, mat.1.panelBytes (mat.1.who mat.2 false) mat.2.g (recordOf 0 524288 1) 0 256 (List.range 128) = .ok m)
    ∧ (∀ op ∈ [0x2C3#10, 0x2C4, 0x2C5, 0x300], LaneReady mat.1 mat.2 op (matOp 0))
    ∧ (∀ l ∈ [0], mat.2.w.tPoisoned 0 l = false) ∧ (∀ l ∈ [0], ∀ k, k < accCount (matOp 0) → mat.2.w.vPoisoned (64 + k) l = false)
    ∧ mat.2.g.stash = [] ∧ mat.2.f.seen = []
    ∧ 0x300 ≤ (0x300#10).toNat ∧ mat.1.microcode = none ∧ matCode.1.microcode = some 1 ∧ Settled matCode.1 matCode.2
    ∧ LaneReady matCode.1 matCode.2 0x300 (matOp 0) := by
  refine ⟨by decide, rfl, ⟨rfl, rfl⟩, by decide, mat_ready _ _ rfl, by decide, by decide, by decide, by decide, ?_, ?_, mat_ready _ _ rfl, rfl,
    by decide, ?_, mat_ready _ _ rfl, rfl, by decide, ?_, fun op _ => mat_ready _ _ rfl, by decide, by decide, rfl, rfl, by decide, rfl, rfl, ⟨rfl, rfl⟩, rfl, .inl rfl, rfl⟩
  · exact ok_of (by decide +kernel)
  · exact ok_of (by decide +kernel)
  · exact ok_of (by decide +kernel)
  · exact ok_of (by decide +kernel)
/-- A pool descriptor of zeros at 0x7000, all fields by default; pool 5 with what a test gives it, at a cycle. -/
def pools (handle : Word64) (ps : List Pool) (cycle : Nat) : State × Cur :=
  kit id (fun w => { w with masks := [(1, 1)] }) id id (fun s => { s with issue := { c := handle }, pools := ps, cycle := cycle })
def elem7 : Elem := { key := 7, val := 8, put := 0, num := 0 }
def poolOp (stat : Nat) : LaneOps := { ops 0x01 2 4 6 with msel := 1, kC := 1, w2 := BitVec.ofNat 32 stat }
theorem witness_PoolResults : Settled (pools 0x7000 [] 0).1 (pools 0x7000 [] 0).2 ∧ (pools 0x7000 [] 0).2.f.exiting = false
    ∧ LaneReady (pools 0x7000 [] 0).1 (pools 0x7000 [] 0).2 0 (poolOp 0) ∧ (pools 0x7000 [] 0).2.f.flight = none
    ∧ (laneAt (pools 0x7000 [] 0).1 (pools 0x7000 [] 0).2 (poolOp 0)).act ≠ 0
    ∧ (0x7000 : Word64).toNat % 64 = 0
    ∧ (pools 0x7000 [] 0).1.translate ((pools 0x7000 [] 0).1.who (pools 0x7000 [] 0).2 false) 0x7000 .read
        = .ok { pa := 0x7000, key := none }
    ∧ PlainBytes (pools 0x7000 [] 0).1 { pa := 0x7000, key := none } 64
    ∧ poolBad (BitVec.ofNat 512 (Sparse.bytesNat (pools 0x7000 [] 0).1.mem 0x7000 64)) = false
    ∧ (pools 0x7000 [] 0).1.freePool = some 0
    ∧ (pools 0x7000 ((List.range 64).map (fun i => { poolOf [] with num := i })) 0).1.freePool = none
    -- a good handle, in the home shard: an element that is aged, none at all, one that is not aged
    ∧ (∀ q ∈ [([elem7], 7000), ([], 0), ([elem7], 1)],
        (pools 0x10005 [poolOf q.1] q.2).1.handleFault (pools 0x10005 [poolOf q.1] q.2).2 0x10005 false = none
        ∧ (pools 0x10005 [poolOf q.1] q.2).1.poolOf 0x10005 = some (poolOf q.1) ∧ (poolOf q.1).home 0 = some (shardOf q.1)
        ∧ LaneReady (pools 0x10005 [poolOf q.1] q.2).1 (pools 0x10005 [poolOf q.1] q.2).2 0 (poolOp 6)
        ∧ (laneAt (pools 0x10005 [poolOf q.1] q.2).1 (pools 0x10005 [poolOf q.1] q.2).2 (poolOp 6)).lanes = [0])
    ∧ (pools 0x10005 [poolOf []] 0).1.putFull (poolOf []) (shardOf []) 0 = false
    ∧ (∀ (s : State) (n : Nat), s.pools = [] → 262144 ≤ n → s.putFull (poolOf []) (shardOf (List.replicate n elem7)) 0 = true)
    ∧ (poolOf [elem7]).oldestAged (shardOf [elem7]) 7000 = some elem7
    ∧ (poolOf []).oldestAged (shardOf []) 0 = none ∧ (poolOf []).allowed 0 = []
    ∧ (poolOf [elem7]).oldestAged (shardOf [elem7]) 1 = none ∧ (poolOf [elem7]).allowed 1 ≠ []
    -- PSTAT's statistics 2, 7 and 9, and 8 of an empty and of a filled shard
    ∧ (∀ n ∈ [2, 7, 8, 9], ((poolOp n).w2.extractLsb' 0 4).toNat = n) ∧ (shardOf [elem7]).elems ≠ [] ∧ (shardOf []).elems = []
    ∧ (pools 0x10005 [poolOf []] 0).2.unlogged := by
  refine ⟨⟨rfl, rfl⟩, rfl, ⟨rfl, .inl rfl, rfl⟩, rfl, by decide, by decide, rfl, by unfold PlainBytes; decide, by decide, rfl, by decide, ?_,
    ?_, ?_, by decide, by decide, by decide, by decide, by decide, by decide, by decide, rfl, by unfold Cur.unlogged; decide⟩
  · intro q hq
    simp only [List.mem_cons, List.not_mem_nil, or_false] at hq
    rcases hq with rfl | rfl | rfl <;> exact ⟨rfl, rfl, rfl, ⟨rfl, .inl rfl, rfl⟩, by decide⟩
  · simp [State.putFull, State.onDie, pools, kit, kitAt, poolOf, shardOf, Pool.share, Pool.forcedOnDie]
  · intro s n h hn
    simp only [State.putFull, h, shardOf, poolOf, Pool.share, List.length_replicate, List.map_nil, List.sum_nil, Bool.or_eq_true, Nat.zero_div,
      decide_eq_true_eq]
    have : 0 / (16 * laneCount ((1 : Word64).setWidth 64)) = 0 := Nat.zero_div _
    exact .inl (by omega)
/-- The last word of the record in device memory under VATOM, the panel of a BLOAD, the pair of an RLOAD and of an ACCWRITE, a PTAKE where no token
is armed. -/
theorem witness_LaneFrame_memory : laneCode (.vatom (laneOp 1 0)) = some (0x206, laneOp 1 0) ∧ (0x206#10).toNat < 0x300
    ∧ mem1.1.current = some mem1.2 ∧ mem1.2.j.width ≤ 64 ∧ (∃ t, exec (.vatom (laneOp 1 0)) mem1.1 = .next t) ∧ mem1.2.unlogged
    ∧ mem1.1.remote = []
    ∧ (laneAt mem1.1 mem1.2 (laneOp 1 0)).atomCheck = .ok [recordPiece (recordOf 0x6000 256 0) 252 4]
    ∧ (mem1.1.setFrag (laneAt mem1.1 mem1.2 (laneOp 1 0)).c.f).laneLocs
        ((mem1.1.setFrag (laneAt mem1.1 mem1.2 (laneOp 1 0)).c.f).who (laneAt mem1.1 mem1.2 (laneOp 1 0)).c false)
        (laneAt mem1.1 mem1.2 (laneOp 1 0)) .write [recordPiece (recordOf 0x6000 256 0) 252 4]
      = .ok [(.phys { pa := 0x60FC, key := none }, recordPiece (recordOf 0x6000 256 0) 252 4)]
    ∧ regionOf 0x60FC = .device ∧ mem1.1.lineKey.get (0x60FC / 128) = mem1.1.keyTag none
    ∧ laneCode (.bload (matOp (127 * 2 ^ 13))) = some (0x2C2, matOp (127 * 2 ^ 13)) ∧ (∃ t, exec (.bload (matOp (127 * 2 ^ 13))) mat.1 = .next t)
    ∧ mat.1.current = some mat.2 ∧ laneCode (.rload ragged) = some (0x2E0, ragged) ∧ (∃ t, exec (.rload ragged) mem1.1 = .next t)
    ∧ laneCode (.accwrite (matOp 0x3F40)) = some (0x2C5, matOp 0x3F40) ∧ accCol (matOp 0x3F40) + accCount (matOp 0x3F40) ≤ 128
    ∧ laneCode (.ptake (poolOp 0)) = some (0x2D2, poolOp 0) ∧ (∃ t, exec (.ptake (poolOp 0)) (pools 0x10005 [poolOf []] 0).1 = .next t)
    ∧ (∀ w ∈ (pools 0x10005 [poolOf []] 0).1.waves, ∀ e ∈ w.evslots, e.armed = true → e.kind ≠ 3)
    ∧ laneCode (.pinitCreate (poolOp 0)) = some (0x2D0, poolOp 0) := by
  refine ⟨rfl, by decide, rfl, by decide, ⟨_, rfl⟩, by unfold Cur.unlogged; decide, rfl, is_of (by decide +kernel), rfl, by decide, by decide, rfl,
    ⟨_, rfl⟩, rfl, rfl, ⟨_, rfl⟩, rfl, by decide, rfl, ⟨_, rfl⟩, by decide, rfl⟩

/-! ### Control registers, queue windows, debug commands -/

/-- The monitor with a request of a command number, its operands within their bounds, its earlier one answered or not. -/
def monitored (cmd : Nat) (bell : Word64) : State :=
  { State.reset with monitor := { State.reset.monitor with bell := bell, req := BitVec.ofNat 512 (cmd + 3 * 2 ^ 256 + 2 ^ 192 + 7 * 2 ^ 128) } }
theorem witness_ControlRegisterWrites : (∀ p ∈ [0#4, 15#4], ∃ x, State.reset.part? p.toNat = some x)
    ∧ (∀ d ∈ [0#2, 3#2], ∃ x, State.reset.die? d.toNat = some x)
    ∧ (monitored 1 1).monitor.done ≠ (monitored 1 1).monitor.bell
    ∧ (∀ cmd ∈ [0, 1, 2, 3, 4, 5, 6, 7, 8, 9, 10, 255],
      (monitored cmd 0).monitor.done = (monitored cmd 0).monitor.bell ∧ (monitored cmd 0).monitor.req.extractLsb' 0 8 = BitVec.ofNat 8 cmd
        ∧ ((monitored cmd 0).monitor.req.extractLsb' (64 * 2) 64).toNat < 8
        ∧ ((monitored cmd 0).monitor.req.extractLsb' (64 * 3) 64).toNat < 2
        ∧ ((monitored cmd 0).monitor.req.extractLsb' (64 * 4) 64).toNat < 4) := by
  refine ⟨?_, ?_, by decide, by decide⟩ <;>
    (intro p h; simp only [List.mem_cons, List.not_mem_nil, or_false] at h; rcases h with rfl | rfl <;> exact ⟨_, rfl⟩)
def entryOf (r : FragRef) : FqEntry :=
  { vaddr := 0x40, ipa := 0, pc := 0x100000, job := r.wave.wg.job, waveid := 0, waiters := 1, seq := 4, issuer := 1, gone := false
    write := false, fetch := false, kmode := false, cause := 1, opened := true, who := [.frag r 9] }
def sqOf (batch : Bool) : SqRec :=
  { seq := 6, batch := batch, caller := placedRef, callSeq := 8, number := 1, lanes := 0x5, head := 0, args := [] }
/-- The kit with a die 0 of a test's making, its fragment in a slot state. -/
def queued (slot : Slot) (d : Die → Die) : State × Cur :=
  kit (fun f => { f with slot := slot }) id id id (fun s => s.modDie 0 d)
def faulted := queued (.parked (.page 9 {})) (fun d => { d with fq := { d.fq with entries := [entryOf placedRef] } })
def calling := queued (.parked (.svc 8)) (fun d => { d with sq := { d.sq with opened := [sqOf true], head := 2047 } })
def trapping := queued (.parked .trap) (fun d => { d with sq := { d.sq with opened := [sqOf false] } })
/-- A fault and a record wait, each queue with one free slot; a service fault. -/
def lates := queued .ready (fun d =>
  { d with fq := { d.fq with late := [entryOf placedRef], head := 4095 }, sq := { d.sq with late := [sqOf true], head := 2047 }
           svcFault := [(placedRef, 0)] })
theorem witness_QueueWindowRules :
    (∃ x, State.reset.die? (3#2).toNat = some x ∧ (∀ e ∈ x.fq.entries, e.seq = 4 → e.opened = false)
      ∧ (∀ r ∈ x.sq.opened, r.seq ≠ 6) ∧ x.sq.opened.any (fun r => r.batch) = false ∧ x.svcFault = [])
    ∧ (∃ x, faulted.1.die? (0#2).toNat = some x
      ∧ x.fq.entries.find? (fun y => y.opened && y.seq == 4) = some (entryOf placedRef)
      ∧ (entryOf placedRef).who = [.frag placedRef 9] ∧ faulted.1.look placedRef = some faulted.2
      ∧ faulted.2.f.slot = .parked (.page 9 {}) ∧ faulted.2.f.exiting = false ∧ faulted.2.draining = false ∧ faulted.2.j.kernel = false)
    ∧ (∃ x, trapping.1.die? (0#2).toNat = some x ∧ x.sq.opened.find? (fun y => y.seq == 6) = some (sqOf false)
      ∧ (sqOf false).batch = false)
    ∧ (∃ x, calling.1.die? (0#2).toNat = some x ∧ x.sq.opened.find? (fun y => y.seq == 6) = some (sqOf true)
      ∧ (sqOf true).batch = true ∧ calling.1.look placedRef = some calling.2 ∧ calling.2.f.slot = .parked (.svc 8)
      ∧ calling.2.unlogged ∧ (∀ f ∈ calling.1.frags, f.awaits = none) ∧ x.sq.opened = [sqOf true] ∧ x.sq.late = []
      ∧ x.sq.head - x.sq.tail ≠ 2048)
    ∧ ∃ x, lates.1.die? (0#2).toNat = some x ∧ x.fq.late = [entryOf placedRef]
      ∧ (∀ e ∈ x.fq.entries, e.takes (entryOf placedRef) = false) ∧ x.fq.room = true ∧ x.sq.late = [sqOf true] ∧ x.sq.room = true
      ∧ x.svcFault = [(placedRef, 0)] := by
  refine ⟨⟨_, rfl, by decide, by decide, rfl, rfl⟩, ⟨_, rfl, rfl, rfl, rfl, rfl, rfl, rfl, rfl⟩, ⟨_, rfl, rfl, rfl⟩,
    ⟨_, rfl, rfl, rfl, rfl, rfl, by unfold Cur.unlogged; decide, by decide, rfl, rfl, by decide⟩,
    ⟨_, rfl, rfl, by decide, rfl, rfl, rfl, rfl⟩⟩
/-- A job with its log full or not and freeze point 7 at SPC, its workgroup frozen or not, the fragment with a count left or none. -/
def debugged (full frozen : Bool) (steps : Option Nat) : State × Cur :=
  kit (fun f => { f with steps := steps }) id (fun g => { g with frozen := frozen })
    (fun j => { j with log := { j.log with mode := 2, full := full }, freezes := [(7, 0x100000)] }) id
/-- An area that holds a checkpoint of partition 15, of one job with one frame, the partition with one frame free. -/
def checkOf : Checkpoint :=
  { id := 0, area := 0x40, part := 15, jobs := [{ demo.2.j with ref := { part := 15, id := 3 } }], wgs := [], waves := [], frags := [], cmds := []
    frames := [(0, [])], dumps := [], ranges := [] }
def kept : State := { State.reset.modPart 15 (fun p => { p with savewin := 1 }) with checkpoints := [checkOf] }
theorem witness_DebugCommands : State.reset.job? placedRef.wave.wg.job = none
    ∧ (∀ b, (debugged b false none).1.job? placedRef.wave.wg.job = some (debugged b false none).2.j
        ∧ (debugged b false none).2.j.kernel = false ∧ (debugged b false none).2.j.log.full = b)
    ∧ (∀ b, (debugged false b none).1.wg? { job := placedRef.wave.wg.job, wg := (0#32).toNat } = some (debugged false b none).2.g
        ∧ (debugged false b none).2.g.die < 4 ∧ (debugged false b none).2.g.state = .running ∧ (debugged false b none).2.g.frozen = b
        ∧ (debugged false b none).2.g.held = none ∧ (debugged false b none).1.look placedRef = some (debugged false b none).2
        ∧ (debugged false b none).2.j.width ≤ 64 ∧ roleSregs (debugged false b none).2.role ≤ 64)
    ∧ (0#32 : BitVec 32) ≠ 0xFFFFFFFF ∧ (debugged false true none).2.f.queue = [] ∧ (debugged false true none).2.f.steps = none
    ∧ (debugged false false none).2.freezeHere = true ∧ (debugged false false none).2.g.canFreeze = true
    ∧ (debugged false false none).2.f.slot = .active
    ∧ (debugged false true (some 0)).1.look placedRef = some (debugged false true (some 0)).2
    ∧ (debugged false true (some 0)).2.f.steps = some 0 ∧ (debugged false true (some 0)).2.f.queue = []
    ∧ (debugged false true (some 0)).2.f.slot = .active ∧ (debugged false true (some 0)).2.f.routine = .none
    -- the window's last byte and one beyond it
    ∧ (let n := (debugged false true none).2.j.waveBytes (debugged false true none).2.role
       (0xA000000000#64 - BitVec.ofNat 64 n).toNat + n ≤ 0xA000000000 ∧ 0xA000000000 < (0xA000000001#64 - BitVec.ofNat 64 n).toNat + n)
    ∧ graphCycle [1, 2] [(1, 2)] = false ∧ graphCycle [1, 2] [(1, 2), (2, 1)] = true
    ∧ (∀ c ∈ kept.checkpoints, c.part = (0#4).toNat → c.id ≠ kept.deviceNat { pa := 0x40, key := none } 0 8)
    ∧ kept.checkpointAt (15#4).toNat 0x40 = some checkOf
    ∧ (kept.newIds (15#4).toNat ((kept.fromArea checkOf 0x40).jobs.map (fun x => x.ref.id))).isSome = true
    ∧ (kept.freeFrames (15#4).toNat (kept.fromArea checkOf 0x40).frames.length).isSome = true := by
  refine ⟨rfl, ?_, ?_, by decide, rfl, rfl, by decide, by decide, rfl, rfl, rfl, rfl, rfl, rfl, by decide, by decide, by decide, by decide, rfl,
    by decide +kernel, by decide +kernel⟩
  · intro b; cases b <;> exact ⟨rfl, rfl, rfl⟩
  · intro b; cases b <;> exact ⟨rfl, by decide, rfl, rfl, rfl, rfl, by decide, by decide⟩

/-! ### System calls -/

theorem pick_some (s : State) (k : Nat) (l : List Nat) (h : l ≠ []) : ∃ x, s.pick k l = some x := by
  have : s.choose k l.length < l.length := Nat.mod_lt _ (List.length_pos_iff.mpr h)
  exact ⟨_, List.getElem?_eq_getElem this⟩
theorem isSome_of {α : Type} {o : Option α} (h : o.isSome = true) : ∃ v, o = some v := Option.isSome_iff_exists.mp h
/-- A batch record of one lane, open; a call of number 1 in partition 0's mailbox; the call's completion record or none. -/
def callRec : SqRec := { sqOf true with lanes := 4 }
def called (cs : List (BitVec 32 × BitVec 32 × Sparse 8)) : State × Cur :=
  kit id id id (fun j => { j with completion := cs }) (fun s =>
    (s.modDie 3 (fun d => { d with sq := { d.sq with opened := [callRec] } })).modPart 0 (fun p => { p with
      mailbox := { p.mailbox with bell := 1, req := 0x100 } }))
/-- Launch records at 0x7000, the placed job's, and at 0x7200, with NETRX; a group descriptor at 0x7500; tables of VA 0x80000000 down
to an L4 at 0x9000; a handle and a context. -/
def asked : Asked := ecallAsked 0 0x7000 0x7100
def blank (armed : Bool) : Queued := { part := 0, addr := 0, record := 0, traps := [], armed := armed, copies := none, caller := none }
def asks (q : Nat) : State × Cur := kit id id id id (fun s =>
  { s.modPart 0 (fun p => { p with queue := List.replicate q (blank false), keyslots := 2 ^ 63 }) with
    mem := (((((((((s.mem.setBytes 0x5010 2 0x8003).setBytes 0x7010 1 1).setBytes 0x7029 1 0x30).setBytes 0x7051 1 0x80).setBytes 0x7210 1
      1).setBytes 0x7229 1 0x30).setBytes 0x7251 1 0x80).setBytes 0x7261 1 0x10).setBytes 0x7500 5 0x500000001).setBytes 0x8000 2 0x9003
    residency := [{ num := 4095, part := 0, root := none, base := 0, size := 0, lpddr := true, prio := 7, place := 2 }]
    contexts := [{ num := 9, part := 0, clusters := 1, keys := 1, measure := 0, pages := [], tearing := false, state := 0, total := 0, done := 0 }] })
/-- What a control program of partition 0 reads stands in device memory. -/
theorem Low.callRead {s : State} (hs : Low s 0) (a : Asked) (hj : a.job = none) (hp : a.part = 0) (n : Nat) (va : Word64)
    (h : va.toNat + n ≤ 2 ^ 30) : s.callRead a va n = some ((List.range n).map (fun i => s.mem.get (va.toNat + i))) := by
  induction n generalizing va with
  | zero => rfl
  | succ n ih =>
    have hr : regionOf va.toNat = .device := by simp only [regionOf]; rw [if_pos (by omega)]
    have hl : s.callLoc a va .read = some { pa := va.toNat, key := none } := by
      have hm : va.toNat % 2 ^ 44 = va.toNat := by omega
      simp only [State.callLoc, hj, hp, State.ipaLoc, hm, hs.stage2 va.toNat (by omega), State.checkPhys, hr]
      rfl
    have hk : (va + 1).toNat = va.toNat + 1 := by
      have : (1 : Word64).toNat = 1 := rfl
      rw [BitVec.toNat_add, this]; omega
    have hb : s.physByte (partyOf a.part) { pa := va.toNat, key := none } 0 = s.mem.get va.toNat := by
      simp only [State.physByte, Nat.add_zero, hr, State.deviceByte, State.keyTag, hs.keys]; rfl
    rw [State.callRead, hl, ih (va + 1) (by omega), List.range_succ_eq_map, List.map_cons, List.map_map, hk]
    simp only [Option.some.injEq, List.cons.injEq, Nat.add_zero, hb, true_and]
    apply List.map_congr_left
    intro i _
    simp only [Function.comp, Nat.add_assoc, Nat.add_comm 1]
theorem asks_low : Low (asks 0).1 0 :=
  ⟨⟨_, rfl, rfl, rfl⟩, by decide, is_of (by decide +kernel), is_of (by decide +kernel), is_of (by decide +kernel), is_of (by decide +kernel),
    is_of (by decide +kernel), rfl, rfl⟩
theorem asks_reads (n : Nat) (va : Word64) (h : va.toNat + n ≤ 2 ^ 30) : (asks 0).1.callRead asked va n =
    some ((List.range n).map (fun i => (asks 0).1.mem.get (va.toNat + i))) := asks_low.callRead asked rfl rfl n va h
theorem completes {s : State} {part : Nat} {addr : Word64} {r : BitVec 2048} {ts : List Word64} {armed : Bool} {who : Option Caller} (hs : Low s part)
    (ha : (launchJob part r).signalVa.toNat % 8 = 0) (hr : (launchJob part r).s1root % 2 ^ 44 = 0x3000)
    (hl : (launchJob part r).signalVa.toNat < 2 ^ 30) :
    ∃ v q, s.completeLaunch part addr r ts armed who = (v, some q) := by
  refine ⟨_, _, if_pos ?_⟩
  rw [hs.translate _ _ .write rfl hr hl rfl, ha]
  rfl
theorem maps {s : State} {t : Tree} {bits : Word64} {va : Nat} {s1 : State} {p : Phys}
    (h : s.pageEntry true t va t.levels t.root = (s1, some p)) (hc : s.contexts.any (fun x => x.tearing) = false) :
    ∃ u, s.mapPage t bits va = some u := by
  have hq : ∀ a, s.frameQuarantined t a = false := fun a => by
    unfold State.frameQuarantined
    split
    · rfl
    · simp only [State.tornAt, List.any_eq_false, Bool.and_eq_true, not_and] at hc ⊢
      exact fun x hx ht => absurd ht (hc x hx)
  simp only [State.mapPage, h, hq]
  exact ⟨_, rfl⟩
/-- The record read at an address. -/
def recordAt (va : Nat) : BitVec 2048 := BitVec.ofNat 2048 (leNat ((List.range 256).map (fun i => (asks 0).1.mem.get (va + i))))
/-- PERFORMS' cases: a mailbox with a request, a record with one active lane, whose call is complete or not. -/
theorem witness_SystemCallCallers : (∃ x, (called []).1.part? (0#4).toNat = some x ∧ x.mailbox.bell ≠ x.mailbox.done
      ∧ (x.mailbox.req.extractLsb' 8 10).toNat = 1)
    ∧ (∀ cs ∈ [[], [((0#32, 0#32, []) : BitVec 32 × BitVec 32 × Sparse 8)]],
        (called cs).1.openCall (3#2).toNat 6 (fun n => n == 1) = some callRec
        ∧ (called cs).1.job? callRec.caller.wave.wg.job = some (called cs).2.j)
    ∧ lanesOf 64 callRec.lanes = [2] ∧ (called []).2.j.completed callRec.callId = none
    ∧ (called [(0, 0, [])]).2.j.completed callRec.callId = some [] ∧ ∃ y, (called []).1.die? (3#2).toNat = some y := by
  refine ⟨⟨_, rfl, by decide, by decide⟩, ?_, by decide, by decide, by decide, _, rfl⟩
  intro cs h
  simp only [List.mem_cons, List.not_mem_nil, or_false] at h
  rcases h with rfl | rfl <;> exact ⟨rfl, rfl⟩
theorem asks_entry (make : Bool) : ∃ s1, (asks 0).1.pageEntry make (asks 0).2.j.tree 0x80000000 (asks 0).2.j.tree.levels
    (asks 0).2.j.tree.root = (s1, some { pa := 0x9000, key := none }) := by
  have h : ((asks 0).1.pageEntry make (asks 0).2.j.tree 0x80000000 (asks 0).2.j.tree.levels (asks 0).2.j.tree.root).2
      = some { pa := 0x9000, key := none } := by cases make <;> decide +kernel
  exact ⟨_, Prod.ext rfl h⟩
theorem mem_ne {α : Type} {l : List α} (x : α) (h : x ∈ l) : l ≠ [] := List.ne_nil_of_mem h
theorem witness_SystemCallResults : (∃ p, (asks 0).1.part? asked.part = some p ∧ p.queue.length < 256)
    ∧ (∃ p, (asks 256).1.part? asked.part = some p ∧ 256 ≤ p.queue.length)
    ∧ (∃ rb, (asks 0).1.callRead asked asked.a0 256 = some rb ∧ BitVec.ofNat 2048 (leNat rb) = recordAt 0x7000)
    ∧ (∃ tb, (asks 0).1.callRead asked asked.a1 128 = some tb) ∧ asked.a0.toNat % 256 = 0
    ∧ service.1.served = true
    ∧ (∃ v q, (asks 0).1.completeLaunch asked.part asked.a0 (recordAt 0x7000) [] false (some asked.who) = (v, some q))
    ∧ (∃ j, (asks 0).1.job? { part := 0, id := 0 } = some j) ∧ (∃ r, (asks 0).1.handle? 4095 = some r)
    -- MAP and UNMAP: the L4 entry of a page of the job
    ∧ (∀ make, ∃ s1, (asks 0).1.pageEntry make (asks 0).2.j.tree 0x80000000 (asks 0).2.j.tree.levels
        (asks 0).2.j.tree.root = (s1, some { pa := 0x9000, key := none }))
    ∧ regionOf 0x9000 = .device ∧ (∃ u, (asks 0).1.mapPage (asks 0).2.j.tree ((Config.mapBits 7).setWidth 64 <<< 2) 0x80000000 = some u)
    ∧ pagesOf 0x80000000 1 = [0x80000000]
    -- ARMLAUNCH, with a free binding and with none
    ∧ (∃ bs, (asks 0).1.callRead asked 0x7200 384 = some bs ∧ BitVec.ofNat 2048 (leNat (bs.take 256)) = recordAt 0x7200)
    ∧ (recordAt 0x7200).getLsbD 780 = true ∧ (∃ b, (asks 0).1.pick 1 (asks 0).1.freeBindings = some b)
    ∧ (∃ v q, (asks 0).1.completeLaunch asked.part 0x7200 (recordAt 0x7200) [] true none = (v, some q))
    ∧ (∃ s : State, s.freeBindings = [])
    -- PROTECT and TEARDOWN
    ∧ (∃ s : State, s.quarantined 1 [] = true) ∧ (∃ u, (asks 0).1.placeTensor 4095 1 = some u)
    ∧ (∀ d : BitVec 32 × List Nat, (asks 0).1.quarantined d.1 d.2 = false) ∧ (∃ n, (asks 0).1.pick 0 (asks 0).1.freeContexts = some n)
    ∧ (∃ p k, (asks 0).1.part? asked.part = some p ∧ (asks 0).1.pick 1 ((asks 0).1.freeKeys p) = some k)
    ∧ (∃ x, (asks 0).1.contexts.find? (fun y => y.num == 9 && y.part == asked.part) = some x ∧ x.state = 0)
    -- ATTEST and MCLOAD
    ∧ (∃ bs, (asks 0).1.callRead asked asked.a0 32 = some bs) ∧ (asks 0).1.jobs.any (fun j => !j.kernel) = true
    ∧ service.1.jobs.any (fun j => !j.kernel) = false
    -- COLLGROUP: a rank beyond the group
    ∧ (∃ hb mb, (asks 0).1.callRead asked 0x7500 16 = some hb ∧ (BitVec.ofNat 128 (leNat hb)).extractLsb' 0 32 = 1
        ∧ (asks 0).1.callRead asked (0x7500 + 16) (4 * 1) = some mb ∧ readGroup 0 (BitVec.ofNat 128 (leNat hb)) [0] = none)
    ∧ ∃ k, (asks 0).1.pick 0 ((asks 0).1.freeGroups asked.part) = some k := by
  refine ⟨⟨_, rfl, by decide⟩, ⟨_, rfl, by decide⟩, ⟨_, asks_reads 256 0x7000 (by decide), rfl⟩, ⟨_, asks_reads 128 0x7100 (by decide)⟩,
    by decide, by decide, completes asks_low (by decide +kernel) (by decide +kernel) (by decide +kernel), ⟨_, rfl⟩, ⟨_, rfl⟩, asks_entry, by decide, maps (asks_entry true).choose_spec (by decide),
    by decide, ⟨_, asks_reads 384 0x7200 (by decide), ?_⟩, by decide +kernel, pick_some _ _ _ (mem_ne 255 ?_), completes asks_low (by decide +kernel) (by decide +kernel) (by decide +kernel),
    ⟨{ State.reset with armedRecs := (List.range 256).map (fun b => (b, blank true)) }, ?_⟩,
    ⟨{ State.reset with contexts := [{ num := 0, part := 0, clusters := 1, keys := 0, measure := 0, pages := [], tearing := true, state := 0
                                       total := 1, done := 0 }] }, by decide⟩, isSome_of (by decide), fun _ => rfl,
    pick_some _ _ _ (mem_ne 4095 ?_), ?_, ⟨_, rfl, rfl⟩, ⟨_, asks_reads 32 0x7000 (by decide)⟩, by decide, by decide,
    ⟨_, _, asks_reads 16 0x7500 (by decide), by decide +kernel, asks_reads 4 0x7510 (by decide), ?_⟩, pick_some _ _ _ (mem_ne 255 ?_)⟩
  · rw [← List.map_take, List.take_range]; rfl
  · exact List.mem_filter.mpr ⟨List.mem_range.mpr (by decide), rfl⟩
  · refine List.filter_eq_nil_iff.mpr (fun b hb => ?_)
    have : (blank true) = blank true := rfl
    simp only [List.any_map, List.any_eq_true, Bool.and_eq_true, Bool.not_eq_true', not_and, Bool.not_eq_false]
    exact fun _ => ⟨b, hb, by simp⟩
  · exact List.mem_filter.mpr ⟨List.mem_range.mpr (by decide), rfl⟩
  · have h : (asks 0).1.part? asked.part = some { Part.reset 0 with s2root := 0x1000, keyslots := 2 ^ 63 } := rfl
    obtain ⟨k, hk⟩ := pick_some (asks 0).1 1 ((asks 0).1.freeKeys { Part.reset 0 with s2root := 0x1000, keyslots := 2 ^ 63 })
      (mem_ne 63 (List.mem_filter.mpr ⟨List.mem_range.mpr (by decide), rfl⟩))
    exact ⟨_, k, h, hk⟩
  · simp only [readGroup]
    rw [if_pos]
    exact .inr (.inr (.inr (.inl (by decide +kernel))))
  · exact List.mem_filter.mpr ⟨List.mem_range.mpr (by decide), rfl⟩
/-- A group of this module alone, whatever its number. -/
theorem witness_CollgroupAccepts : (readGroup 0 1 [0#18 ++ 0#4 ++ Config.thisModule]).isSome = true := by
  unfold readGroup
  generalize Config.thisModule = m
  revert m
  decide +kernel

/-! ### Launches, retirement and pre-emption -/

/-- A queued record of partition 15, its fields by name. -/
def queuedRec (record : BitVec 2048) : Queued := { blank false with part := 15, record := record }
/-- Tables that map the first GiB to itself, at both stages. -/
def lowMem : Sparse 8 :=
  [(0x1000, 0x03), (0x1001, 0x20), (0x2000, 0x0D), (0x3000, 0x03), (0x3001, 0x40), (0x4000, 0x03), (0x4001, 0x50), (0x5000, 0x0D)]
/-- The placed job's kernel descriptor at 0x7000. -/
def kdescMem : Sparse 8 := [(0x7020, 0x20), (0x7021, 0x1), (0x7026, 0x8), (0x702A, 0x10), (0x7030, 0x10), (0x7032, 0x20), (0x703A, 0x1), (0x703D, 0xC0), (0x7090, 0x1), (0x7091, 0x8), (0x7093, 0x1), (0x7094, 0x40)]
/-- Partition 15 with the whole die 0 and the first GiB, a record in its queue and one in the privileged queue, and jobs. -/
def launching (qs : List Queued) (js : List Job) : State :=
  { State.reset with
    parts := [{ Part.reset 15 with s2root := 0x1000, queue := qs, clusters := 0xFF }]
    mem := lowMem, jobs := js, privQueue := qs, frags := [], waves := [], wgs := []
    containers := [{ id := 1, part := 15, bytes := [], places := [], loaded := [0], unload := false }] }
def goodRec : Queued := queuedRec placedJob.record
/-- SIGNAL outside the address space; SIGNAL at an odd address; a reserved bit set. -/
def farRec : Queued := queuedRec (placedJob.record ||| (0x8000000000000000#2048 <<< 384))
def oddRec : Queued := queuedRec (placedJob.record ||| (1#2048 <<< 384))
def badRec : Queued := queuedRec (placedJob.record ||| (1#2048 <<< 1000))
/-- A record with the kernel that the loader chose at its LAUNCH, whose descriptor stands at 0x7000; the state that has it. -/
def kernelRec : Queued := { goodRec with kernel := some (1, 0, 0x7000) }
def kernelAt : State := { launching [] [] with mem := lowMem ++ kdescMem }
def armedRec : Queued := { goodRec with armed := true, addr := 0x7000 }
/-- One whose KERNEL is not what memory holds at its address; a record at no multiple of 256. -/
def rekeyed : Queued := { armedRec with record := armedRec.record ||| 0x40 }
def slantRec : Queued := { goodRec with addr := 0x7010 }
/-- What Meridian holds once it has assigned JOBID 0. -/
def assigned (u : State) (x : Queued) : State × Job :=
  let v := u.modPart x.part (fun y => { y with lastJob := some 0 })
  let j : Job := { x.job 0 u.serial with features := v.features x.part }
  ({ v with serial := u.serial + 1, tlb := u.tlb.filter (fun e => e.job != j.ref) }, j)
/-- The job that a record makes, in a state, or one workgroup of it. -/
def launchedJob : Job := { (goodRec.job 0 0) with kdesc := placedJob.kdesc, ranges := [(0, 0, 1)] }
def firstWg : WgRef := { job := { part := 15, id := 0 }, wg := 0 }
/-- The launched job with its workgroup on no core, saved there. -/
def savedWg : State :=
  { launching [] [{ launchedJob with ranges := [], line := [0] }] with
    wgs := [{ launchedJob.freshWg firstWg 4 0 0 with state := .saved }], waves := [launchedJob.freshWave firstWg 0 0]
    frags := [launchedJob.freshFrag firstWg 0 0 0 0] }
/-- The kit's workgroup, its wave ended or not; a job in a state with reports, no workgroup. -/
def ended (b : Bool) : State × Cur := kit id (fun w => { w with ended := b }) id id (fun s => { s with frags := [] })
def endedK : State × Cur := kitK id (fun w => { w with ended := true }) id id (fun s => { s with frags := [] })
def reporting (st : JobState) (ds : List Nat) : State :=
  { demo.1 with wgs := [], jobs := [{ demo.2.j with state := st, reported := ds, ranges := [(0, 1, 1)] }] }
theorem err_of {α β : Type} {e : Except α β} (h : okB e = false) : ∃ x, e = .error x := by
  cases e with
  | ok _ => cases h
  | error x => exact ⟨x, rfl⟩
theorem inr_of {α β γ : Type} {x : γ × (α ⊕ β)} (h : x.2.isRight = true) : ∃ v y, x = (v, .inr y) := by
  obtain ⟨v, x⟩ := x
  cases x with
  | inl _ => cases h
  | inr y => exact ⟨v, y, rfl⟩
theorem assigned_low (m : Sparse 8) (h : ∀ a ∈ [(0x1000, 0x2003), (0x2000, 0x0D), (0x3000, 0x4003), (0x4000, 0x5003), (0x5000, 0x0D)],
    ({ launching [] [] with mem := m } : State).tableEntry { pa := a.1, key := none } = .ok a.2) (x : Queued) (hx : x.part = 15) :
    Low (assigned { launching [] [] with mem := m } x).1 15 := by
  simp only [List.mem_cons, List.not_mem_nil, or_false, forall_eq_or_imp, forall_eq] at h
  exact ⟨⟨_, by simp only [assigned, hx]; rfl, rfl, rfl⟩, by decide, h.1, h.2.1, h.2.2.1, h.2.2.2.1, h.2.2.2.2, rfl, rfl⟩
theorem kernelAt_low (x : Queued) (hx : x.part = 15) : Low (assigned kernelAt x).1 15 :=
  assigned_low _ (by
    simp only [List.mem_cons, List.not_mem_nil, or_false, forall_eq_or_imp, forall_eq]
    exact ⟨is_of (by decide +kernel), is_of (by decide +kernel), is_of (by decide +kernel), is_of (by decide +kernel), is_of (by decide +kernel)⟩) x hx
theorem check_read {s : State} {q : Queued} {j : Job} {b : Bool} {id img : Nat} {d : Word64} {v : Nat} (h : recordBad q.record = false)
    (ha : q.addr.toNat % 256 = 0) (hl : s.containers.any (fun c => c.id == id && c.loaded.contains img) = true) (hk : q.kernel = some (id, img, d)) (hv : s.readVaNat j.who d 256 = some v) (r : ((s.askUnload id).checkJob q
      { s.readJob q j (BitVec.ofNat 2048 v) with image := some (id, img) } b).2.isRight = true) : ∃ t k, s.check q j b = (t, .inr k) := by
  refine inr_of ?_
  rw [State.check, if_neg (by simp [h, ha]), State.chosen, hk]
  simp only [hl, if_true, hv]
  exact r
theorem check_bad (s : State) (q : Queued) (j : Job) (b : Bool) (h : recordBad q.record = true) : s.check q j b = (s, .inl 0x01) :=
  if_pos (by simp [h])
theorem witness_LaunchAndRetirementRules :
    (∀ b, ∃ p, ((launching [] []).modPart 15 (fun p => { p with resetting := b })).part? ((31#5).toNat % 16) = some p ∧ p.resetting = b)
    ∧ (∃ p, (launching [] []).part? ((15#5).toNat % 16) = some p ∧ p.resetting = false ∧ p.queue = []
        ∧ (launching [] []).privQueue.find? (fun y => y.part == p.id) = none)
    ∧ (∃ p, (launching [goodRec] []).part? ((15#5).toNat % 16) = some p ∧ p.resetting = false ∧ p.queue = goodRec :: []
        ∧ (launching [goodRec] []).privQueue.find? (fun y => y.part == p.id) = some goodRec
        ∧ (launching [armedRec] []).privQueue.find? (fun y => y.part == p.id) = some armedRec)
    ∧ 16 ≤ (31#5).toNat ∧ goodRec.armed = false ∧ armedRec.armed = true
    ∧ PlainBytes (launching [armedRec] []) { pa := armedRec.addr.toNat, key := none } 384 ∧ goodRec.service true = false
    ∧ (∃ s : State, s.nextJobid 15 = none) ∧ (launching [] []).nextJobid 15 = some 0 ∧ goodRec.caller = none
    ∧ (assigned (launching [] []) oddRec).2.signalVa.toNat % 8 ≠ 0
    ∧ (∃ e, (assigned (launching [] []) farRec).1.translate (assigned (launching [] []) farRec).2.who
        (assigned (launching [] []) farRec).2.signalVa .write = .error e)
    ∧ (∀ x ∈ [badRec, kernelRec], (assigned kernelAt x).2.signalVa.toNat % 8 = 0
        ∧ (assigned kernelAt x).1.translate (assigned kernelAt x).2.who (assigned kernelAt x).2.signalVa .write = .ok { pa := 0, key := none })
    ∧ recordBad badRec.record = true ∧ slantRec.addr.toNat % 256 ≠ 0
    ∧ armedRec.record.extractLsb' 0 64 = BitVec.ofNat 64 (Sparse.bytesNat (launching [armedRec] []).mem 0x7000 8)
    ∧ rekeyed.armed = true
    ∧ rekeyed.record.extractLsb' 0 64 ≠ BitVec.ofNat 64 (Sparse.bytesNat (launching [rekeyed] []).mem 0x7000 8)
    ∧ (assigned kernelAt badRec).1.check badRec (assigned kernelAt badRec).2 false = ((assigned kernelAt badRec).1, .inl 0x01)
    ∧ kernelRec.service false = false ∧ kernelRec.caller = none ∧ kernelAt.nextJobid 15 = some 0
    ∧ (∃ v k, (assigned kernelAt kernelRec).1.check kernelRec (assigned kernelAt kernelRec).2 false = (v, .inr k)) := by
  refine ⟨fun b => ⟨_, rfl, rfl⟩, ⟨_, rfl, rfl, rfl, rfl⟩, ⟨_, rfl, rfl, rfl, rfl, rfl⟩, by decide, rfl, rfl,
    plain_low _ _ _ rfl (by decide), by decide, ?_, by decide +kernel, rfl, by decide, err_of (by decide +kernel), ?_, by decide,
    by decide, by decide, rfl, by decide, check_bad _ _ _ _ (by decide), by decide, rfl, by decide +kernel, check_read (by decide) (by decide) (by decide) rfl
      (by rw [State.readVaNat, (kernelAt_low kernelRec rfl).readVa _ 256 _ rfl rfl (by decide)]; rfl) (by decide +kernel)⟩
  · refine ⟨{ State.reset with jobs := (List.range 65536).map (fun i => { launchedJob with ref := { part := 15, id := i } }) }, ?_⟩
    simp only [State.nextJobid, Option.map_eq_none_iff, List.find?_eq_none, Bool.not_eq_true, List.all_eq_false]
    intro i _
    generalize hn : (_ + i) % 65536 = n
    exact ⟨_, List.mem_map.mpr ⟨n, List.mem_range.mpr (hn ▸ Nat.mod_lt _ (by decide)), rfl⟩, by simp⟩
  · intro x hx
    simp only [List.mem_cons, List.not_mem_nil, or_false] at hx
    rcases hx with rfl | rfl <;> exact ⟨by decide, (kernelAt_low _ rfl).translate _ _ .write rfl rfl (by decide) rfl⟩
/-- The rest of LaunchAndRetirementRules. -/
theorem witness_DispatchAndRetirementRules :
    -- a dispatch, fresh and of a saved workgroup
    (launching [] [launchedJob]).job? firstWg.job = some launchedJob
    ∧ (launching [] [launchedJob]).mayDispatch launchedJob firstWg.wg ((1#8).toNat / 64) ((1#8).toNat % 64) = true
    ∧ (launching [] [launchedJob]).wg? firstWg = none
    ∧ (∃ j x, savedWg.job? firstWg.job = some j ∧ savedWg.mayDispatch j firstWg.wg ((1#8).toNat / 64) ((1#8).toNat % 64) = true
        ∧ savedWg.wg? firstWg = some x ∧ x.state = .saved ∧ x.held = none)
    -- retirement
    ∧ (∀ b, (ended b).1.wg? (ended b).2.g.ref = some (ended b).2.g ∧ (ended b).1.job? (ended b).2.g.ref.job = some (ended b).2.j
        ∧ (ended b).1.wgFinished (ended b).2.g.ref = b ∧ (ended b).2.g.die < 4 ∧ (ended b).2.g.orphans = [] ∧ (ended b).2.j.kernel = false)
    ∧ endedK.1.wg? endedK.2.g.ref = some endedK.2.g ∧ endedK.1.job? endedK.2.g.ref.job = some endedK.2.j
    ∧ endedK.1.wgFinished endedK.2.g.ref = true ∧ endedK.2.j.kernel = true
    -- reports: the last one, one of several, an aborting job's; the signal
    ∧ (∀ ds ∈ [[0, 1, 2], ([] : List Nat)], ∃ x, (reporting .running ds).job? demo.2.j.ref = some x ∧ (3#2).toNat ∉ x.reported
        ∧ x.state = .running ∧ (∀ g ∈ (reporting .running ds).wgs, g.ref.job = demo.2.j.ref → g.die ≠ (3#2).toNat ∧ g.die ≠ 4)
        ∧ ∀ r ∈ x.ranges, r.2.2 ≤ r.2.1)
    ∧ (∀ e ∈ (reporting .running [0, 1, 2]).dies, e.lost = false → e.id = (3#2).toNat ∨ e.id ∈ [0, 1, 2])
    ∧ (∃ e ∈ (reporting .running []).dies, e.lost = false ∧ e.id ≠ (3#2).toNat ∧ e.id ∉ ([] : List Nat))
    ∧ (∃ x, (reporting .aborting []).job? demo.2.j.ref = some x ∧ x.state = .aborting)
    ∧ ∃ x, (reporting .signalling []).job? demo.2.j.ref = some x ∧ x.state = .signalling
        ∧ (reporting .signalling []).translate x.who x.signalVa .write = .ok { pa := 0, key := none } ∧ regionOf 0 = .device := by
  refine ⟨rfl, by decide +kernel, rfl, ⟨_, _, rfl, by decide +kernel, rfl, rfl, rfl⟩, ?_, rfl, rfl,
    by decide, rfl, ?_, by decide, by decide, ⟨_, rfl, rfl⟩, _, rfl, rfl, is_of (by decide +kernel), rfl⟩
  · intro b; cases b <;> exact ⟨rfl, rfl, by decide, by decide, rfl, rfl⟩
  · intro ds h
    simp only [List.mem_cons, List.not_mem_nil, or_false] at h
    rcases h with rfl | rfl <;> exact ⟨_, rfl, by decide, rfl, by decide, by decide⟩

/-- WORKEST 8, IDEMP as given. -/
def jobW (idemp : Bool) (j : Job) : Job := { j with record := j.record ||| (8#2048 <<< 576) ||| ((if idemp then 1#2048 else 0) <<< 656) }
/-- The kit with its workgroup in a state and the limits of reset, at cycle 20000. -/
def preempts (st : WgState) (idemp : Bool) (g : Wg → Wg) (f : Frag → Frag) (m : State → State) : State × Cur :=
  kit f id (fun x => g { x with state := st }) (jobW idemp) (fun s => m { s with cycle := 20000 })
def still (st : WgState) (idemp : Bool) (g : Wg → Wg) := preempts st idemp g id id
def exitsDone (f : Frag) : Frag := { f with routine := .exit 0 1 true }
/-- A region of the whole scalar section at 0x7800, its exit routine at offset 0x40; the fragment holds frame 3. -/
def regioned : State × Cur :=
  kit (fun f => { f with frame := some 3 }) id id (fun j => { j with kdesc := j.kdesc ||| (1#2048 <<< 800) ||| (0x7800#2048 <<< 832) })
    (fun s => { s with mem := (s.mem.setBytes 0x7814 1 0x40).setBytes 0x781A 1 1 })
def exitReg : BitVec 256 := (0x10000#256 <<< 192) ||| (0x40#256 <<< 160)
def slotted (slot : Slot) (cycle : Nat) : State × Cur := kit (fun f => { f with slot := slot }) id id id (fun s => { s with cycle := cycle })
theorem witness_PreemptionRules :
    -- requests: frozen, resuming; draining and restarting at their thresholds; neither
    (∃ p, demo.1.part? demo.2.j.ref.part = some p ∧ p.drainthr * 8 = 256 * 7 ∧ p.restartthr * 8 = 256 * 1 ∧ p.drainlim = 16384
      ∧ p.exitdl = 8192)
    ∧ (∀ st ∈ [WgState.running, .resuming, .draining 3616, .draining 3617, .saving 3616, .saving 3617, .fallback 0], ∀ idemp,
        ∀ g ∈ [fun (x : Wg) => x, fun (x : Wg) => { x with frozen := true }, fun (x : Wg) => { x with done := 7 },
          fun (x : Wg) => { x with done := 1 }, fun (x : Wg) => { x with kind := .checkpoint }],
        ∃ j x p, (still st idemp g).1.wg? placedRef.wave.wg = some x ∧ x.state = st ∧ x.dumpSlot = none
          ∧ (still st idemp g).1.job? placedRef.wave.wg.job = some j ∧ j.workest = 8 ∧ j.idemp = idemp ∧ j.dumpBase = 0
          ∧ (still st idemp g).1.part? placedRef.wave.wg.job.part = some p)
    -- frames: none, and enough for a fragment on its way to its point
    ∧ demo.1.freeFrames 0 1 = none
    ∧ (let k := preempts .running false id (fun f => { f with queue := [{}] }) (fun s => s.modPart 0 (fun p => { p with savewin := 64 }))
       k.1.enterIf placedRef.wave.wg (fun _ => true) = k.1 ∧ k.1.wg? placedRef.wave.wg = some k.2.g
         ∧ k.1.freeFrames k.2.j.ref.part ((k.1.wgFrags k.2.g.ref).length + 0 + k.2.j.scratchFrames) = some (List.range 30)
         ∧ ∀ f ∈ k.1.wgFrags k.2.g.ref, f.atPoint = false)
    -- copies and the end of a save
    ∧ (let k := preempts (.saving 3616) false id id (fun s => { s with cmds := [cmdOf 0 7 true tmpl16] })
       ∃ c, k.1.cmd? 0 = some c ∧ c.wg = placedRef.wave.wg ∧ c.fired = true ∧ c.bitDue = none ∧ c.squashed = false ∧ c.error = none
         ∧ ∀ d ∈ k.1.cmds, d.wg = placedRef.wave.wg → d.seen = [] ∧ d.wrote = [])
    ∧ (let k := preempts (.saving 0) false id exitsDone id
       (∀ f ∈ k.1.wgFrags k.2.g.ref, f.exitComplete = true) ∧ k.1.copiesSettled k.2.g.ref = true)
    -- a fragment at its point in a region; an exit routine at its deadline and beyond it; a slot at 63 and 64 cycles
    ∧ regioned.1.look placedRef = some regioned.2 ∧ regioned.1.regionOfSpc regioned.2.j regioned.2.f.stop.spc = some (0, exitReg)
    ∧ regioned.2.f.frame = some 3 ∧ regionVerify exitReg = false
    ∧ (∀ n ∈ [11807, 11808], let k := preempts .running false id (fun f => { f with routine := .exit n 1 false }) id
        k.1.look placedRef = some k.2 ∧ k.2.f.routine = .exit n 1 false)
    ∧ (∀ n ∈ [63, 64], (slotted .active n).1.look placedRef = some (slotted .active n).2 ∧ (slotted .active n).2.f.issuedAt = 0
        ∧ (slotted .active n).2.g.die < 4 ∧ (slotted .active n).1.cycle = n)
    ∧ (slotted (.waiting .miss) 0).1.look placedRef = some (slotted (.waiting .miss) 0).2 := by
  refine ⟨⟨_, rfl, by decide, by decide, by decide, by decide⟩, ?_, by decide, ⟨rfl, rfl, by decide, by decide⟩, ⟨_, rfl, rfl, rfl, rfl, rfl, rfl, by decide⟩,
    ⟨by decide, by decide⟩, rfl, by decide +kernel, rfl, by decide, ?_, ?_, rfl⟩
  · intro st hst idemp g hg
    simp only [List.mem_cons, List.not_mem_nil, or_false] at hg
    have hj : (jobW idemp demo.2.j).workest = 8 ∧ (jobW idemp demo.2.j).idemp = idemp ∧ (jobW idemp demo.2.j).dumpBase = 0 := by
      cases idemp <;> decide
    rcases hg with rfl | rfl | rfl | rfl | rfl <;> exact ⟨jobW idemp demo.2.j, _, _, rfl, rfl, rfl, rfl, hj.1, hj.2.1, hj.2.2, rfl⟩
  · intro n h
    simp only [List.mem_cons, List.not_mem_nil, or_false] at h
    rcases h with rfl | rfl <;> exact ⟨rfl, rfl⟩
  · intro n h
    simp only [List.mem_cons, List.not_mem_nil, or_false] at h
    rcases h with rfl | rfl <;> exact ⟨rfl, rfl, by decide, rfl⟩
/-- A job whose workgroup `st` is all that holds a full die, its one wave parked, workgroup 7 next in line. -/
def parks (st : WgState) (cycle : Nat) (denied : List Nat := []) : State × Cur :=
  kit (fun f => { f with slot := .parked .waitaddr }) id (fun g => { g with state := st })
    (fun j => { j with ranges := [(0, 7, 8)], denied := denied }) (fun s => { s with cycle := cycle })
theorem parks_calm (st : WgState) (cyc : Nat) : ∀ g ∈ (parks st cyc).1.wgs, g.ref.job = (parks st cyc).2.j.ref → g.frozen = false
    ∧ (g.kind = .eviction → ∀ m, g.state ≠ .saving m ∧ g.state ≠ .fallback m) := by
  intro g hg _
  have : g = (parks st cyc).2.g := List.mem_singleton.mp hg
  subst this
  exact ⟨rfl, fun h => by cases h⟩
def roomy : State := (parks .running 0x100001).1.modPart 0 (fun p => { p with clusters := 0xFF })
def stopOf (halted : List Nat) : Stop :=
  { part := 0, jobs := [0], edges := [], halted := halted, denied := [], area := none, ranges := []
    caller := some { src := .ecall 0 0 0, lane := 0, callId := none } }
def stops (st : JobState) (halted : List Nat) : State :=
  { (reporting st []) with stops := [stopOf halted] }
theorem witness_ParkAndStopRules :
    -- one that can be evicted, one that resumes, one that has been denied; at LIMIT cycles and beyond
    (∀ st ∈ [WgState.running, .resuming], ∀ cyc ∈ [0x100000, 0x100001],
      (parks st cyc).1.job? (parks st cyc).2.j.ref = some (parks st cyc).2.j ∧ (∃ p, (parks st cyc).1.part? (parks st cyc).2.j.ref.part = some p)
      ∧ (parks st cyc).1.nextInLine (parks st cyc).2.j = some 7 ∧ (parks st cyc).2.j.state = .running ∧ (parks st cyc).2.j.noEvict = false
      ∧ (∀ g ∈ (parks st cyc).1.wgs, g.ref.job = (parks st cyc).2.j.ref → g.frozen = false
        ∧ (g.kind = .eviction → ∀ m, g.state ≠ .saving m ∧ g.state ≠ .fallback m))
      ∧ (parks st cyc).1.parkedOut (parks st cyc).2.j 0x100000 = decide (0x100000 < cyc)
      ∧ (parks st cyc).1.evictDie (parks st cyc).2.j 7 = some 0
      ∧ (parks st cyc).1.pickCore (parks st cyc).2.j ((parks st cyc).1.slotsNeeded (parks st cyc).2.j 7) 0 = none
      ∧ (parks st cyc).1.evictable (parks st cyc).2.j 0 = (if st = .running then [0] else [])
      ∧ ∃ g ∈ (parks st cyc).1.wgs, g.ref.job = (parks st cyc).2.j.ref ∧ g.die = 0 ∧ g.ref.wg ∉ (parks st cyc).2.j.denied)
    ∧ (let k := parks .running 0x100001 [0]
       k.1.job? k.2.j.ref = some k.2.j ∧ k.1.nextInLine k.2.j = some 7 ∧ k.1.parkedOut k.2.j 0x100000 = true
         ∧ k.1.evictDie k.2.j 7 = some 0 ∧ k.1.pickCore k.2.j (k.1.slotsNeeded k.2.j 7) 0 = none ∧ k.1.evictable k.2.j 0 = []
         ∧ ∀ g ∈ k.1.wgs, g.ref.job = k.2.j.ref → g.die = 0 → g.ref.wg ∈ k.2.j.denied)
    ∧ (roomy.pickCore (parks .running 0x100001).2.j (roomy.slotsNeeded (parks .running 0x100001).2.j 7) 0).isSome = true
    ∧ (∀ y ∈ State.reset.stops, y.part ≠ (15#4).toNat)
    ∧ (∀ st ∈ [JobState.running, .halting], (stops st []).stops.find? (fun y => y.part == (0#4).toNat) = some (stopOf [])
        ∧ (stopOf []).denied = [] ∧ (stopOf []).ready = some 0 ∧ ∃ j, (stops st []).job? { part := (0#4).toNat, id := 0 } = some j ∧ j.state = st
        ∧ ∀ g ∈ (stops st []).wgs, g.ref.job = j.ref → ¬ g.die < 4)
    ∧ (stops .halted [0]).stops.find? (fun y => y.part == (0#4).toNat) = some (stopOf [0]) ∧ (stopOf [0]).ready = none
    ∧ (stopOf [0]).area = none := by
  refine ⟨?_, ⟨rfl, by decide, by decide, by decide, by decide +kernel, by decide +kernel, by decide⟩, by decide +kernel, by decide, ?_, rfl,
    by decide, rfl⟩
  · intro st hst cyc hc
    simp only [List.mem_cons, List.not_mem_nil, or_false] at hst hc
    rcases hst with rfl | rfl <;> rcases hc with rfl | rfl <;>
      exact ⟨rfl, ⟨_, rfl⟩, by decide, rfl, rfl, parks_calm _ _, by decide, by decide, by decide +kernel, by decide +kernel, by decide⟩
  · intro st hst
    simp only [List.mem_cons, List.not_mem_nil, or_false] at hst
    rcases hst with rfl | rfl <;> exact ⟨rfl, rfl, by decide, _, rfl, rfl, by decide⟩

/-! ### Engines, pools, the network and the module -/

/-- 520 bytes from the scratchpad at 0 to 0x8000, with a completion word at 0x6000 and a bitmap at 0x6008; a copy
between rings of 512 bytes; a sum of 4 bytes of group 2. -/
def tmplWord : BitVec 512 := (0x8000#512 <<< 384) ||| (0x6008#512 <<< 320) ||| (0x6000#512 <<< 256) ||| (520#512 <<< 224) ||| (1#512 <<< 136)
def tmplRing : BitVec 512 :=
  (0x1000#512 <<< 448) ||| (0x2000#512 <<< 384) ||| (16#512 <<< 224) ||| (0x400#512 <<< 192) ||| (0x408#512 <<< 160) ||| (9#512 <<< 155)
    ||| (9#512 <<< 150) ||| (3#512 <<< 135)
def tmplSum : BitVec 512 := (0x8000#512 <<< 384) ||| (4#512 <<< 224) ||| (1#512 <<< 136) ||| (1#512 <<< 126) ||| (2#512 <<< 118) ||| (8#512 <<< 111)
def groupOf : Group := { num := 2, n := 2, rank := 0, gtag := 0, member := [0, 0], created := [1], gone := [], count := 0 }
/-- The kit with commands, its ring's pair at 0x400 holding HEAD 16, TAIL 0, its group 2 complete; at a cycle. -/
def engine (cs : List Cmd) (cycle : Nat) (stash : List Stash := []) : State × Cur :=
  kit id (fun w => { w with evslots := (w.evslots.set 15 { EvSlot.none with armed := true, kind := 6, arg := 64 }).set 14 { EvSlot.none with armed := true, kind := 3, arg := (poolOf []).handle ||| 0x100 } })
    (fun g => { g with scratch := [(0x400, 16)], stash := stash }) id
    (fun s => { s.modPart 0 (fun p => { p with groups := [groupOf] }) with
      cmds := cs, cycle := cycle, pools := [poolOf []], tlbis := [{ id := 9, kind := 2, operand := 0, caller := placedRef, since := 1 }] })
def farStash : Stash := { soff := 0x400, gbase := 0x8000000000000000, size := 16 }
def ringCmd (fired : Bool) : Cmd := { cmdOf 4 7 fired tmplRing with landed := if fired then [0] else [] }
def wordCmd (ls : List Nat) : Cmd := { cmdOf 5 1 true tmplWord with landed := ls }
def sumCmd : Cmd := cmdOf 6 1 true tmplSum
def fullRing : State × Cur := engine [ringCmd false, { ringCmd true with id := 8 }] 0
theorem witness_CopyEvents : (demo.1.chanQueue (1#8).toNat (7#3).toNat = [])
    ∧ ((engine [ringCmd false] 0).1.chanQueue (1#8).toNat (7#3).toNat = ringCmd false :: []
      ∧ (engine [ringCmd false] 0).1.job? (ringCmd false).wg.job = some (engine [ringCmd false] 0).2.j
      ∧ (engine [ringCmd false] 0).1.wg? (ringCmd false).wg = some (engine [ringCmd false] 0).2.g
      ∧ (engine [ringCmd false] 0).1.mayFire (ringCmd false) (engine [ringCmd false] 0).2.j (engine [ringCmd false] 0).2.g = true
      ∧ tmplSrcRing tmplRing ≠ 0 ∧ tmplDstRing tmplRing ≠ 0
      ∧ (∃ v, (engine [ringCmd false] 0).1.pairAt ((ringCmd false).who (engine [ringCmd false] 0).2.j) (engine [ringCmd false] 0).2.g
          (tmplSrcPtr tmplRing) = .ok v)
      ∧ ∃ v, (engine [ringCmd false] 0).1.pairAt ((ringCmd false).who (engine [ringCmd false] 0).2.j) (engine [ringCmd false] 0).2.g
          (tmplDstPtr tmplRing) = .ok v)
    -- a pointer pair in a stash window outside the address space
    ∧ (ringCmd false).fault = none
    ∧ (let k := engine [ringCmd false] 0 [farStash]
       k.1.chanQueue (1#8).toNat (7#3).toNat = ringCmd false :: [] ∧ k.1.wg? (ringCmd false).wg = some k.2.g
         ∧ ∃ e va, k.1.pairFault (ringCmd false) k.2.j k.2.g = some (e, va))
    ∧ fullRing.1.pairFault (ringCmd false) fullRing.2.j fullRing.2.g = none
    ∧ (fullRing.1.chanQueue (1#8).toNat (7#3).toNat = ringCmd false :: [] ∧ fullRing.1.mayFire (ringCmd false) fullRing.2.j fullRing.2.g = false)
    -- a chunk that may land, one that may not, and both sides' places; the bitmap and the completion word; completion of a ring copy
    ∧ (∀ ls ∈ [[0], [0, 1]], (engine [wordCmd ls] 0).1.cmd? 5 = some (wordCmd ls) ∧ (wordCmd ls).mayLand 1 = decide (ls = [0])
        ∧ (wordCmd ls).allLanded = decide (ls = [0, 1]) ∧ (wordCmd ls).result = none ∧ (wordCmd ls).bitDue = none ∧ (wordCmd ls).error = none
        ∧ (wordCmd ls).fault = none ∧ (wordCmd ls).seen = [] ∧ (wordCmd ls).wrote = [])
    ∧ (let c := { wordCmd [0, 1] with bitDue := some 1 }
       (engine [c] 0).1.cmd? 5 = some c ∧ c.bitDue = some 1 ∧ c.fault = none ∧ c.error = none)
    ∧ (let c := { wordCmd [0] with error := some (0x02, 0x0A) }
       (engine [c] 0).1.cmd? 5 = some c ∧ c.error = some (0x02, 0x0A) ∧ c.fault = none ∧ c.squashed = false)
    ∧ (∃ bs, (engine [wordCmd [0]] 0).1.srcBytes (wordCmd [0]) ((wordCmd [0]).who demo.2.j (some 1)) demo.2.g (512 * 1) 8 = .ok bs)
    ∧ (∃ src, (engine [wordCmd [0]] 0).1.engineLocs ((wordCmd [0]).who demo.2.j) demo.2.g (wordCmd [0]).srcAt .read (512 * 1) 8 = .ok src)
    ∧ (∃ dst, (engine [wordCmd [0]] 0).1.engineLocs ((wordCmd [0]).who demo.2.j (some 1)) demo.2.g (wordCmd [0]).dstAt .write (512 * 1) 8 = .ok dst)
    ∧ (wordCmd []).wrote = [] ∧ (wordCmd []).landed = [] ∧ ({ wordCmd [] with result := some [] } : Cmd).result = some []
    ∧ unitBefore (wordCmd [0]).dstAt 512 = 0 ∧ unitFrom (wordCmd [0]).dstAt 519 520 = 1
    ∧ chunkSize tmplWord 1 = 8 ∧ tmplBitmap tmplWord ≠ 0 ∧ tmplBaren tmplWord = false ∧ tmplBitmap tmplRing = 0 ∧ tmplCword tmplWord ≠ 0
    ∧ (engine [] 0).1.translate ((wordCmd []).who demo.2.j) (tmplBitmap tmplWord + BitVec.ofNat 64 (8 * (1 / 64))) .write
        = .ok { pa := 0x6008, key := none } ∧ PlainBytes (engine [] 0).1 { pa := 0x6008, key := none } 8
    ∧ (engine [] 0).1.translate ((wordCmd []).who demo.2.j) (tmplCword tmplWord) .write = .ok { pa := 0x6000, key := none }
    ∧ tmplReleases tmplWord = false ∧ regionOf 0x6000 = .device
    ∧ (engine [ringCmd true] 0).1.cmd? 4 = some (ringCmd true) ∧ (ringCmd true).allLanded = true ∧ (ringCmd true).tailDone = false
    ∧ demo.2.g.stashAddr (tmplSrcPtr tmplRing + 4) = none ∧ demo.2.g.stashAddr (tmplDstPtr tmplRing) = none := by
  refine ⟨by decide, ⟨by decide, rfl, rfl, by decide, by decide, by decide, ok_of (by decide), ok_of (by decide)⟩, rfl,
    ⟨by decide, rfl, ⟨_, _, rfl⟩⟩, rfl, ⟨by decide, by decide⟩, ?_, ⟨rfl, rfl, rfl, rfl⟩, ⟨rfl, rfl, rfl, rfl⟩, ok_of (by decide +kernel),
    ok_of (by decide +kernel), ok_of (by decide +kernel), rfl, rfl, rfl, by decide, by decide, by decide, by decide, by decide, by decide, by decide, is_of (by decide +kernel),
    by unfold PlainBytes; decide, is_of (by decide +kernel), by decide, rfl, rfl, by decide, rfl, by decide, by decide⟩
  intro ls h
  simp only [List.mem_cons, List.not_mem_nil, or_false] at h
  rcases h with rfl | rfl <;> exact ⟨rfl, by decide, by decide, rfl, rfl, rfl, rfl, rfl, rfl⟩
/-- The TLBI of the kit; a fired command with a byte read and a page fault open. -/
def tlbiOf : TlbiWait := { id := 9, kind := 2, operand := 0, caller := placedRef, since := 1 }
def halfCmd : Cmd := { wordCmd [] with fault := some 3, seen := [((false, 0x8000), 7)] }
theorem witness_EngineAndPoolEvents :
    -- a collective of two ranks
    (engine [sumCmd] 0).1.cmd? 6 = some sumCmd ∧ sumCmd.waitsOn (engine [sumCmd] 0).2.j.ref.part (tmplGroup tmplSum) = true
    ∧ (engine [sumCmd] 0).1.group? (engine [sumCmd] 0).2.j.ref.part (tmplGroup tmplSum) = some groupOf ∧ groupOf.complete = true
    ∧ (engine [] 0).1.groupBroken groupOf = false
    ∧ sumCmd.fired = true ∧ sumCmd.fault = none ∧ sumCmd.squashed = false ∧ 1 ≠ sumCmd.nth
    ∧ (engine [sumCmd] 0).1.srcBytes sumCmd (sumCmd.who demo.2.j) demo.2.g 0 (tmplBytes tmplSum) = .ok [0, 0, 0, 0]
    ∧ (∃ ranks, (List.range groupOf.n).mapM (fun r =>
          if r = groupOf.rank then some [0, 0, 0, 0] else (([(1, [2, 0, 0, 0])] : List (Nat × List Byte)).find? (fun y => y.1 == r)).map (fun y => y.2)) = some ranks
        ∧ ∀ bs ∈ ranks, bs.length = tmplBytes tmplSum)
    -- timers, pools, a TLBI and a group at their boundaries
    ∧ (∀ n ∈ [63, 64], ∃ w e, (engine [] n).1.wave? placedRef.wave = some w ∧ w.evslots[(15#4).toNat]? = some e ∧ e.armed = true ∧ e.kind = 6
        ∧ e.start + max 64 (e.arg.extractLsb' 0 32).toNat = 64 ∧ (engine [] n).1.cycle = n)
    ∧ (∀ f ∈ (engine [] 64).1.frags, f.awaits = none)
    ∧ (engine [] 0).1.pool? (5#6).toNat = some (poolOf []) ∧ (poolOf []).shards.find? (fun x => x.die == (0#2).toNat) = some (shardOf [])
    ∧ (poolOf []).total = 0 ∧ (poolOf [elem7]).total ≠ 0 ∧ (poolOf []).live = true
    ∧ (∃ w e, (engine [] 0).1.wave? placedRef.wave = some w ∧ w.evslots[14]? = some e ∧ e.agreeDue (poolOf []) = true)
    ∧ (poolOf []).lastCensus = none ∧ 63 < 0 + (poolOf []).psumm ∧ 0 + (poolOf []).psumm ≤ 64
    ∧ (slotted (.waiting (.tlbi 9)) 0).1.frag? placedRef = some (slotted (.waiting (.tlbi 9)) 0).2.f
    ∧ (slotted (.waiting (.tlbi 9)) 0).2.f.slot = .waiting (.tlbi 9)
    ∧ (∀ n ∈ [16384, 16385], ∃ x p, (engine [] n).1.tlbis.find? (fun y => y.id == 9) = some x ∧ (engine [] n).1.tlbiParts x = [0]
        ∧ (engine [] n).1.part? 0 = some p ∧ x.since + p.drainlim = 16385)
    ∧ (let u := (engine [] 0).1.settleAccesses tlbiOf.coversJob tlbiOf.touches
       (engine [] 0).1.tlbis.find? (fun y => y.id == 9) = some tlbiOf ∧ u.startedLeft tlbiOf.coversJob tlbiOf.touches = false)
    ∧ (let u := (engine [halfCmd] 0).1.settleAccesses tlbiOf.coversJob tlbiOf.touches
       (engine [halfCmd] 0).1.tlbis.find? (fun y => y.id == 9) = some tlbiOf ∧ u.startedLeft tlbiOf.coversJob tlbiOf.touches = true)
    ∧ (engine [] 0).1.group? (0#4).toNat (2#8).toNat = some groupOf ∧ (1#10).toNat < groupOf.n ∧ (1#10).toNat ≠ groupOf.rank := by
  refine ⟨rfl, by decide, rfl, by decide, by decide, rfl, rfl, rfl, by decide, is_of (by decide +kernel), ⟨_, rfl, by decide⟩, ?_, by decide, rfl, rfl,
    by decide, by decide, rfl, ⟨_, _, rfl, rfl, by decide⟩, rfl, by decide, by decide, rfl, rfl, ?_, ⟨rfl, by decide⟩,
    ⟨rfl, by decide⟩, rfl, by decide, by decide⟩
  · intro n h
    simp only [List.mem_cons, List.not_mem_nil, or_false] at h
    rcases h with rfl | rfl <;> exact ⟨_, _, rfl, rfl, rfl, rfl, by decide, rfl⟩
  · intro n h
    simp only [List.mem_cons, List.not_mem_nil, or_false] at h
    rcases h with rfl | rfl <;> exact ⟨_, _, rfl, by decide, rfl, by decide⟩

/-- A frame of EtherType 0x88B5 and its entry's TAG there; a UDP frame with an empty payload to port 9. -/
def plainFrame : List Byte := List.replicate 12 0 ++ [0x88, 0xB5]
def udpFrame : List Byte := List.replicate 12 0 ++ [0x08, 0x00, 0x45] ++ List.replicate 8 0 ++ [17] ++ List.replicate 10 0 ++ [0, 0, 0, 9, 0, 8, 0, 0]
/-- A steering entry's match fields for each frame, its action and fallback; binding 255, armed or not, its buffer of 16 bytes at
0x7000 of partition 0. -/
def entryFor (udp : Bool) (action fallback target : Nat) : BitVec 128 :=
  ((if udp then 0x0800#128 else 0x88B5) <<< 112) ||| ((if udp then 17#128 else 0) <<< 104) ||| (BitVec.ofNat 128 target <<< 24)
    ||| (BitVec.ofNat 128 fallback <<< 3) ||| (BitVec.ofNat 128 action <<< 1) ||| 1
def steered (e : BitVec 128) (armed : Bool) : State :=
  { demo.1 with steering := [(4095, e)]
                bindings := [(255, (0x7000#512 <<< 384) ||| (16#512 <<< 288) ||| (if armed then 1 else 2))] }
def aDie (failed : BitVec 16) (lost : Bool) : State := demo.1.modDie 0 (fun d => { d with failed := failed, lost := lost })
/-- A context whose scrub of one page has its unit `done` of 9 ahead. -/
def scrubbed (tearing : Bool) (done : Nat) : State :=
  { demo.1 with contexts := [{ num := 4, part := 0, clusters := 1, keys := 0, measure := 0, pages := [0x10000], tearing := tearing, state := 1, total := 9
                               done := done }] }
def udpFrame1 : List Byte := List.replicate 12 0 ++ [0x08, 0x00, 0x45] ++ List.replicate 8 0 ++ [17] ++ List.replicate 10 0 ++ [0, 0, 0, 9, 0, 9, 0, 0, 0]
theorem witness_NetworkAndModuleEvents :
    State.reset.steer plainFrame = none
    ∧ (∀ a ∈ [0, 1], (steered (entryFor false a 0 0) false).steer plainFrame = some (4095, entryFor false a 0 0)
        ∧ stAction (entryFor false a 0 0) = a)
    ∧ (∀ fb ∈ [0, 1, 2], (steered (entryFor true 2 fb 255) false).steer udpFrame = some (4095, entryFor true 2 fb 255)
        ∧ stAction (entryFor true 2 fb 255) = 2 ∧ udpOf udpFrame = some (9, []) ∧ stFallback (entryFor true 2 fb 255) = fb
        ∧ ((steered (entryFor true 2 fb 255) false).bindings.get (stTarget (entryFor true 2 fb 255) % 256)).getLsbD 0 = false)
    ∧ ((steered (entryFor true 2 0 255) true).bindings.get (stTarget (entryFor true 2 0 255) % 256)).getLsbD 0 = true
    ∧ (steered (entryFor true 2 2 255) true).steer udpFrame1 = some (4095, entryFor true 2 2 255) ∧ udpOf udpFrame1 = some (9, [0])
    ∧ bindBufSize ((steered (entryFor true 2 2 255) true).bindings.get 255) < 16 + ([0] : List Byte).length
    ∧ (∀ y ∈ (steered (entryFor true 2 0 255) true).armedRecs, y.1 = 255 → y.2.spent = false)
    ∧ 16 + ([] : List Byte).length ≤ bindBufSize ((steered (entryFor true 2 0 255) true).bindings.get 255)
    ∧ ((steered (entryFor true 2 0 255) true).ipaPlaces 0 .write ((List.range 16).map (fun k => 0x7000 + k))).isSome = true
    ∧ ringEnabled (State.reset.rings.get 255) = false
    -- remote and control-core accesses
    ∧ (∀ i, i < 2 → regionOf ((0x07FFFFFFFFE#44).toNat + i) = .device)
    ∧ demo.1.stage2 (0#4).toNat (0x6008#64).toNat = .ok (0x6008, 0x0D) ∧ regionOf 0x6008 = .device ∧ (0x0D#64).getLsbD 2 = true
    ∧ demo.1.emptyKey (leafKey 0x0D) = false ∧ (∀ x ∈ demo.1.parts, x.id = (0#4).toNat → x.resetting = false)
    ∧ (∀ i, i < 8 → regionOf ((0x24000000000#44).toNat + i) = .host) ∧ (0x24000000000#44).toNat % 8 = 0 ∧ (31#5) ≠ 0
    ∧ demo.1.hartPeeks = [] ∧ demo.1.remote = []
    ∧ (∀ k ∈ [0#2, 3#2], PlainBytes demo.1 { pa := (0x6008#44).toNat, key := none } (2 ^ k.toNat) ∧ (0x6008#44).toNat % 2 ^ k.toNat = 0)
    ∧ 2 ≤ (3#2).toNat ∧ ((31#5).toNat, (0x6008#44).toNat / 128) ∉ demo.1.reservations
    ∧ ((31#5).toNat, (0x6008#44).toNat / 128) ∈ ({ demo.1 with reservations := [(31, 192)] } : State).reservations
    -- dies, ports and scrubs
    ∧ (∀ b, ∃ x, (aDie 0x7FFF b).die? (0#2).toNat = some x ∧ x.lost = b ∧ x.failed.getLsbD (15#4).toNat = false
        ∧ x.failed.getLsbD (14#4).toNat = true)
    ∧ (∃ x, (aDie 0x3FFF false).die? (0#2).toNat = some x ∧ x.failed.getLsbD (15#4).toNat = false ∧ x.failed.getLsbD (14#4).toNat = false)
    ∧ (∃ j, (aDie 0 false).job? demo.2.j.ref = some j ∧ (aDie 0 false).holds demo.2.j.ref (0#2).toNat = true)
    ∧ (∀ st ∈ [JobState.running, .aborting], ∃ x j, (reporting st [1, 2, 3]).die? (0#2).toNat = some x ∧ x.lost = false
        ∧ (reporting st [1, 2, 3]).job? demo.2.j.ref = some j ∧ (reporting st [1, 2, 3]).holds demo.2.j.ref (0#2).toNat = false
        ∧ j.state = st ∧ (reporting st [1, 2, 3]).hasWaiting j = false ∧ j.reported ≠ [] ∧ ∀ e ∈ (reporting st [1, 2, 3]).dies, e.lost = false → e.id = (0#2).toNat ∨ e.id ∈ j.reported)
    ∧ (∃ e ∈ demo.1.dies, e.lost = false ∧ e.id ≠ (0#2).toNat)
    ∧ (let s : State := { demo.1 with dies := demo.1.dies.map (fun x => { x with lost := x.id != 0 }) }
       (∀ e ∈ s.dies, e.lost = false → e.id = (0#2).toNat) ∧ s.holds demo.2.j.ref (0#2).toNat = true ∧ ∃ x, s.die? 0 = some x ∧ x.lost = false)
    ∧ 24 ≤ (24#5).toNat ∧ (23#5).toNat < 24 ∧ ((1023#10).toNat, (23#5).toNat) ∉ demo.1.planes
    ∧ ((1023#10).toNat, (23#5).toNat) ∈ ({ demo.1 with planes := [(1023, 23)] } : State).planes
    ∧ (∃ x, (scrubbed false 9).contexts.find? (fun y => y.num == 4) = some x ∧ x.tearing = false)
    ∧ (∀ n ∈ [7, 8], ∃ x, (scrubbed true n).contexts.find? (fun y => y.num == 4) = some x ∧ x.tearing = true
        ∧ (x.done + 1 < x.total ↔ n = 7) ∧ (8 * (clusterList x.clusters).length ≤ x.done ↔ n = 8)
        ∧ (n = 8 → x.pages[x.done - 8 * (clusterList x.clusters).length]? = some 0x10000))
    -- firmware: either marker is the current choice; a module without power
    ∧ Firmware.reset.current = some false
    ∧ ({ Firmware.reset with mark1 := { slot := true, seq := 1, valid := true } } : Firmware).current = some true
    ∧ (let s : State := { State.reset with firmware := { Firmware.reset with powered := false }, agenda := [.event .moduleReset, .event .powerLoss] }
       s.firmware.powered = false ∧ s.agenda = .event .moduleReset :: [.event .powerLoss])
    ∧ Instr.powerLoss ≠ .moduleReset := by
  refine ⟨by decide, ?_, ?_, by decide, by decide, by decide, by decide, by decide, by decide, by decide +kernel, by decide, by decide,
    demo_low.stage2 _ (by decide), by decide, by decide, by decide, by decide, by decide, by decide, by decide, rfl, rfl, ?_, by decide, by decide, by decide, ?_, ⟨_, rfl, by decide,
    by decide⟩, ⟨_, rfl, by decide⟩, ?_, by decide, ⟨by decide, by decide, _, rfl, rfl⟩, by decide, by decide, by decide, by decide, ⟨_, rfl, rfl⟩, ?_, by decide, by decide, ⟨rfl, rfl⟩, by decide⟩
  · intro a h
    simp only [List.mem_cons, List.not_mem_nil, or_false] at h
    rcases h with rfl | rfl <;> decide
  · intro a h
    simp only [List.mem_cons, List.not_mem_nil, or_false] at h
    rcases h with rfl | rfl | rfl <;> decide
  · intro k h
    simp only [List.mem_cons, List.not_mem_nil, or_false] at h
    rcases h with rfl | rfl <;> exact ⟨by unfold PlainBytes; decide, by decide⟩
  · intro b; cases b <;> exact ⟨_, rfl, rfl, by decide, by decide⟩
  · intro st h
    simp only [List.mem_cons, List.not_mem_nil, or_false] at h
    rcases h with rfl | rfl <;> exact ⟨_, _, rfl, rfl, rfl, by decide, rfl, by decide, by decide, by decide⟩
  · intro n h
    simp only [List.mem_cons, List.not_mem_nil, or_false] at h
    rcases h with rfl | rfl <;> exact ⟨_, rfl, rfl, by decide, by decide, by decide⟩
/-- Tables for one address each at 0xA000 up: entries 0 to 6 absent, malformed, a leaf too high, a table, and a leaf of 2 MiB. -/
def tabled (e : Nat) : State × Cur :=
  kit id id id id (fun s => { s with mem := (s.mem.setBytes 0xA000 8 e)
                                     peerWins := [{ num := 255, enabled := false, module := 0, part := 0, base := 0 }] })
theorem tabled_stage2 (e : Nat) (h : e ∈ [0, 0x21, 0x1, 0xB003, 0x20000D]) : (tabled e).1.stage2 0 0xA000 = .ok (0xA000, 0x0D) := by
  simp only [List.mem_cons, List.not_mem_nil, or_false] at h
  rcases h with rfl | rfl | rfl | rfl | rfl <;> exact is_of (by decide +kernel)
def cachedAt (leaf : BitVec 64) : TlbEntry := { job := { part := 0, id := 0 }, page := 0, ipage := 0, ppage := 0, leaf1 := 0x0D, leaf2 := leaf }
def ownWin (b : Bool) : PeerWin := { num := 255, enabled := b, module := Config.thisModule, part := 0, base := 0 }
theorem ownWin_dead (b : Bool) : ({ demo.1 with peerWins := [ownWin b] } : State).windowDead (ownWin b) = !b := by
  have h : ({ demo.1 with peerWins := [ownWin b] } : State).parts.any (fun p => p.id == (ownWin b).part.toNat && p.resetting) = false := by
    show demo.1.parts.any (fun p => p.id == 0 && p.resetting) = false
    decide
  have hm : ((ownWin b).module == Config.thisModule) = true := beq_self_eq_true _
  simp only [State.windowDead, h, hm, if_true, Bool.or_false]
  cases b <;> rfl
theorem witness_TranslationRule : (0x0200000000000000 : Word64).extractLsb' 57 7 ≠ 0
    -- the save window, another address, with nothing cached
    ∧ (let s := demo.1.modPart 0 (fun p => { p with savewin := 0x40000001 })
       s.inSaveWindow (demo.1.who demo.2 true).job.part (0x40000000 : Word64).toNat = true
         ∧ s.inSaveWindow (demo.1.who demo.2 true).job.part (0x40004800 : Word64).toNat = false ∧ (demo.1.who demo.2 true).own = none)
    ∧ (demo.1.who demo.2 true).walked = []
    ∧ demo.1.inSaveWindow (demo.1.who demo.2 true).job.part (0x6000 : Word64).toNat = false ∧ demo.1.tlb = []
    ∧ (∃ e, demo.1.walk1 0 0x80000000 [0, 1, 2, 3, 4] ((demo.1.who demo.2 true).s1root % 2 ^ 44) = .error e)
    ∧ demo.1.walk1 0 0x6000 [0, 1, 2, 3, 4] ((demo.1.who demo.2 true).s1root % 2 ^ 44) = .ok (0x6000, 0x0D)
    ∧ leafAllows 0x01 .write = false ∧ leafAllows 0x0D .write = true ∧ (0x1D#64).getLsbD 4 = true ∧ (demo.1.who demo.2 true).kernel = false
    ∧ (service.1.who service.2 true).kernel = true ∧ demo.1.stage2 0 0x6000 = .ok (0x6000, 0x0D)
    ∧ (∃ e, demo.1.stage2 0 0x80000000 = .error e)
    -- an entry at each level's last index, one at a time
    ∧ (∀ l ∈ [0, 4], 0xA000 + 8 * (0 / 2 ^ ([48, 39, 30, 21, 16].getD l 0) % (if l = 4 then 32 else 512)) = 0xA000)
    ∧ (∀ e ∈ [0, 0x21, 0x1, 0xB003, 0x20000D], (tabled e).1.stage2 0 0xA000 = .ok (0xA000, 0x0D)
        ∧ BitVec.ofNat 64 (Sparse.bytesNat (tabled e).1.mem 0xA000 8) = BitVec.ofNat 64 e)
    ∧ regionOf 0xA000 = .device ∧ regionOf 0x10000000000 = .device ∧ regionOf 0x0FFFFFFFFFF = .unbacked ∧ (∃ p, demo.1.part? 15 = some p)
    -- a table in a page under an empty key slot; the entry itself under no key; a cached translation, one that refuses a write
    ∧ demo.1.emptyKey (leafKey 0xFE0000000000000D) = true ∧ demo.1.emptyKey (leafKey 0x0D) = false
    ∧ PlainBytes demo.1 { pa := 0xA000, key := leafKey 0x0D } 8
    ∧ (∀ leaf ∈ [0x09#64, 0x0D#64], ∃ e ∈ ({ demo.1 with tlb := [cachedAt leaf] } : State).tlb, e.job = (demo.1.who demo.2 true).job
        ∧ e.page = (0x6000 : Word64).toNat / 65536 ∧ leafAllows e.leaf1 .write = true ∧ leafAllows e.leaf2 .write = (leaf == 0x0D#64))
    -- a peer window onto this module, one that is reached and one that is not
    ∧ (∀ b, ∃ x, ({ demo.1 with peerWins := [ownWin b] } : State).peerWins.find? (fun y => y.num == 255) = some x
        ∧ ({ demo.1 with peerWins := [ownWin b] } : State).windowDead x = !b ∧ x.module = Config.thisModule)
    -- the places that a leaf may name
    ∧ (∃ o, regionOf 0x2F003FFFFFF = .queues 3 o) ∧ (∃ o, regionOf 0x2F800023FFF = .tables o) ∧ (∃ o, regionOf 0x23FFFFFFFFF = .peer 255 o)
    ∧ (∀ x, (tabled 0).1.peerWins.find? (fun y => y.num == 255) = some x → x.enabled = false)
    ∧ (0x0D#64).getLsbD 57 = false ∧ (0xFE0000000000000D#64).getLsbD 57 = true
    ∧ demo.1.keySlots.get ((0xFE0000000000000D#64).extractLsb' 58 6).toNat = 0
    ∧ Sparse.get (Sparse.set ([] : Sparse 512) 63 1) ((0xFE0000000000000D#64).extractLsb' 58 6).toNat ≠ 0 := by
  refine ⟨by decide, ⟨by decide, by decide, rfl⟩, rfl, by decide, rfl, err_of (by decide +kernel), is_of (by decide +kernel), by decide, by decide,
    by decide, rfl, rfl, is_of (by decide +kernel), err_of (by decide +kernel), by decide, ?_, by decide, by decide, by decide, ⟨_, rfl⟩,
    by decide, by decide, by unfold PlainBytes; decide, ?_, fun b => ⟨_, rfl, ownWin_dead b, rfl⟩, ⟨_, rfl⟩,
    ⟨_, rfl⟩, ⟨_, rfl⟩, ?_, by decide, by decide, by decide, by decide⟩
  · intro e h
    refine ⟨tabled_stage2 e h, ?_⟩
    simp only [List.mem_cons, List.not_mem_nil, or_false] at h
    rcases h with rfl | rfl | rfl | rfl | rfl <;> decide
  · intro leaf h
    refine ⟨cachedAt leaf, List.mem_singleton.mpr rfl, rfl, rfl, ?_⟩
    simp only [List.mem_cons, List.not_mem_nil, or_false] at h
    rcases h with rfl | rfl <;> decide
  · intro x h
    have : some x = some _ := h.symm.trans rfl
    cases this
    rfl
end Sys2Proof.Tests
end

section
/-! The state after reset, partition by partition (R238). -/

namespace Sys2Proof.Machine

open Sys2Proof

theorem State.reset_part? (p : Nat) (hp : p < 16) : State.reset.part? p = some (Part.reset p) := by
  have hf : (List.range 16).find? ((fun x => x.id == p) ∘ Part.reset) = some p := by
    rw [List.find?_range_eq_some]
    exact ⟨beq_self_eq_true p, List.mem_range.mpr hp, fun j hj => by simpa [Part.reset] using Nat.ne_of_lt hj⟩
  show ((List.range 16).map Part.reset).find? (fun x => x.id == p) = some (Part.reset p)
  rw [List.find?_map, hf, Option.map_some]

end Sys2Proof.Machine

open Sys2Proof Sys2Proof.Machine

/-- Settles O9: partition `p` is found at its reset values. -/
theorem resetValues : Obligations.ResetValues :=
  ⟨fun p hp => ⟨Part.reset p, State.reset_part? p hp, rfl, rfl, rfl, rfl, rfl, rfl, rfl, rfl, rfl, rfl, rfl, rfl, rfl⟩,
    rfl, rfl, ⟨rfl, rfl, rfl⟩, rfl, rfl, rfl⟩

end

section
/-! Every step keeps the three memories canonical (log 3): one lemma per operation of the model, in the model's order. Each says
that the operation keeps the canonical form; only the few that write memory cite the laws of `Sparse`. -/

namespace Sys2Proof.Machine

open Sys2Proof

-- The proofs are elaborated one by one: side by side, hundreds that split the same matches wait for one another, each in a
-- thread of its own.
set_option Elab.async false

variable {s : State}

/-! ## How the form carries over -/

/-- The state that an answer goes on to, where there is one, has its memories in canonical form. -/
def Out.memWf (o : Out) : Prop := ∀ t, o = .next t → t.memWf

theorem State.memWf.next (hs : s.memWf) : Out.memWf (.next s) := by
  intro t ht
  cases ht
  exact hs
theorem Out.memWf_fault (r : Fault) : Out.memWf (.fault r) := fun _ h => by cases h
theorem Out.memWf_refused (r : Refusal) : Out.memWf (.refused r) := fun _ h => by cases h

/-- A change of other fields keeps the form. -/
theorem State.memWf.same {t : State} (hs : s.memWf) (hm : t.mem = s.mem := by exact rfl)
    (hh : t.hostMem = s.hostMem := by exact rfl) (hp : t.peerMem = s.peerMem := by exact rfl) : t.memWf := by
  unfold State.memWf
  rw [hm, hh, hp]
  exact hs

theorem State.memWf.ite {c : Prop} [Decidable c] {t : State} (hs : s.memWf) (ht : t.memWf) : (if c then s else t).memWf := by
  split
  · exact hs
  · exact ht

theorem State.memWf.foldl {α : Type} (hs : s.memWf) {f : State → α → State} (l : List α)
    (hf : ∀ t a, t.memWf → (f t a).memWf) : (l.foldl f s).memWf :=
  List.foldlRecOn l f hs (fun t ht a _ => hf t a ht)

theorem State.memWf.of_fst {α : Type} {p : State × α} {t : State} {a : α} (h : p.1.memWf) (he : p = (t, a)) : t.memWf := by
  rw [he] at h
  exact h

theorem State.memWf.of_snd {α : Type} {p : α × State} {t : State} {a : α} (h : p.2.memWf) (he : p = (a, t)) : t.memWf := by
  rw [he] at h
  exact h


/-! ## Access -/

theorem State.memWf.setFrag (hs : s.memWf) (x : Frag) : (s.setFrag x).memWf := hs.same

theorem State.memWf.setWave (hs : s.memWf) (x : Wave) : (s.setWave x).memWf := hs.same

theorem State.memWf.setCmd (hs : s.memWf) (x : Cmd) : (s.setCmd x).memWf := hs.same

theorem State.memWf.setPool (hs : s.memWf) (x : Pool) : (s.setPool x).memWf := hs.same

theorem State.memWf.modFrag (hs : s.memWf) (r : FragRef) (h : Frag → Frag) : (s.modFrag r h).memWf := hs.same

theorem State.memWf.modWave (hs : s.memWf) (r : WaveRef) (h : Wave → Wave) : (s.modWave r h).memWf := hs.same

theorem State.memWf.modWg (hs : s.memWf) (r : WgRef) (h : Wg → Wg) : (s.modWg r h).memWf := hs.same

theorem State.memWf.modJob (hs : s.memWf) (r : JobRef) (h : Job → Job) : (s.modJob r h).memWf := hs.same

theorem State.memWf.modDie (hs : s.memWf) (d : Nat) (h : Die → Die) : (s.modDie d h).memWf := hs.same

theorem State.memWf.modPart (hs : s.memWf) (p : Nat) (h : Part → Part) : (s.modPart p h).memWf := hs.same

theorem State.memWf.modPool (hs : s.memWf) (n : Nat) (h : Pool → Pool) : (s.modPool n h).memWf := hs.same

theorem State.memWf.nextSerial (hs : s.memWf) : s.nextSerial.2.memWf := hs.same

/-! ## Memory -/

theorem State.memWf.rekeyLine (hs : s.memWf) (line : Nat) (tag : BitVec 512) : (s.rekeyLine line tag).memWf := by
  unfold State.rekeyLine
  split
  · exact hs
  · obtain ⟨hm, hh, hp⟩ := hs
    exact ⟨Memory.wf_setList _ _ _ hm, hh, hp⟩

theorem State.memWf.storeDevice (hs : s.memWf) (p : Phys) (n v : Nat) : (s.storeDevice p n v).memWf := by
  obtain ⟨hm, hh, hp⟩ := hs.rekeyLine (p.pa / 128) (s.keyTag p.key)
  exact ⟨Memory.wf_setBytes _ _ _ _ hm, hh, hp⟩

theorem State.memWf.touchLine (hs : s.memWf) (p : Phys) : (s.touchLine p).memWf := hs.same

theorem State.memWf.touchLoc (hs : s.memWf) (l : Loc) : (s.touchLoc l).memWf := by
  unfold State.touchLoc
  split
  · exact hs.touchLine _
  · exact hs

theorem State.memWf.storePlain (hs : s.memWf) (g : WgRef) (l : Loc) (n v : Nat) : (s.storePlain g l n v).memWf := by
  unfold State.storePlain
  split
  · exact hs.modWg _ _
  · have ⟨hm, hh, hp⟩ := hs
    split
    · exact hs.storeDevice _ _ _
    · split
      · exact ⟨hm, hh, Memory.wf_setBytes _ _ _ _ hp⟩
      · exact hs
    · exact ⟨hm, Memory.wf_setBytes _ _ _ _ hh, hp⟩
    · exact hs

theorem State.memWf.land (hs : s.memWf) (h : Held) : (s.land h).memWf := hs.storePlain _ _ _ _

theorem State.memWf.landIf (hs : s.memWf) (test : Held → Bool) : (s.landIf test).memWf :=
  hs.same.foldl _ (fun _ _ ht => ht.land _)

theorem State.memWf.landGroup (hs : s.memWf) (g : WgRef) : (s.landGroup g).memWf := hs.landIf _

theorem State.memWf.landOwn (hs : s.memWf) (r : FragRef) : (s.landOwn r).memWf := hs.landIf _

theorem State.memWf.landCmd (hs : s.memWf) (i : Nat) : (s.landCmd i).memWf := hs.landIf _

theorem State.memWf.landAt (hs : s.memWf) (l : Loc) : (s.landAt l).memWf := by
  unfold State.landAt
  split
  · exact hs
  · split
    · exact hs
    · exact hs.landIf _

theorem State.memWf.sendLate (hs : s.memWf) (x : Writer) (l : Loc) (n v : Nat) (or : Bool) :
    (s.sendLate x l n v or).memWf := by
  unfold State.sendLate
  split
  · exact hs
  · exact hs.same

theorem State.memWf.arrive (hs : s.memWf) (k : Nat) : (s.arrive k).memWf := by
  unfold State.arrive
  split
  · exact hs
  · dsimp only
    split
    · exact hs
    · exact hs.landIf _

theorem State.memWf.settleRemote (hs : s.memWf) : s.settleRemote.memWf := hs.landIf _

/-! ## Shared operations -/

theorem State.memWf.postSvc (hs : s.memWf) (d : Nat) (r : SqRec) : (s.postSvc d r).memWf := hs.modDie _ _

theorem State.memWf.withdrawTraps (hs : s.memWf) (g : WgRef) : (s.withdrawTraps g).memWf := hs.same

theorem State.memWf.raise (hs : s.memWf) (r : FragRef) (t0 : TrapCtx) : (s.raise r t0).memWf := by
  unfold State.raise
  split
  · exact hs
  · split
    · exact hs.modWg _ _
    · split
      · exact hs.setFrag _
      · dsimp only
        split
        · exact hs.same
        · exact (hs.setFrag _).postSvc _ _

theorem State.memWf.trapScalar (hs : s.memWf) (c : Cur) (fault sub : BitVec 8) (faddr : Word64) :
    (s.trapScalar c fault sub faddr).memWf :=
  hs.raise _ _

theorem State.memWf.trapLane (hs : s.memWf) (c : Cur) (lanes : Word64) (fault sub : BitVec 8) (faddr : Word64) :
    (s.trapLane c lanes fault sub faddr).memWf :=
  hs.raise _ _

theorem State.memWf.exitOverrun (hs : s.memWf) (c : Cur) : (s.exitOverrun c).memWf := hs.modWg _ _

theorem State.memWf.pageWait (hs : s.memWf) (c : Cur) (p : PageFault) (va : Word64) (u : Use) (lane : Bool) (t : TrapCtx) :
    (s.pageWait c p va u lane t).memWf := by
  unfold State.pageWait
  split
  · exact hs.exitOverrun _
  · split
    · exact hs.raise _ _
    · exact (hs.same.setFrag _).modDie _ _

theorem State.memWf.pageScalar (hs : s.memWf) (c : Cur) (p : PageFault) (va : Word64) (u : Use) :
    (s.pageScalar c p va u).memWf :=
  hs.pageWait _ _ _ _ _ _

theorem State.memWf.pageLane (hs : s.memWf) (c : Cur) (lanes : Word64) (p : PageFault) (va : Word64) (u : Use) :
    (s.pageLane c lanes p va u).memWf :=
  hs.pageWait _ _ _ _ _ _

theorem State.memWf.storeWait (hs : s.memWf) (c : Cur) : (s.storeWait c).memWf := by
  unfold State.storeWait
  split
  · exact (hs.setFrag _).raise _ _
  · split
    · exact hs.setFrag _
    · exact hs

theorem State.memWf.afterStores (hs : s.memWf) (c : Cur) {k : State} (hs' : k.memWf) : (s.afterStores c k).memWf := by
  unfold State.afterStores
  split
  · exact hs.storeWait _
  · split
    · exact hs
    · exact hs'

theorem State.memWf.repMisuse (hs : s.memWf) (c : Cur) : (s.repMisuse c).memWf := (hs.setFrag _).trapScalar _ _ _ _

theorem State.memWf.scalarRun (hs : s.memWf) (q : Scalar) {eff : Cur → State} (heff : ∀ a, (eff a).memWf) :
    Out.memWf (scalarRun s q eff) := by
  intro t h
  obtain ⟨c, -, ht⟩ := scalarRun_cases s t q eff h
  rcases ht with ⟨-, -, rfl⟩ | ⟨-, -, rfl⟩ | ⟨-, rfl | rfl⟩ | ⟨flt, sub, -, rfl⟩ | ⟨-, rfl⟩
  · exact hs.repMisuse _
  · exact hs.exitOverrun _
  · exact hs.storeWait _
  · exact hs
  · exact hs.trapScalar _ _ _ _
  · exact heff _

theorem State.memWf.putS (hs : s.memWf) (c : Cur) (d : BitVec 6) (v : Word64) : (s.putS c d v).memWf := hs.setFrag _

theorem State.memWf.laneEnd (hs : s.memWf) (c : Cur) (w : Wave) (f : Frag) : (s.laneEnd c w f).memWf :=
  ((hs.setWave _).setFrag _).modWg _ _

theorem State.memWf.laneRun (hs : s.memWf) (op : BitVec 10) (f : LaneOps) (poison : Lane → Option (BitVec 8))
    {eff : State → Lane → State} (heff : ∀ a b, State.memWf a → (eff a b).memWf) (mem : Bool) :
    Out.memWf (laneRun s op f poison eff mem) := by
  intro t h
  obtain ⟨c, -, ht⟩ := laneRun_cases s t op f poison eff mem h
  have h1 := hs.setFrag c.f.laneBegin
  rcases ht with rfl | ⟨-, rfl | rfl⟩ | ⟨sub, rfl⟩ | ⟨-, rfl⟩
  · exact h1.exitOverrun _
  · exact h1.storeWait _
  · exact h1
  · exact h1.trapLane _ _ _ _ _
  · exact heff _ _ h1

theorem State.memWf.noteWake (hs : s.memWf) (j : JobRef) : (s.noteWake j).memWf := hs.modJob _ _

theorem State.memWf.wakeIf (hs : s.memWf) (j : JobRef) (test : Frag → Bool) (go : Frag → Frag) :
    (s.wakeIf j test go).memWf := by
  unfold State.wakeIf
  split
  · exact hs.same.noteWake _
  · exact hs

theorem State.memWf.park (hs : s.memWf) (c : Cur) (p : Park) : (s.park c p).memWf := hs.setFrag _

/-! ## The record log -/

theorem State.memWf.freezeAt (hs : s.memWf) (c : Cur) : (s.freezeAt c).memWf := ((hs.modWg _ _).withdrawTraps _).setFrag _

theorem State.memWf.logPast (hs : s.memWf) (c : Cur) (n : Nat) : (s.logPast c n).memWf := by
  unfold State.logPast
  split
  · exact hs
  · exact hs.modJob _ _

/-- The record log's records are written byte by byte (R257). -/
theorem wf_writeLog (c : Cur) (m : Memory) (a : Nat) (es : List Logged) (h : Memory.wf m = true) :
    Memory.wf (writeLog c m a es) = true := by
  induction es generalizing m a with
  | nil => exact h
  | cons e es ih => exact ih _ _ (Memory.wf_setBytes _ _ _ _ h)

theorem State.memWf.logWrite (hs : s.memWf) (c : Cur) (es : List Logged) : (s.logWrite c es).memWf := by
  obtain ⟨hm, hh, hp⟩ := hs
  exact ⟨wf_writeLog _ _ _ _ hm, hh, hp⟩

theorem State.memWf.logged (hs : s.memWf) (c : Cur) (es : List Logged)
    {k : State → List Word64 → State} (hk : ∀ a b, State.memWf a → (k a b).memWf) : (s.logged c es k).memWf := by
  unfold State.logged
  dsimp only
  split
  · split
    · exact hk _ _ ((hs.logPast _ _).logWrite _ _)
    · exact (hs.modJob _ _).freezeAt _
  · split
    · split
      · exact hk _ _ (hs.logPast _ _)
      · exact (hs.modJob _ _).freezeAt _
    · exact hk _ _ hs

/-! ## Waits and wakes -/

theorem State.memWf.resumeAwait (hs : s.memWf) (c : Cur) (r : BitVec 16) : (s.resumeAwait c r).memWf :=
  hs.logged _ _ (fun _ _ h0 => (h0.setWave _).setFrag _)

theorem State.memWf.wakeAwaits (hs : s.memWf) (w : WaveRef) (n : Nat) : (s.wakeAwaits w n).memWf := by
  induction n generalizing s with
  | zero => exact hs
  | succ n ih =>
    unfold State.wakeAwaits
    split
    · exact hs
    · split
      · exact hs
      · split
        · exact hs
        · exact ih ((hs.resumeAwait _ _).noteWake _)

theorem State.memWf.failAwaits (hs : s.memWf) (w : WaveRef) : (s.failAwaits w).memWf := by
  unfold State.failAwaits
  split
  · exact hs
  · exact hs.foldl _ (fun _ _ ht => by
    split
    · exact State.memWf.ite (ht.raise _ _) ht
    · exact ht)

theorem State.memWf.settle (hs : s.memWf) (w : WaveRef) : (s.settle w).memWf := (hs.failAwaits _).wakeAwaits _ _

theorem State.memWf.fireWaves (hs : s.memWf) (pick : Wave → Bool) (test : EvSlot → Bool) (info : Word64) :
    (s.fireWaves pick test info).memWf :=
  hs.same.foldl _ (fun _ _ ht => ht.settle _)

theorem State.memWf.setBarrier (hs : s.memWf) (j : JobRef) (b : Barrier) : (s.setBarrier j b).memWf := hs.modJob _ _

theorem State.memWf.clearArrivals (hs : s.memWf) (j : JobRef) (k : BitVec 8) : (s.clearArrivals j k).memWf := hs.same

theorem State.memWf.wakeBarrier (hs : s.memWf) (j : JobRef) (k : BitVec 8) (phase : BitVec 32) :
    (s.wakeBarrier j k phase).memWf :=
  hs.wakeIf _ _ _

theorem State.memWf.checkBarrier (hs : s.memWf) (j : JobRef) (k : BitVec 8) : (s.checkBarrier j k).memWf := by
  unfold State.checkBarrier
  split
  · exact hs
  · split
    · exact (((hs.setBarrier _ _).clearArrivals _ _).wakeBarrier _ _ _).fireWaves _ _ _
    · exact hs

theorem State.memWf.breakBarrier (hs : s.memWf) (j : JobRef) (b : Barrier) : (s.breakBarrier j b).memWf :=
  (hs.setBarrier _ _).foldl _ (fun _ _ ht => State.memWf.ite (ht.raise _ _) ht)

theorem State.memWf.subtractBytes (hs : s.memWf) (j : JobRef) (k : BitVec 8) (n : Nat) : (s.subtractBytes j k n).memWf := by
  unfold State.subtractBytes
  split
  · exact hs
  · split
    · exact hs.breakBarrier _ _
    · exact (hs.setBarrier _ _).checkBarrier _ _

theorem State.memWf.leaveBarrier (hs : s.memWf) (w : WaveRef) (m : Member) : (s.leaveBarrier w m).memWf := by
  unfold State.leaveBarrier
  dsimp only
  split
  · exact hs
  · exact ((hs.modWave _ _).setBarrier _ _).checkBarrier _ _

theorem State.memWf.dropBytes (hs : s.memWf) (c : Cmd) : (s.dropBytes c).memWf := by
  unfold State.dropBytes
  split
  · exact hs.subtractBytes _ _ _
  · exact hs

theorem State.memWf.passBaton (hs : s.memWf) (g : WgRef) (i role : Nat) : (s.passBaton g i role).memWf := by
  unfold State.passBaton
  split
  · exact hs.modWg _ _
  · exact ((hs.modWg _ _).wakeIf _ _ _).fireWaves _ _ _

theorem State.memWf.refreshWave (hs : s.memWf) (r : WaveRef) : (s.refreshWave r).memWf := by
  unfold State.refreshWave
  split
  · split
    · exact (hs.setWave _).settle _
    · exact hs
  · exact hs

theorem State.memWf.refresh (hs : s.memWf) : s.refresh.memWf := hs.foldl _ (fun _ _ ht => ht.refreshWave _)

theorem State.memWf.releaseFrame (hs : s.memWf) (f : Frag) : (s.releaseFrame f).memWf := by
  unfold State.releaseFrame
  split
  · exact hs
  · exact (hs.modPart _ _).modWg _ _

theorem State.memWf.freeFrag (hs : s.memWf) (f : Frag) : (s.freeFrag f).memWf := (hs.same.releaseFrame _).modWg _ _

theorem State.memWf.countGroup (hs : s.memWf) (part group : Nat) (f : Nat → Nat) : (s.countGroup part group f).memWf :=
  hs.modPart _ _

theorem State.memWf.uncount (hs : s.memWf) (c : Cmd) : (s.uncount c).memWf := by
  unfold State.uncount
  split
  · have h1 := hs.countGroup c.wg.job.part (tmplGroup c.tmpl) (· - 1)
    exact h1.same
  · exact hs

theorem State.memWf.discardUnfired (hs : s.memWf) (g : WgRef) (sub : BitVec 8) : (s.discardUnfired g sub).memWf := by
  unfold State.discardUnfired
  exact hs.foldl _ (fun _ _ ht => by
    split
    · exact ht
    · exact ((ht.setCmd _).dropBytes _).uncount _)

theorem State.memWf.endWave (hs : s.memWf) (r : WaveRef) : (s.endWave r).memWf := by
  unfold State.endWave
  split
  · exact hs
  · next w _ =>
    extract_lets s1 holds s2 s3
    have h1 : s1.memWf := hs.setWave _
    have h2 : s2.memWf := State.memWf.ite (h1.passBaton _ _ _) h1
    have h3 : s3.memWf := h2.foldl _ (fun _ _ ht => ht.leaveBarrier _ _)
    exact State.memWf.ite (h3.discardUnfired _ _) h3

theorem State.memWf.ownCmds (hs : s.memWf) (r : FragRef) (ids : List Nat) : (s.ownCmds r ids).memWf := hs.same

theorem State.memWf.pastReconv (hs : s.memWf) (r : FragRef) : (s.pastReconv r).memWf := by
  unfold State.pastReconv
  split
  · exact hs
  · split
    · split
      · exact ((hs.setFrag _).ownCmds _ _).noteWake _
      · exact hs
    · exact hs

theorem State.memWf.inherit (hs : s.memWf) (p : FragRef) (f : Frag) (es : List JoinEntry) (x : Ended) :
    (s.inherit p f es x).memWf := by
  unfold State.inherit
  split
  · exact hs
  · exact State.memWf.ite (((hs.setFrag _).ownCmds _ _).noteWake _) ((hs.setFrag _).ownCmds _ _)

theorem State.memWf.endAt (hs : s.memWf) (f : Frag) (es : List JoinEntry) : (s.endAt f es).memWf := by
  induction es generalizing s f with
  | nil =>
    unfold State.endAt
    dsimp only
    split
    · exact (hs.freeFrag _).endWave _
    · exact hs.freeFrag _
  | cons e es ih =>
    unfold State.endAt
    split
    · exact ih hs _
    · exact hs.setFrag _
    · split
      · exact ih (hs.ownCmds _ _) _
      · exact ((hs.freeFrag _).modFrag _ _).pastReconv _
    · split
      · exact ih (hs.ownCmds _ _) _
      · have h1 := hs.freeFrag f
        exact State.memWf.inherit h1.same _ _ _ _

theorem State.memWf.endFrag (hs : s.memWf) (f : Frag) : (s.endFrag f).memWf := (hs.releaseFrame _).endAt _ _

theorem State.memWf.leaveHalfway (hs : s.memWf) (fs : List Frag) : (s.leaveHalfway fs).memWf :=
  hs.foldl _ (fun _ _ ht => State.memWf.ite (ht.modWg _ _) ht)

theorem State.memWf.killWave (hs : s.memWf) (r : WaveRef) : (s.killWave r).memWf :=
  ((hs.leaveHalfway _).foldl _ (fun _ _ ht => ht.freeFrag _)).endWave _

theorem State.memWf.inheritCmds (hs : s.memWf) (w : WaveRef) (was is : Nat) (fresh : Bool) :
    (s.inheritCmds w was is fresh).memWf :=
  hs.same

theorem State.memWf.merge (hs : s.memWf) (p d : Frag) : (s.merge p d).memWf := by
  unfold State.merge
  dsimp only
  split
  · exact (hs.same.setFrag _).noteWake _
  · exact hs.same.setFrag _

/-! ## Instruction fetch -/

theorem State.memWf.fillFetch (hs : s.memWf) (c : Cur) (lane : Bool) (block n : Nat) :
    (s.fillFetch c lane block n).memWf := by
  unfold State.fillFetch
  split
  · exact hs
  · exact hs.setWave _

/-! ## Scalar instructions -/

theorem State.memWf.aluR (hs : s.memWf) (d a b : BitVec 6) (op : Word64 → Word64 → Word64) : Out.memWf (aluR s d a b op) :=
  hs.scalarRun _ (fun _ => hs.putS _ _ _)

theorem State.memWf.aluI (hs : s.memWf) (d a : BitVec 6) (op : Word64 → Word64) : Out.memWf (aluI s d a op) :=
  hs.scalarRun _ (fun _ => hs.putS _ _ _)

theorem State.memWf.execSysrd (hs : s.memWf) (d : BitVec 6) (n : BitVec 14) : Out.memWf (execSysrd d n s) := by
  unfold Sys2Proof.Machine.execSysrd
  refine hs.scalarRun _ (fun _ => ?_)
  split
  · exact hs.logged _ _ (fun _ _ h0 => h0.putS _ _ _)
  · split
    · exact hs.logged _ _ (fun _ _ h0 => (h0.modDie _ _).putS _ _ _)
    · exact hs.putS _ _ _

/-! ## Control flow -/

theorem State.memWf.branch (hs : s.memWf) (c : Cur) {n : Nat} (off : BitVec n) : (s.branch c off).memWf := by
  unfold State.branch
  split
  · exact hs.exitOverrun _
  · exact hs.setFrag _

theorem State.memWf.branchIf (hs : s.memWf) (c : Cur) (taken : Bool) (off : BitVec 16) : (s.branchIf c taken off).memWf := by
  unfold State.branchIf
  split
  · exact hs.exitOverrun _
  · split
    · exact hs.branch _ _
    · exact hs.setFrag _

theorem State.memWf.splitMixed (hs : s.memWf) (c : Cur) (k : BitVec 6) (t n target : Word64) :
    (s.splitMixed c k t n target).memWf := by
  unfold State.splitMixed
  dsimp only
  split
  · split
    · exact hs.same
    · exact hs.setFrag _
  · exact hs.setFrag _

theorem State.memWf.execSplit (hs : s.memWf) (m : BitVec 3) (k : BitVec 6) (off : BitVec 16) :
    Out.memWf (execSplit m k off s) := by
  unfold Sys2Proof.Machine.execSplit
  refine hs.scalarRun _ (fun _ => ?_)
  dsimp only
  split
  · exact hs.setFrag _
  · split
    · exact hs.setFrag _
    · split
      · exact hs.trapScalar _ _ _ _
      · exact hs.splitMixed _ _ _ _ _

theorem State.memWf.execReconv (hs : s.memWf) (k : BitVec 6) : Out.memWf (execReconv k s) := by
  unfold Sys2Proof.Machine.execReconv
  refine hs.scalarRun _ (fun _ => ?_)
  split
  · exact hs.setFrag _
  · split
    · exact hs.setFrag _
    · split
      · exact hs.setFrag _
      · exact hs.setFrag _
      · split
        · exact (hs.setFrag _).ownCmds _ _
        · split
          · exact hs.setFrag _
          · exact State.memWf.ite (State.memWf.ite (hs.merge _ _) (hs.merge _ _)) (hs.park _ _)
      · split
        · exact (hs.setFrag _).ownCmds _ _
        · split
          · exact hs.setFrag _
          · exact State.memWf.ite (State.memWf.ite (hs.merge _ _) (hs.merge _ _)) (hs.park _ _)

theorem State.memWf.enqueue (hs : s.memWf) (c : Cur) (env : LaneEnv) (first : Bool) (f : Frag) (ws : List (BitVec 96)) :
    (s.enqueue c env first f ws).memWf := by
  induction ws generalizing first f with
  | nil => exact hs.setFrag _
  | cons w ws ih =>
    unfold State.enqueue
    split
    · split
      · exact (hs.setFrag _).raise _ _
      · exact hs.setFrag _
    · exact ih _ _

theorem State.memWf.execLissue (hs : s.memWf) (n : BitVec 5) : Out.memWf (execLissue n s) := by
  unfold Sys2Proof.Machine.execLissue
  refine hs.scalarRun _ (fun _ => ?_)
  dsimp only
  split
  · exact hs
  · split
    · exact hs.pageScalar _ _ _ _
    · exact (hs.setWave _).enqueue _ _ _ _ _

theorem State.memWf.execTret (hs : s.memWf) : Out.memWf (execTret s) := by
  unfold Sys2Proof.Machine.execTret
  refine hs.scalarRun _ (fun _ => ?_)
  split
  · exact hs.trapScalar _ _ _ _
  · split
    · exact hs.trapScalar _ _ _ _
    · exact hs.setFrag _

/-! ## Lane operands -/

theorem State.memWf.endMask (hs : s.memWf) (x : Lane) (f : Frag) (code : BitVec 8) (bits : Word64) :
    (s.endMask x f code bits).memWf := by
  unfold State.endMask
  split
  · exact hs.laneEnd _ _ _
  · exact hs.laneEnd _ _ _

theorem State.memWf.laneMap (hs : s.memWf) (op : BitVec 10) (f : LaneOps) (n : Nat) (h : Word64 → Word64 → Word64 → Word64) :
    Out.memWf (laneMap s op f n h) :=
  hs.laneRun _ _ _ (fun _ _ h0 => h0.laneEnd _ _ _) _

theorem State.memWf.laneMapF (hs : s.memWf) (op : BitVec 10) (f : LaneOps) (n : Nat)
    (h : BitVec 3 → Word64 → Word64 → Word64 → Word64 × BitVec 7) : Out.memWf (laneMapF s op f n h) :=
  hs.laneRun _ _ _ (fun _ _ h0 => h0.laneEnd _ _ _) _

/-! ## Integer lane instructions -/

theorem State.memWf.laneExact (hs : s.memWf) (op : BitVec 10) (f : LaneOps) (n : Nat) (h : Int → Int → Int → Int) :
    Out.memWf (laneExact s op f n h) :=
  hs.laneMap _ _ _ _

theorem State.memWf.maskOp (hs : s.memWf) (op : BitVec 10) (f : LaneOps) (two : Bool) (h : Word64 → Word64 → Word64) :
    Out.memWf (maskOp s op f two h) :=
  hs.laneRun _ _ _ (fun _ _ h0 => h0.endMask _ _ _ _) _

/-! ## Float lane instructions -/

theorem State.memWf.laneFloat (hs : s.memWf) (op : BitVec 10) (f : LaneOps) (n : Nat)
    (h : RM → Bool → Fmt → Nat → Nat → Nat → Coded) : Out.memWf (laneFloat s op f n h) :=
  hs.laneMapF _ _ _ _

/-! ## Conversions -/

theorem State.memWf.execCvt (hs : s.memWf) (f : LaneOps) : Out.memWf (execCvt f s) := by
  unfold Sys2Proof.Machine.execCvt
  exact hs.laneRun _ _ _ (fun _ _ h0 => h0.laneEnd _ _ _) _

theorem State.memWf.execCvtn (hs : s.memWf) (f : LaneOps) : Out.memWf (execCvtn f s) := by
  unfold Sys2Proof.Machine.execCvtn
  exact hs.laneRun _ _ _ (fun _ _ h0 => h0.laneEnd _ _ _) _

/-! ## Cross-lane instructions -/

theorem State.memWf.permute (hs : s.memWf) (op : BitVec 10) (f : LaneOps) : Out.memWf (permute s op f) :=
  hs.laneRun _ _ _ (fun _ _ h0 => h0.laneEnd _ _ _) _

theorem State.memWf.execXred (hs : s.memWf) (f : LaneOps) : Out.memWf (execXred f s) := by
  unfold Sys2Proof.Machine.execXred
  refine hs.laneRun _ _ _ (fun _ _ h0 => ?_) _
  dsimp only
  split
  · exact h0.laneEnd _ _ _
  · split
    · exact h0.laneEnd _ _ _
    · exact h0.laneEnd _ _ _

/-! ## Copies -/

theorem State.memWf.accept (hs : s.memWf) (c : Cur) (chan : Nat) (addr w : Word64) (t : BitVec 512) :
    (s.accept c chan addr w t).memWf := by
  have h2 : (s.nextSerial.2.modWg c.g.ref (fun g =>
      { g with accepted := g.accepted.set chan (g.accepted.get chan + 1) })).memWf := hs.nextSerial.modWg _ _
  have h3 := State.memWf.ite (c := tmplColl t = true) (h2.countGroup c.j.ref.part (tmplGroup t) (· + 1)) h2
  exact h3.same

theorem State.memWf.cpstart (hs : s.memWf) (c : Cur) (p : Phys) (addr w : Word64) : (s.cpstart c p addr w).memWf := by
  unfold State.cpstart
  split
  · exact hs.trapScalar _ _ _ _
  · split
    · exact hs.trapScalar _ _ _ _
    · split
      · exact hs
      · exact (hs.accept _ _ _ _ _).setFrag _

theorem State.memWf.execCpstart (hs : s.memWf) (a b : BitVec 6) : Out.memWf (execCpstart a b s) := by
  unfold Sys2Proof.Machine.execCpstart
  refine hs.scalarRun _ (fun _ => ?_)
  split
  · exact hs.pageScalar _ _ _ _
  · exact hs.cpstart _ _ _ _

theorem State.memWf.loadScalar (hs : s.memWf) (c : Cur) (va : Word64) {k : Cur → Word64 → State} (hk : ∀ a b, (k a b).memWf) :
    (s.loadScalar c va k).memWf := by
  unfold State.loadScalar
  split
  · exact hs.trapScalar _ _ _ _
  · dsimp only
    split
    · exact hs.pageScalar _ _ _ _
    · exact hk _ _

theorem State.memWf.fenceReads (hs : s.memWf) (c : Cur) (scope : BitVec 2) : (s.fenceReads c scope).memWf := hs.same.setFrag _

theorem State.memWf.execEfence (hs : s.memWf) (scope : BitVec 2) : Out.memWf (execEfence scope s) := by
  unfold Sys2Proof.Machine.execEfence
  refine hs.scalarRun _ (fun _ => ?_)
  split
  · exact hs.setFrag _
  · exact (State.memWf.ite (hs.landOwn _) hs).fenceReads _ _

theorem State.memWf.storeAt (hs : s.memWf) (x : Writer) (l : Loc) (n v : Nat) : (s.storeAt x l n v).memWf := by
  unfold State.storeAt
  split
  · exact hs.sendLate _ _ _ _ _
  · exact hs.storePlain _ _ _ _

theorem State.memWf.storeLocs (hs : s.memWf) (x : Writer) (ls : List (Loc × Byte)) : (s.storeLocs x ls).memWf := by
  induction ls generalizing s with
  | nil => exact hs
  | cons l ls ih => exact ih (hs.storeAt _ _ _ _)

theorem State.memWf.setBit (hs : s.memWf) (x : Writer) (w : Who) (g : Wg) (l : Loc) (i : Nat) :
    (s.setBit x w g l i).memWf := by
  unfold State.setBit
  split
  · exact hs.sendLate _ _ _ _ _
  · exact hs.storePlain _ _ _ _

theorem State.memWf.snapshot (hs : s.memWf) (r : FragRef) (sp : Bool) (addr : Nat) : (s.snapshot r sp addr).memWf := by
  unfold State.snapshot
  split
  · exact hs
  · dsimp only
    split
    · exact hs
    · split
      · exact hs
      · exact hs.setFrag _

theorem State.memWf.engineRead (hs : s.memWf) (cmd o : Nat) : (s.engineRead cmd o).memWf := by
  unfold State.engineRead
  split
  · exact hs
  · split
    · split
      · exact hs
      · dsimp only
        split
        · exact hs
        · exact hs.setCmd _
    · exact hs

theorem State.memWf.engineWalk (hs : s.memWf) (cmd : Nat) (va : Word64) : (s.engineWalk cmd va).memWf := by
  unfold State.engineWalk
  split
  · exact hs
  · split
    · exact hs
    · split
      · exact hs
      · exact hs.setCmd _

theorem State.memWf.cmdPage (hs : s.memWf) (c : Cmd) (j : Job) (e : PageFault) (va : Word64) (u : Use) (chunk : Option Nat) :
    (s.cmdPage c j e va u chunk).memWf :=
  (hs.same.setCmd _).modDie _ _

theorem State.memWf.wakeEfence (hs : s.memWf) (g : WgRef) : (s.wakeEfence g).memWf := hs.same

theorem State.memWf.cmdDone (hs : s.memWf) (c : Cmd) : (s.cmdDone c).memWf := hs.same.wakeEfence _

theorem State.memWf.execCopyFire (hs : s.memWf) (core : BitVec 8) (chan : BitVec 3) :
    Out.memWf (execCopyFire core chan s) := by
  unfold Sys2Proof.Machine.execCopyFire
  apply State.memWf.next
  split
  · exact hs
  · split
    · dsimp only
      split
      · exact hs.cmdPage _ _ _ _ _ _
      · split
        · exact (hs.setCmd _).modWg _ _
        · exact hs
    · exact hs

theorem State.memWf.chunkBit (hs : s.memWf) (c : Cmd) (j : Job) (g : Wg) (i : Nat) : (s.chunkBit c j g i).memWf := by
  unfold State.chunkBit
  dsimp only
  split
  · split
    · exact (hs.setCmd _).subtractBytes _ _ _
    · exact hs.setCmd _
  · split
    · exact hs.cmdPage _ _ _ _ _ _
    · split
      · exact ((hs.setBit _ _ _ _ _).setCmd _).subtractBytes _ _ _
      · exact (hs.setBit _ _ _ _ _).setCmd _

theorem State.memWf.payload (hs : s.memWf) {c d : Cmd} {j : Job} {g : Wg} {o n : Nat} {t : State}
    (h : s.payload c j g o n = .ok (t, d)) : t.memWf := by
  unfold State.payload at h
  dsimp only at h
  split at h
  · cases h
  · split at h
    · cases h
    · cases h
      exact hs.storeLocs _ _

theorem State.memWf.landChunk (hs : s.memWf) (cmd chunk : Nat) : (s.landChunk cmd chunk).memWf := by
  unfold State.landChunk
  split
  · exact hs
  · split
    · split
      · exact hs.chunkBit _ _ _ _
      · split
        · split
          · exact hs.cmdPage _ _ _ _ _ _
          · next hp => exact ((hs.payload hp).setCmd _).chunkBit _ _ _ _
        · exact hs
    · exact hs

theorem State.memWf.landStarted (hs : s.memWf) (cmd : Nat) : (s.landStarted cmd).memWf := by
  unfold State.landStarted
  split
  · exact hs
  · exact hs.foldl _ (fun _ _ ht => ht.landChunk _ _)

theorem State.memWf.engineWrite (hs : s.memWf) (cmd o : Nat) : (s.engineWrite cmd o).memWf := by
  unfold State.engineWrite
  split
  · exact hs
  · split
    · split
      · exact hs
      · split
        · exact hs
        · next hp => exact (hs.payload hp).setCmd _
    · exact hs

theorem State.memWf.writeCword {s0 : State} (hs : s0.memWf) (c : Cmd) (j : Job) : (s0.writeCword c j).memWf := by
  unfold State.writeCword
  dsimp only
  split
  · exact (State.memWf.ite (hs.landCmd _) hs).cmdDone _
  · split
    · exact (State.memWf.ite (hs.landCmd _) hs).cmdPage _ _ _ _ _ _
    · exact ((State.memWf.ite (hs.landCmd _) hs).storeAt _ _ _ _).cmdDone _

theorem State.memWf.advance (hs : s.memWf) (c : Cmd) (j : Job) (g : Wg) (off : Nat) (c1 : Cmd) :
    (s.advance c j g off c1).memWf := by
  unfold State.advance
  split
  · exact hs.cmdPage _ _ _ _ _ _
  · exact (hs.storePlain _ _ _ _).setCmd _

theorem State.memWf.execCopyCompletion (hs : s.memWf) (cmd : Nat) : Out.memWf (execCopyCompletion cmd s) := by
  unfold Sys2Proof.Machine.execCopyCompletion
  apply State.memWf.next
  split
  · exact hs
  · split
    · split
      · exact hs
      · split
        · exact hs.writeCword _ _
        · split
          · exact hs
          · split
            · exact hs.advance _ _ _ _ _
            · split
              · exact hs.advance _ _ _ _ _
              · exact hs.writeCword _ _
    · exact hs

/-! ## Scalar memory -/

theorem State.memWf.post (hs : s.memWf) (f : Frag) (elems : List Piece) (pc : Word64) (lane : Bool) (lanes : Word64) :
    (s.post f elems pc lane lanes).memWf :=
  hs.same.setFrag _

theorem State.memWf.execSst (hs : s.memWf) (d a : BitVec 6) (off : BitVec 14) : Out.memWf (execSst d a off s) := by
  unfold Sys2Proof.Machine.execSst
  refine hs.scalarRun _ (fun _ => ?_)
  dsimp only
  split
  · exact hs.exitOverrun _
  · split
    · exact hs.trapScalar _ _ _ _
    · split
      · exact hs.pageScalar _ _ _ _
      · split
        · exact State.memWf.ite (hs.pageScalar _ _ _ _) (hs.post _ _ _ _ _)
        · exact State.memWf.ite (hs.cpstart _ _ _ _) (hs.post _ _ _ _ _)

theorem State.memWf.execWaitaddr (hs : s.memWf) (cond : BitVec 3) (a b : BitVec 6) : Out.memWf (execWaitaddr cond a b s) := by
  unfold Sys2Proof.Machine.execWaitaddr
  refine hs.scalarRun _ (fun _ => ?_)
  refine hs.loadScalar _ _ (fun _ _ => ?_)
  dsimp only
  split
  · split
    · exact (hs.setFrag _).noteWake _
    · exact hs.setFrag _
  · split
    · exact hs.setFrag _
    · exact hs.park _ _

/-! ## Events and barriers -/

theorem State.memWf.bind (hs : s.memWf) (c : Cur) (n : BitVec 4) (off : BitVec 11) (kind : BitVec 3) (arg arg2 val : Word64) :
    (s.bind c n off kind arg arg2 val).memWf :=
  ((hs.setWave _).setFrag _).settle _

theorem State.memWf.execArmBarrier (hs : s.memWf) (n : BitVec 4) (a : BitVec 6) (off : BitVec 11) :
    Out.memWf (execArmBarrier n a off s) := by
  unfold Sys2Proof.Machine.execArmBarrier
  refine hs.scalarRun _ (fun _ => ?_)
  dsimp only
  split
  · exact hs.trapScalar _ _ _ _
  · split
    · exact hs.trapScalar _ _ _ _
    · exact hs.bind _ _ _ _ _ _ _

theorem State.memWf.armWord (hs : s.memWf) (c : Cur) (v : Word64) {k : Cur → Word64 → State} (hk : ∀ a b, (k a b).memWf) :
    (s.armWord c v k).memWf := by
  unfold State.armWord
  split
  · dsimp only
    split
    · exact hs.trapScalar _ _ _ _
    · split
      · exact hs.trapScalar _ _ _ _
      · split
        · exact hs.trapScalar _ _ _ _
        · split
          · exact hs.pageScalar _ _ _ _
          · exact hk _ _
  · exact hs.loadScalar _ _ (fun _ _ => hk _ _)

theorem State.memWf.execArmPool (hs : s.memWf) (n : BitVec 4) (a : BitVec 6) (off : BitVec 11) :
    Out.memWf (execArmPool n a off s) := by
  unfold Sys2Proof.Machine.execArmPool
  refine hs.scalarRun _ (fun _ => ?_)
  dsimp only
  split
  · exact hs.trapScalar _ _ _ _
  · exact hs.bind _ _ _ _ _ _ _

theorem State.memWf.execArmTimer (hs : s.memWf) (n : BitVec 4) (a : BitVec 6) (off : BitVec 11) :
    Out.memWf (execArmTimer n a off s) := by
  unfold Sys2Proof.Machine.execArmTimer
  refine hs.scalarRun _ (fun _ => ?_)
  dsimp only
  split
  · exact hs.trapScalar _ _ _ _
  · exact hs.bind _ _ _ _ _ _ _

theorem State.memWf.execArmBaton (hs : s.memWf) (n : BitVec 4) (a : BitVec 6) (off : BitVec 11) :
    Out.memWf (execArmBaton n a off s) := by
  unfold Sys2Proof.Machine.execArmBaton
  refine hs.scalarRun _ (fun _ => ?_)
  split
  · exact hs.bind _ _ _ _ _ _ _
  · exact hs.trapScalar _ _ _ _

theorem State.memWf.execAwait (hs : s.memWf) (slots : BitVec 16) : Out.memWf (execAwait slots s) := by
  unfold Sys2Proof.Machine.execAwait
  refine hs.scalarRun _ (fun _ => ?_)
  dsimp only
  split
  · exact hs.trapScalar _ _ _ _
  · split
    · exact hs.same.park _ _
    · exact hs.resumeAwait _ _

theorem State.memWf.withBarrier (hs : s.memWf) (c : Cur) (k : BitVec 8)
    {eff : Barrier → Member → State} (heff : ∀ a b, (eff a b).memWf) : (withBarrier s c k eff).memWf := by
  unfold Sys2Proof.Machine.withBarrier
  split
  · exact heff _ _
  · exact hs.trapScalar _ _ _ _

theorem State.memWf.execBarinit (hs : s.memWf) (k : BitVec 8) : Out.memWf (execBarinit k s) := by
  unfold Sys2Proof.Machine.execBarinit
  refine hs.scalarRun _ (fun _ => ?_)
  refine hs.withBarrier _ _ (fun _ _ => ?_)
  split
  · exact ((hs.setFrag _).setBarrier _ _).clearArrivals _ _
  · exact hs.setFrag _

theorem State.memWf.execBararrive (hs : s.memWf) (a : BitVec 6) (k : BitVec 8) : Out.memWf (execBararrive a k s) := by
  unfold Sys2Proof.Machine.execBararrive
  refine hs.scalarRun _ (fun _ => ?_)
  refine hs.withBarrier _ _ (fun _ _ => ?_)
  split
  · exact hs.trapScalar _ _ _ _
  · dsimp only
    split
    · exact (hs.breakBarrier _ _).trapScalar _ _ _ _
    · exact (((hs.setWave _).setFrag _).setBarrier _ _).checkBarrier _ _

theorem State.memWf.execBarwait (hs : s.memWf) (k : BitVec 8) : Out.memWf (execBarwait k s) := by
  unfold Sys2Proof.Machine.execBarwait
  refine hs.scalarRun _ (fun _ => ?_)
  refine hs.withBarrier _ _ (fun _ _ => ?_)
  split
  · exact hs.trapScalar _ _ _ _
  · split
    · exact hs.park _ _
    · exact hs.setFrag _

theorem State.memWf.execBatonTake (hs : s.memWf) : Out.memWf (execBatonTake s) := by
  unfold Sys2Proof.Machine.execBatonTake
  refine hs.scalarRun _ (fun _ => ?_)
  split
  · exact hs.trapScalar _ _ _ _
  · split
    · exact hs.setFrag _
    · exact hs.park _ _

theorem State.memWf.execBatonPass (hs : s.memWf) : Out.memWf (execBatonPass s) := by
  unfold Sys2Proof.Machine.execBatonPass
  refine hs.scalarRun _ (fun _ => ?_)
  split
  · exact hs.trapScalar _ _ _ _
  · split
    · exact hs.trapScalar _ _ _ _
    · exact (hs.setFrag _).passBaton _ _ _

theorem State.memWf.execTimerTokenFire (hs : s.memWf) (w : WaveRef) (slot : BitVec 4) :
    Out.memWf (execTimerTokenFire w slot s) := by
  unfold Sys2Proof.Machine.execTimerTokenFire
  apply State.memWf.next
  split
  · exact hs
  · split
    · exact hs
    · split
      · exact (hs.setWave _).settle _
      · exact hs

/-! ## Service and fault queues -/

theorem State.memWf.verdict (hs : s.memWf) (r : FragRef) (v : Word64) : (s.verdict r v).memWf := by
  unfold State.verdict
  split
  · exact hs
  · split
    · exact hs
    · dsimp only
      split
      · exact (hs.noteWake _).killWave _
      · split
        · exact (hs.noteWake _).setFrag _
        · exact (hs.noteWake _).setFrag _
        · split
          · exact (hs.noteWake _).killWave _
          · exact (hs.noteWake _).setFrag _
        · exact (hs.noteWake _).killWave _

theorem State.memWf.execServiceFaultVerdict (hs : s.memWf) (d : BitVec 2) (v : Word64) :
    Out.memWf (execServiceFaultVerdict d v s) := by
  unfold Sys2Proof.Machine.execServiceFaultVerdict
  apply State.memWf.next
  split
  · exact hs
  · exact (hs.modDie _ _).verdict _ _

theorem State.memWf.fqTail (hs : s.memWf) (d : Nat) (v : BitVec 32) : (s.fqTail d v).memWf := hs.modDie _ _

theorem State.memWf.killCmd (hs : s.memWf) (c : Cmd) (cause : BitVec 8) : (s.killCmd c cause).memWf := by
  unfold State.killCmd
  dsimp only
  split
  · exact hs.cmdDone _
  · split
    · exact (hs.setCmd _).subtractBytes _ _ _
    · exact hs.setCmd _

theorem State.memWf.answer (hs : s.memWf) (kill : Bool) (cause : BitVec 8) (w : Waiter) : (s.answer kill cause w).memWf := by
  unfold State.answer
  split
  · split
    · exact hs
    · split
      · split
        · exact hs
        · split
          · exact (hs.noteWake _).raise _ _
          · exact (hs.setFrag _).noteWake _
      · exact hs
  · dsimp only
    split
    · exact hs.same.noteWake _
    · exact hs.same
  · split
    · exact hs
    · split
      · exact hs
      · split
        · exact hs.killCmd _ _
        · exact hs.setCmd _

theorem State.memWf.fqDone (hs : s.memWf) (d : Nat) (seq : BitVec 32) (kill : Bool) : (s.fqDone d seq kill).memWf := by
  unfold State.fqDone
  split
  · exact hs
  · exact (hs.modDie _ _).foldl _ (fun _ _ ht => ht.answer _ _ _)

theorem State.memWf.sqTail (hs : s.memWf) (d : Nat) (v : BitVec 32) : (s.sqTail d v).memWf := hs.modDie _ _

theorem State.memWf.deliver (hs : s.memWf) (q : SvcQ) (r : SqRec) : (s.deliver q r).memWf := by
  unfold State.deliver
  split
  · exact hs
  · split
    · exact hs
    · exact hs.logged _ _ (fun _ _ h0 => ((h0.setWave _).setFrag _).noteWake _)

theorem State.memWf.fireReply (hs : s.memWf) (r : SqRec) : (s.fireReply r).memWf := hs.fireWaves _ _ _

theorem State.memWf.sqDone (hs : s.memWf) (d : Nat) (seq : BitVec 32) : (s.sqDone d seq).memWf := by
  unfold State.sqDone
  split
  · exact hs
  · split
    · exact hs
    · dsimp only
      split
      · exact ((hs.modDie _ _).deliver _ _).fireReply _
      · exact (hs.modDie _ _).verdict _ _

theorem State.memWf.sqRestart (hs : s.memWf) (d : Nat) : (s.sqRestart d).memWf := by
  unfold State.sqRestart
  split
  · exact hs
  · exact (hs.modDie _ _).foldl _ (fun _ _ ht => ht.postSvc _ _)

theorem State.memWf.execSvc (hs : s.memWf) (n : BitVec 10) : Out.memWf (execSvc n s) := by
  unfold Sys2Proof.Machine.execSvc
  refine hs.scalarRun _ (fun _ => ?_)
  dsimp only
  split
  · exact hs.setFrag _
  · split
    · exact hs.trapScalar _ _ _ _
    · exact ((hs.setWave _).setFrag _).postSvc _ _

theorem State.memWf.queueStore (hs : s.memWf) (d off n v : Nat) : (s.queueStore d off n v).memWf := by
  unfold State.queueStore
  split
  · exact hs.fqTail _ _
  · split
    · split
      · exact hs.fqDone _ _ _
      · exact hs
    · split
      · exact hs.sqTail _ _
      · split
        · exact hs.sqDone _ _
        · split
          · exact hs.sqRestart _
          · split
            · exact hs.modDie _ _
            · exact hs

theorem State.memWf.tableStoreByte (hs : s.memWf) (off : Nat) (b : Byte) : (s.tableStoreByte off b).memWf := by
  unfold State.tableStoreByte
  split
  · exact hs.same
  · split
    · exact hs.same
    · split
      · exact hs.same
      · exact hs

theorem State.memWf.tableStore (hs : s.memWf) (off n v : Nat) : (s.tableStore off n v).memWf := by
  induction n generalizing s off v with
  | zero => exact hs
  | succ n ih => exact ih (hs.tableStoreByte _ _) _ _

theorem State.memWf.perform (hs : s.memWf) (g : WgRef) (l : Loc) (n v : Nat) : (s.perform g l n v).memWf := by
  unfold State.perform
  split
  · exact hs.storePlain _ _ _ _
  · split
    · exact hs.queueStore _ _ _ _
    · exact hs.tableStore _ _ _
    · exact hs.storePlain _ _ _ _

theorem State.memWf.performAll (hs : s.memWf) (g : WgRef) (es : List (Loc × Piece)) : (s.performAll g es).memWf := by
  induction es generalizing s with
  | nil => exact hs
  | cons e es ih => exact ih (hs.perform _ _ _ _)

theorem State.memWf.spillHit (hs : s.memWf) (kernel : Bool) (store : Nat × Nat) (l : Loc) (n v : Nat) :
    (s.spillHit kernel store l n v).memWf := by
  unfold State.spillHit
  split
  · exact hs
  · split
    · exact hs
    · exact hs.same

theorem State.memWf.performJob (hs : s.memWf) (j : Job) (x : Writer) (store : Nat × Nat) (es : List (Loc × Piece)) :
    (s.performJob j x store es).memWf := by
  induction es generalizing s with
  | nil => exact hs
  | cons e es ih => exact ih (State.memWf.ite (hs.sendLate _ _ _ _ _) ((hs.perform _ _ _ _).spillHit _ _ _ _ _))

theorem State.memWf.storeFault (hs : s.memWf) (c : Cur) (p : Posted) (e : PageFault) (va : Word64) :
    (s.storeFault c p e va).memWf := by
  unfold State.storeFault
  split
  · exact hs.exitOverrun _
  · split
    · exact hs.raise _ _
    · exact (hs.same.setFrag _).modDie _ _

theorem State.memWf.dropStore (hs : s.memWf) (r : FragRef) (g : Wg) (j : Job) (p : Posted) (e : PageFault) (va : Word64) :
    (s.dropStore r g j p e va).memWf := by
  unfold State.dropStore
  dsimp only
  split
  · exact hs.modJob _ _
  · exact (hs.modJob _ _).modDie _ _

theorem State.memWf.lateCpstart (hs : s.memWf) (c : Cur) (p : Posted) (chan : Nat) (e : Piece) :
    (s.lateCpstart c p chan e).memWf := by
  unfold State.lateCpstart
  split
  · exact (hs.setFrag _).raise _ _
  · split
    · exact hs
    · exact (hs.accept _ _ _ _ _).setFrag _

theorem State.memWf.translateStore (hs : s.memWf) (c : Cur) (p : Posted) : (s.translateStore c p).memWf := by
  unfold State.translateStore
  split
  · exact hs.storeFault _ _ _ _
  · split
    · exact hs.lateCpstart _ _ _ _
    · exact (hs.setFrag _).performJob _ _ _ _

theorem State.memWf.translateOrphan (hs : s.memWf) (r : FragRef) (g : Wg) (j : Job) (p : Posted) :
    (s.translateOrphan r g j p).memWf := by
  unfold State.translateOrphan
  dsimp only
  split
  · exact (hs.modWg _ _).dropStore _ _ _ _ _ _
  · exact (hs.modWg _ _).performJob _ _ _ _

theorem State.memWf.storePiece (hs : s.memWf) (r : FragRef) (k : Nat) : (s.storePiece r k).memWf := by
  unfold State.storePiece
  split
  · exact hs
  · split
    · exact hs
    · split
      · exact hs
      · split
        · exact hs
        · exact (hs.setFrag _).performJob _ _ _ _

theorem State.memWf.execPostedStoreTranslation (hs : s.memWf) (r : FragRef) : Out.memWf (execPostedStoreTranslation r s) := by
  unfold Sys2Proof.Machine.execPostedStoreTranslation
  apply State.memWf.next
  split
  · exact hs.translateStore _ _
  · split
    · split
      · exact hs
      · exact hs.translateOrphan _ _ _ _
    · exact hs

/-! ## Lane memory -/

theorem State.memWf.laneSkip (hs : s.memWf) (x : Lane) : (s.laneSkip x).memWf := hs.laneEnd _ _ _

theorem State.memWf.laneFault (hs : s.memWf) (x : Lane) (e : LaneFault) : (s.laneFault x e).memWf := hs.trapLane _ _ _ _ _

theorem State.memWf.laneMemRun (hs : s.memWf) (op : BitVec 10) (f : LaneOps)
    {k : State → Lane → State} (hk : ∀ a b, State.memWf a → (k a b).memWf) : Out.memWf (laneMemRun s op f k) :=
  hs.laneRun _ _ _ (fun _ _ h0 => State.memWf.ite (h0.laneSkip _) (hk _ _ h0)) _

theorem State.memWf.laneLoad (hs : s.memWf) (op : BitVec 10) (f : LaneOps) (form : LaneForm) :
    Out.memWf (laneLoad s op f form) := by
  unfold Sys2Proof.Machine.laneLoad
  refine hs.laneMemRun _ _ (fun _ _ h0 => ?_)
  split
  · exact h0.laneFault _ _
  · dsimp only
    split
    · exact h0.pageLane _ _ _ _ _
    · exact h0.laneEnd _ _ _

theorem State.memWf.laneStore (hs : s.memWf) (op : BitVec 10) (f : LaneOps) (form : LaneForm) :
    Out.memWf (laneStore s op f form) := by
  unfold Sys2Proof.Machine.laneStore
  refine hs.laneRun _ _ _ (fun _ x h0 => ?_) _
  dsimp only
  split
  · exact h0.exitOverrun _
  · split
    · exact h0.laneSkip _
    · split
      · exact h0.laneFault _ _
      · split
        · exact (h0.performAll _ _).laneSkip _
        · exact (h0.laneSkip x).same

theorem State.memWf.atomPass (hs : s.memWf) (w : Who) (g : WgRef) (store : Nat × Nat) (n : Nat) (h : Nat → Nat → Option Nat)
    (ps : List (Nat × Loc × Option Nat)) : (s.atomPass w g store n h ps).2.memWf := by
  induction ps generalizing s with
  | nil => exact hs
  | cons p ps ih =>
    unfold State.atomPass
    split
    · exact hs
    · apply ih
      split
      · exact ((hs.landAt _).perform _ _ _ _).spillHit _ _ _ _ _
      · exact (hs.landAt _).touchLoc _

theorem State.memWf.execVatom (hs : s.memWf) (f : LaneOps) : Out.memWf (execVatom f s) := by
  unfold Sys2Proof.Machine.execVatom
  refine hs.laneMemRun _ _ (fun s1 x h1 => ?_)
  dsimp only
  split
  · exact h1.laneFault _ _
  · split
    · exact h1.pageLane _ _ _ _ _
    · refine State.memWf.ite (h1.trapLane _ _ _ _ _) (State.memWf.ite ((h1.atomPass _ _ _ _ _ _).trapLane _ _ _ _ _) ?_)
      exact h1.logged _ _ (fun _ _ h2 => (h2.atomPass _ _ _ _ _ _).laneEnd _ _ _)

theorem State.memWf.logFirst (hs : s.memWf) (x : Lane) (n : Nat) : (s.logFirst x n).memWf := by
  unfold State.logFirst
  split
  · exact hs.logPast _ _
  · exact hs

theorem State.memWf.loadAhead (hs : s.memWf) (x : Lane) (form : LaneForm) (l : Nat) : (s.loadAhead x form l).memWf := by
  unfold State.loadAhead
  split
  · exact hs
  · dsimp only
    split
    · exact hs
    · split
      · exact hs
      · exact hs.setFrag _

theorem State.memWf.storeAhead (hs : s.memWf) (x : Lane) (form : LaneForm) (l : Nat) : (s.storeAhead x form l).memWf := by
  unfold State.storeAhead
  split
  · exact hs
  · dsimp only
    split
    · exact hs
    · split
      · exact hs
      · exact (hs.performAll _ _).setFrag _

theorem State.memWf.atomAhead (hs : s.memWf) (x : Lane) (l : Nat) : (s.atomAhead x l).memWf := by
  unfold State.atomAhead
  split
  · exact hs
  · dsimp only
    split
    · split
      · exact hs
      · split
        · exact hs
        · exact ((hs.atomPass _ _ _ _ _ _).logFirst _ _).setFrag _
    · exact hs

theorem State.memWf.finishAtom (hs : s.memWf) (c : Cur) : (s.finishAtom c).memWf := by
  unfold State.finishAtom
  split
  · split
    · dsimp only
      split
      · exact (hs.atomPass _ _ _ _ _ _).logWrite _ _
      · exact hs.atomPass _ _ _ _ _ _
    · exact hs
  · exact hs

theorem State.memWf.finishHalfway (hs : s.memWf) (r : WgRef) : (s.finishHalfway r).memWf := by
  unfold State.finishHalfway
  split
  · exact hs
  · exact (hs.modWg _ _).foldl _ (fun _ _ ht => by
    split
    · exact ht.finishAtom _
    · exact ht)

theorem State.memWf.ragStop (hs : s.memWf) (x : Lane) (e : RagStop) : (s.ragStop x e).memWf := by
  cases e with
  | fault sub => exact hs.trapLane _ _ _ _ _
  | page e va => exact hs.pageLane _ _ _ _ _

theorem State.memWf.ragWrite (hs : s.memWf) (x : Lane) (xs : List RagLane) (vals : List (Nat × Word64)) (q r : Nat) :
    (s.ragWrite x xs vals q r).memWf :=
  hs.laneEnd _ _ _

theorem State.memWf.execRload (hs : s.memWf) (f : LaneOps) : Out.memWf (execRload f s) := by
  unfold Sys2Proof.Machine.execRload
  refine hs.laneMemRun _ _ (fun _ _ h0 => ?_)
  dsimp only
  split
  · exact h0.trapLane _ _ _ _ _
  · split
    · exact h0.trapLane _ _ _ _ _
    · split
      · exact h0.ragStop _ _
      · exact h0.trapLane _ _ _ _ _
      · split
        · exact h0.ragStop _ _
        · split
          · exact h0.ragStop _ _
          · split
            · exact h0.laneFault _ _
            · split
              · exact h0.laneFault _ _
              · split
                · exact h0.pageLane _ _ _ _ _
                · exact h0.ragWrite _ _ _ _ _

/-! ## Pools -/

theorem State.memWf.createPool (hs : s.memWf) {d : BitVec 512} {h : Word64} {t : State} (he : s.createPool d = some (h, t)) :
    t.memWf := by
  unfold State.createPool at he
  split at he
  · cases he
  · cases he
    exact hs.same

theorem State.memWf.poolRun (hs : s.memWf) (op : BitVec 10) (f : LaneOps)
    {k : State → Lane → State} (hk : ∀ a b, State.memWf a → (k a b).memWf) : Out.memWf (poolRun s op f k) :=
  hs.laneMemRun _ _ (fun _ _ h0 => hk _ _ h0)

theorem State.memWf.withPool (hs : s.memWf) (x : Lane) {k : Pool → State} (hk : ∀ a, (k a).memWf) :
    (withPool s x k).memWf := by
  unfold Sys2Proof.Machine.withPool
  split
  · exact hs.trapLane _ _ _ _ _
  · split
    · exact hs.trapLane _ _ _ _ _
    · exact hk _

theorem State.memWf.execPinitCreate (hs : s.memWf) (f : LaneOps) : Out.memWf (execPinitCreate f s) := by
  unfold Sys2Proof.Machine.execPinitCreate
  refine hs.poolRun _ _ (fun _ _ h0 => ?_)
  dsimp only
  split
  · exact h0.trapLane _ _ _ _ _
  · split
    · exact h0.pageLane _ _ _ _ _
    · split
      · exact h0.trapLane _ _ _ _ _
      · split
        · exact h0.laneEnd _ _ _
        · next hp => exact (h0.createPool hp).laneEnd _ _ _

theorem State.memWf.putAll (hs : s.memWf) (num die : Nat) (xs : List (Nat × Word64 × Word64)) :
    (s.putAll num die xs).2.memWf := by
  induction xs generalizing s with
  | nil => exact hs
  | cons x xs ih =>
    unfold State.putAll
    split
    · exact hs
    · split
      · exact hs
      · split
        · exact ih (hs.setPool _)
        · exact ih (hs.setPool _)

theorem State.memWf.putEnd (hs : s.memWf) (x : Lane) (sts : List (Nat × Word64)) : (s.putEnd x sts).memWf := hs.laneEnd _ _ _

theorem State.memWf.execPput (hs : s.memWf) (f : LaneOps) : Out.memWf (execPput f s) := by
  unfold Sys2Proof.Machine.execPput
  refine hs.poolRun _ _ (fun _ _ h0 => ?_)
  split
  · exact h0.putEnd _ _
  · refine h0.withPool _ (fun _ => ?_)
    split
    · exact h0.trapLane _ _ _ _ _
    · exact (h0.putAll _ _ _).putEnd _ _

theorem State.memWf.putAhead (hs : s.memWf) (x : Lane) (l : Nat) : (s.putAhead x l).memWf := by
  unfold State.putAhead
  split
  · exact hs
  · split
    · exact hs
    · split
      next he => exact ((hs.putAll _ _ _).of_snd he).setFrag _

theorem State.memWf.agreed (hs : s.memWf) (num : Nat) : (s.agreed num).memWf := by
  unfold State.agreed
  split
  · exact hs
  · split
    · exact hs.same.foldl _ (fun _ _ ht => ht.settle _)
    · exact hs

theorem State.memWf.takeEnd (hs : s.memWf) (x : Lane) (got : List (Nat × Taken)) : (s.takeEnd x got).memWf := hs.laneEnd _ _ _

theorem State.memWf.execPtake (hs : s.memWf) (f : LaneOps) : Out.memWf (execPtake f s) := by
  unfold Sys2Proof.Machine.execPtake
  refine hs.poolRun _ _ (fun _ _ h0 => ?_)
  split
  · exact h0.logged _ _ (fun _ _ h0 => h0.takeEnd _ _)
  · refine h0.withPool _ (fun _ => ?_)
    refine h0.logged _ _ (fun _ _ h0 => ?_)
    dsimp only
    split
    · exact ((h0.setPool _).takeEnd _ _).agreed _
    · exact (h0.setPool _).takeEnd _ _

theorem State.memWf.takeAhead (hs : s.memWf) (x : Lane) (l : Nat) : (s.takeAhead x l).memWf := by
  unfold State.takeAhead
  split
  · split
    · exact hs
    · exact State.memWf.ite ((((hs.setPool _).logFirst _ _).setFrag _).agreed _) (((hs.setPool _).logFirst _ _).setFrag _)
  · exact hs

theorem State.memWf.statAhead (hs : s.memWf) (x : Lane) (die : Nat) : (s.statAhead x die).memWf := by
  unfold State.statAhead
  split
  · exact hs
  · dsimp only
    split
    · exact hs
    · split
      · exact hs
      · exact hs.setFrag _

theorem State.memWf.execPoolCensus (hs : s.memWf) (pool : BitVec 6) : Out.memWf (execPoolCensus pool s) := by
  unfold Sys2Proof.Machine.execPoolCensus
  apply State.memWf.next
  split
  · exact hs
  · split
    · exact (hs.setPool _).agreed _
    · exact hs

theorem State.memWf.aheadOf (hs : s.memWf) (x : Lane) (i : Instr) (l : Nat) : (s.aheadOf x i l).memWf := by
  unfold State.aheadOf
  split
  · exact hs
  · split
    · exact hs.loadAhead _ _ _
    · exact hs.loadAhead _ _ _
    · exact hs.loadAhead _ _ _
    · exact hs.storeAhead _ _ _
    · exact hs.storeAhead _ _ _
    · exact hs.storeAhead _ _ _
    · exact hs.atomAhead _ _
    · exact hs.putAhead _ _
    · exact hs.takeAhead _ _
    · exact hs.statAhead _ _
    · exact hs

theorem State.memWf.readAhead (hs : s.memWf) (x : Lane) (i : Instr) (sp : Bool) (addr : Nat) :
    (s.readAhead x i sp addr).memWf := by
  unfold State.readAhead
  dsimp only
  refine State.memWf.ite hs ?_
  split
  · exact hs
  · exact hs.setFrag _

/-! ## The matrix engine -/

theorem State.memWf.matrixRun (hs : s.memWf) (op : BitVec 10) (f : LaneOps) (lanes : Word64)
    {k : State → Lane → State} (hk : ∀ a b, State.memWf a → (k a b).memWf) : Out.memWf (matrixRun s op f lanes k) := by
  unfold Sys2Proof.Machine.matrixRun
  refine hs.laneRun _ _ _ (fun _ _ h0 => ?_) _
  dsimp only
  split
  · exact h0.trapLane _ _ _ _ _
  · split
    · exact h0.laneSkip _
    · exact hk _ _ h0

theorem State.memWf.matStop (hs : s.memWf) (x : Lane) (e : MatStop) : (s.matStop x e).memWf := by
  cases e with
  | fault flt sub a => exact hs.trapLane _ _ _ _ _
  | page e va => exact hs.pageLane _ _ _ _ _

theorem State.memWf.productEnd (hs : s.memWf) (x : Lane) (b : BitVec 512) (rows : List (Nat × Nat × List Nat × List Nat))
    (cols : List (List Nat × List Nat)) (bits : List Nat) : (s.productEnd x b rows cols bits).memWf :=
  hs.laneEnd _ _ _

theorem State.memWf.mmaRun (hs : s.memWf) (f : LaneOps)
    {k : State → Lane → BitVec 512 → List (Nat × Nat × List Nat × List Nat) → List (List Nat × List Nat) → State}
    (hk : ∀ a b c d e, State.memWf a → (k a b c d e).memWf) : Out.memWf (mmaRun f s k) := by
  unfold Sys2Proof.Machine.mmaRun
  refine hs.matrixRun _ _ _ (fun _ _ h0 => ?_)
  split
  · exact h0.trapLane _ _ _ _ _
  · split
    · exact h0.trapLane _ _ _ _ _
    · dsimp only
      split
      · exact h0.matStop _ _
      · split
        · exact h0.trapLane _ _ _ _ _
        · split
          · exact h0.matStop _ _
          · exact hk _ _ _ _ _ h0

theorem State.memWf.execMvstream (hs : s.memWf) (f : LaneOps) : Out.memWf (execMvstream f s) := by
  unfold Sys2Proof.Machine.execMvstream
  refine hs.matrixRun _ _ _ (fun _ _ h0 => ?_)
  dsimp only
  split
  · exact h0.trapLane _ _ _ _ _
  · split
    · exact h0.matStop _ _
    · split
      · exact h0.matStop _ _
      · split
        · exact h0.trapLane _ _ _ _ _
        · refine State.memWf.ite (h0.trapLane _ _ _ _ _) (State.memWf.ite (h0.trapLane _ _ _ _ _) ?_)
          split
          · exact h0.matStop _ _
          · exact h0.productEnd _ _ _ _ _

theorem State.memWf.bloadRun (hs : s.memWf) (f : LaneOps) {k : State → Lane → Nat → Sparse 8 → State}
    (hk : ∀ a b c d, State.memWf a → (k a b c d).memWf) : Out.memWf (bloadRun f s k) := by
  unfold Sys2Proof.Machine.bloadRun
  refine hs.matrixRun _ _ _ (fun _ _ h0 => ?_)
  dsimp only
  split
  · exact h0.trapLane _ _ _ _ _
  · refine State.memWf.ite (h0.trapLane _ _ _ _ _) (State.memWf.ite (h0.trapLane _ _ _ _ _) ?_)
    split
    · exact h0.matStop _ _
    · exact hk _ _ _ _ h0

theorem State.memWf.handOn (hs : s.memWf) (x : Lane) (m : MatWork) : (s.handOn x m).memWf := (hs.laneSkip _).modWg _ _

theorem State.memWf.matrixLater (hs : s.memWf) (i : Instr) : Out.memWf (matrixLater i s) := by
  unfold Sys2Proof.Machine.matrixLater
  split
  · exact hs.bloadRun _ (fun _ _ _ _ h0 => h0.handOn _ _)
  · exact hs.mmaRun _ (fun _ _ _ _ _ h0 => h0.handOn _ _)
  · exact hs.next

theorem State.memWf.enter (hs : s.memWf) (g : Wg) (m : MatWork) : (s.enter g m).memWf := by
  unfold State.enter
  split
  · exact hs.modWg _ _
  · dsimp only
    split
    · exact hs
    · exact (hs.setWave _).modFrag _ _

theorem State.memWf.enterEngine (hs : s.memWf) (r : WgRef) (k : Nat) : (s.enterEngine r k).memWf := by
  unfold State.enterEngine
  split
  · exact hs
  · split
    · exact hs
    · split
      · exact hs
      · exact (hs.modWg _ _).enter _ _

theorem State.memWf.enterIf (hs : s.memWf) (r : WgRef) (test : MatWork → Bool) : (s.enterIf r test).memWf := by
  unfold State.enterIf
  split
  · exact hs
  · split
    · exact (hs.modWg _ _).foldl _ (fun _ _ ht => by
    split
    · exact ht.enter _ _
    · exact ht)
    · exact hs

theorem State.memWf.enterBefore (hs : s.memWf) (r : FragRef) (i : Instr) : (s.enterBefore r i).memWf := by
  unfold State.enterBefore
  split
  · exact hs.enterIf _ _
  · exact hs

theorem State.memWf.execExtensionOpcode (hs : s.memWf) (op : BitVec 10) (f : LaneOps) :
    Out.memWf (execExtensionOpcode op f s) := by
  unfold Sys2Proof.Machine.execExtensionOpcode
  refine hs.laneRun _ _ _ (fun _ x h0 => ?_) _
  split
  · exact h0.raise _ _
  · next d _ =>
    dsimp only
    split
    · exact h0.raise _ _
    · have h1 := h0.laneEnd x.c (x.c.w.extWrites x (Config.extension d x.q.word s.fresh))
        (x.c.f.flag (Config.extension d x.q.word s.fresh).flags)
      exact h1.same

/-! ## Save images -/

theorem State.memWf.writeVa (hs : s.memWf) (w : Who) (g : WgRef) (va : Word64) (bs : List Byte) :
    (s.writeVa w g va bs).memWf := by
  induction bs generalizing s va with
  | nil => exact hs
  | cons b bs ih =>
    apply ih
    split
    · exact hs.storePlain _ _ _ _
    · exact hs

theorem State.memWf.writeFields (hs : s.memWf) (w : Who) (g : WgRef) (base : Word64) (xs : List (Nat × Nat × Nat)) :
    (s.writeFields w g base xs).memWf :=
  hs.foldl _ (fun _ _ ht => ht.writeVa _ _ _ _)

theorem State.memWf.clearFrame (hs : s.memWf) (j : Job) (g : WgRef) (n : Nat) : (s.clearFrame j g n).memWf :=
  hs.writeVa _ _ _ _

theorem State.memWf.writeBack (hs : s.memWf) (pa : Nat) (bs : List Byte) : (s.writeBack pa bs).memWf := by
  induction bs generalizing s pa with
  | nil => exact hs
  | cons b bs ih =>
    apply ih
    split
    · exact hs.storeDevice _ _ _
    · exact hs

/-! ## Preemption -/

theorem State.memWf.finishAtoms (hs : s.memWf) (r : WgRef) : (s.finishAtoms r).memWf := (hs.leaveHalfway _).finishHalfway _

theorem State.memWf.modFrags (hs : s.memWf) (g : WgRef) (h : Frag → Frag) : (s.modFrags g h).memWf := hs.same

theorem State.memWf.releaseFrames (hs : s.memWf) (g : WgRef) (ns : List Nat) : (s.releaseFrames g ns).memWf :=
  (hs.modPart _ _).modWg _ _

theorem State.memWf.takeDump (hs : s.memWf) (g : WgRef) : (s.takeDump g).memWf := by
  unfold State.takeDump
  split
  · split
    · exact (hs.modWg _ _).modJob _ _
    · exact hs
  · exact hs

theorem State.memWf.releaseDump (hs : s.memWf) (g : WgRef) : (s.releaseDump g).memWf := by
  unfold State.releaseDump
  split
  · exact hs
  · exact (hs.modWg _ _).modJob _ _

theorem State.memWf.fragImage (hs : s.memWf) (w : Who) (c : Cur) (base : Word64) (r : Resume) :
    (s.fragImage w c base r).memWf := by
  unfold State.fragImage
  dsimp only
  split
  · exact (hs.writeFields _ _ _ _).writeVa _ _ _ _
  · exact ((hs.writeFields _ _ _ _).writeVa _ _ _ _).writeFields _ _ _ _

theorem State.memWf.scratchImage (hs : s.memWf) (g : Wg) (j : Job) (slot : Nat) : (s.scratchImage g j slot).memWf :=
  hs.writeVa _ _ _ _

theorem State.memWf.lanesImage (hs : s.memWf) (j : Job) (g : Wg) (w : Wave) (slot : Nat) (kept : Word64) :
    (s.lanesImage j g w slot kept).memWf :=
  hs.writeFields _ _ _ _

theorem State.memWf.verifyDump (hs : s.memWf) (c : Cur) (slot : Nat) (r : Resume) : (s.verifyDump c slot r).memWf := by
  refine State.memWf.scratchImage (hs.foldl _ (fun t w ht => ?_)) _ _ _
  exact (ht.lanesImage _ _ _ _ _).foldl _ (fun _ _ hu => State.memWf.ite (hu.fragImage _ _ _ _) (hu.fragImage _ _ _ _))

theorem State.memWf.verifySlot (hs : s.memWf) (g : WgRef) : (s.verifySlot g).1.memWf := by
  unfold State.verifySlot
  split
  · exact hs
  · exact hs.takeDump _

theorem State.memWf.vector (hs : s.memWf) (r : FragRef) : (s.vector r).memWf := by
  unfold State.vector
  split
  · exact hs
  · dsimp only
    split
    · apply State.memWf.setFrag
      have h0 : ∀ b : Bool, ∀ g : WgRef, (if b = true then s.verifySlot g else (s, none)).1.memWf := by
        intro b g
        split
        · exact hs.verifySlot _
        · exact hs
      split
      · exact ((h0 _ _).writeVa _ _ _ _).verifyDump _ _ _
      · exact (h0 _ _).writeVa _ _ _ _
    · exact hs.modWg _ _

theorem State.memWf.vectorIf (hs : s.memWf) (r : FragRef) : (s.vectorIf r).memWf := by
  unfold State.vectorIf
  split
  · exact hs
  · split
    · split
      · exact hs.vector _
      · exact hs
    · exact hs

theorem State.memWf.startSave (hs : s.memWf) (g : Wg) (j : Job) (k : PreemptKind) (since : Nat) :
    (s.startSave g j k since).memWf := by
  unfold State.startSave
  dsimp only
  split
  · exact (hs.enterIf _ _).modWg _ _
  · refine State.memWf.foldl (State.memWf.withdrawTraps (State.memWf.foldl ?_ _ (fun _ _ ht => ht.modFrag _ _)) _) _
      (fun _ _ ht => ht.vectorIf _)
    exact (((hs.enterIf _ _).modPart _ _).modWg _ _).foldl _ (fun _ _ ht => ht.clearFrame _ _ _)

theorem State.memWf.withdrawArrivals (hs : s.memWf) (w : Wave) : (s.withdrawArrivals w).memWf := by
  unfold State.withdrawArrivals
  exact hs.foldl _ (fun _ _ ht => by
    split
    · exact ht
    · exact State.memWf.ite ((ht.setBarrier _ _).modWave _ _) ht)

theorem State.memWf.withdrawAll (hs : s.memWf) (g : WgRef) : (s.withdrawAll g).memWf := hs.same

theorem State.memWf.flush (hs : s.memWf) (g : Wg) (since : Nat) : (s.flush g since).memWf := by
  unfold State.flush
  extract_lets s1 s2 left s3 s4
  have h1 : s1.memWf := (((hs.finishAtoms _).releaseDump _).releaseFrames _ _).withdrawAll _
  have h2 : s2.memWf := h1.foldl _ (fun _ _ ht => ht.withdrawArrivals _)
  have h3 : s3.memWf := h2.same
  exact ((h3.discardUnfired _ _).modWg _ _).modJob _ _

theorem State.memWf.makeRoom (hs : s.memWf) (g : Wg) (k : PreemptKind) : (s.makeRoom g k).memWf := by
  unfold State.makeRoom
  split
  · exact hs.modJob _ _
  · exact hs

theorem State.memWf.takePath (hs : s.memWf) (g : Wg) (j : Job) (p : Part) (k : PreemptKind) : (s.takePath g j p k).memWf := by
  unfold State.takePath
  dsimp only
  split
  · exact hs.modWg _ _
  · split
    · exact (hs.makeRoom _ _).flush _ _
    · exact hs.startSave _ _ _ _

theorem State.memWf.request (hs : s.memWf) (r : WgRef) (k : PreemptKind) : (s.request r k).memWf := by
  unfold State.request
  split
  · split
    · exact hs.modWg _ _
    · split
      · exact hs.takePath _ _ _ _
      · split
        · exact hs.startSave _ _ _ _
        · exact hs
      · split
        · exact hs.modWg _ _
        · exact hs
      · split
        · exact hs.modWg _ _
        · exact hs
      · exact hs
  · exact hs

theorem State.memWf.applyHeld (hs : s.memWf) (r : WgRef) : (s.applyHeld r).memWf := by
  unfold State.applyHeld
  split
  · exact hs
  · split
    · exact hs
    · split
      · exact hs
      · exact (hs.modWg _ _).request _ _

theorem State.memWf.execDrainLimitExpiry (hs : s.memWf) (w : WgRef) : Out.memWf (execDrainLimitExpiry w s) := by
  unfold Sys2Proof.Machine.execDrainLimitExpiry
  apply State.memWf.next
  split
  · split
    · split
      · exact hs.startSave _ _ _ _
      · exact hs
    · exact hs
  · exact hs

theorem State.memWf.execExitDeadlineExpiry (hs : s.memWf) (r : FragRef) : Out.memWf (execExitDeadlineExpiry r s) := by
  unfold Sys2Proof.Machine.execExitDeadlineExpiry
  apply State.memWf.next
  split
  · split
    · split
      · exact hs.exitOverrun _
      · exact hs
    · exact hs
  · exact hs

theorem State.memWf.execCopySquash (hs : s.memWf) (w : WgRef) : Out.memWf (execCopySquash w s) := by
  unfold Sys2Proof.Machine.execCopySquash
  apply State.memWf.next
  split
  · split
    · exact hs
    · split
      · exact (hs.foldl _ (fun _ _ ht => ht.landStarted _)).foldl _ (fun _ _ ht => by
    split
    · exact (ht.setCmd _).dropBytes _
    · exact ht.setCmd _)
      · exact hs
  · exact hs

theorem State.memWf.execExitdone (hs : s.memWf) : Out.memWf (execExitdone s) := by
  unfold Sys2Proof.Machine.execExitdone
  refine hs.scalarRun _ (fun _ => ?_)
  split
  · split
    · exact hs.exitOverrun _
    · exact hs.setFrag _
  · exact hs.trapScalar _ _ _ _

theorem State.memWf.resumed (hs : s.memWf) (r : WgRef) : (s.resumed r).memWf := by
  unfold State.resumed
  split
  · exact hs
  · split
    · exact ((hs.modWg _ _).releaseDump _).applyHeld _
    · exact hs

theorem State.memWf.execEntrydone (hs : s.memWf) : Out.memWf (execEntrydone s) := by
  unfold Sys2Proof.Machine.execEntrydone
  refine hs.scalarRun _ (fun _ => ?_)
  split
  · split
    · exact hs.trapScalar _ _ _ _
    · exact ((hs.setFrag _).releaseFrames _ _).resumed _
  · exact hs.trapScalar _ _ _ _

theorem State.memWf.writeFrames (hs : s.memWf) (g : Wg) (j : Job) : (s.writeFrames g j).memWf := by
  unfold State.writeFrames
  dsimp only
  refine State.memWf.foldl ?_ _ (fun _ _ ht => ht.writeVa _ _ _ _)
  split
  · exact hs.writeFields _ _ _ _
  · exact hs

theorem State.memWf.leaveCore {t : State} (hs : t.memWf) (g : Wg) : (t.leaveCore g).memWf :=
  ((((hs.makeRoom _ _).same).modWg _ _).modFrags _ _).modJob _ _

theorem State.memWf.fullDump (hs : s.memWf) (g : Wg) (j : Job) (slot : Nat) : (s.fullDump g j slot).memWf :=
  (hs.foldl _ (fun _ _ ht => (ht.writeFields _ _ _ _).foldl _ (fun _ _ ht => ht.fragImage _ _ _ _))).scratchImage _ _ _

theorem State.memWf.deny (hs : s.memWf) (g : Wg) : (s.deny g).memWf := by
  unfold State.deny
  dsimp only
  split
  · exact (hs.same.modWg _ _).modJob _ _
  · exact hs.same
  · exact hs.same
  · exact hs.same

theorem State.memWf.fallBackEnds (hs : s.memWf) (g : Wg) (j : Job) (since : Nat) : (s.fallBackEnds g j since).memWf := by
  unfold State.fallBackEnds
  dsimp only
  split
  · split
    · exact hs
    · exact (((((((hs.modFrags _ _).withdrawTraps _).takeDump _).modFrags _ _).fullDump _ _ _).same).modWg _ _).leaveCore _
  · split
    · exact (((hs.modFrags _ _).withdrawTraps _).makeRoom _ _).flush _ _
    · exact (((hs.modFrags _ _).withdrawTraps _).releaseFrames _ _).deny _

theorem State.memWf.execSaveCompletion (hs : s.memWf) (w : WgRef) : Out.memWf (execSaveCompletion w s) := by
  unfold Sys2Proof.Machine.execSaveCompletion
  apply State.memWf.next
  split
  · split
    · split
      · exact (hs.writeFrames _ _).leaveCore _
      · split
        · exact hs.modWg _ _
        · exact hs
    · exact hs.fallBackEnds _ _ _
    · exact hs
  · exact hs

theorem State.memWf.fillFrames (hs : s.memWf) (j : Job) (xs : List (Nat × List Byte)) : (s.fillFrames j xs).memWf :=
  hs.foldl _ (fun _ _ ht => ht.writeVa _ _ _ _)

theorem State.memWf.applyFrame (hs : s.memWf) (j : Job) (f : Frag) (read : Nat → Byte) : (s.applyFrame j f read).memWf :=
  (hs.modFrag _ _).modWave _ _

theorem State.memWf.applyEngine (hs : s.memWf) (g : Wg) (j : Job) (read : Nat → Byte) : (s.applyEngine g j read).memWf :=
  hs.foldl _ (fun _ _ ht => ht.setCmd _)

theorem State.memWf.applyFrames (hs : s.memWf) (r : WgRef) (was now : List (List Byte)) : (s.applyFrames r was now).memWf := by
  unfold State.applyFrames
  split
  · split
    · exact hs
    · extract_lets fs n engine pairs s1 s2 sp
      have h1 : s1.memWf := hs.foldl _ (fun _ _ ht => State.memWf.ite ht (ht.applyFrame _ _ _))
      have h2 : s2.memWf := by
        unfold s2
        split
        · exact State.memWf.ite h1 (h1.applyEngine _ _ _)
        · exact h1
      exact State.memWf.ite h2 (h2.modWg _ _)
  · exact hs

theorem State.memWf.regain (hs : s.memWf) (g : Wg) (j : Job) : (s.regain g j).memWf := by
  unfold State.regain
  split
  · exact hs
  · split
    · exact hs
    · exact ((((hs.modPart _ _).modWg _ _).modFrags _ _).fillFrames _ _).applyFrames _ _ _

theorem State.memWf.giveAway (hs : s.memWf) (g : Wg) (area : Word64) : (s.giveAway g area).memWf := by
  unfold State.giveAway
  split
  · exact hs
  · exact ((hs.releaseFrames _ _).modWg _ _).modFrags _ _

theorem State.memWf.reevaluate (hs : s.memWf) (g : Wg) (r : WaveRef) : (s.reevaluate g r).memWf :=
  (hs.modWave _ _).refreshWave _

theorem State.memWf.loadDump (hs : s.memWf) (g : WgRef) (j : Job) (slot : Nat) : (s.loadDump g j slot).memWf :=
  hs.same.modWg _ _

theorem State.memWf.resumeWg (hs : s.memWf) (g : Wg) (j : Job) (die core : Nat) : (s.resumeWg g j die core).memWf := by
  unfold State.resumeWg
  extract_lets s g mine o s0 again s1 keep s2 s4 s3 s5
  have h1 : s1.memWf := (hs.regain _ j).same
  have h2 : s2.memWf := (h1.releaseFrames _ _).modWg _ _
  have h4 : s4.memWf := h2.same
  have h3 : s3.memWf := by
    unfold s3
    split
    · exact (h2.loadDump _ _ _).releaseDump _
    · exact h4.modFrags _ _
  exact (h3.foldl _ (fun _ _ ht => ht.reevaluate _ _)).resumed _

/-! ## Dispatch -/

theorem State.memWf.rejoin (hs : s.memWf) (g : WgRef) : (s.rejoin g).memWf := by
  unfold State.rejoin
  exact hs.foldl _ (fun _ _ ht => ht.foldl _ (fun _ _ ht => by
    split
    · exact ht
    · exact ht.setBarrier _ _))

theorem State.memWf.carve (hs : s.memWf) (j : Job) (g : WgRef) (die core done : Nat) : (s.carve j g die core done).memWf :=
  hs.same

theorem State.memWf.dispatch (hs : s.memWf) (j : Job) (n die core : Nat) : (s.dispatch j n die core).memWf := by
  unfold State.dispatch
  dsimp only
  split
  · split
    · exact (hs.modJob _ _).resumeWg _ _ _ _
    · exact ((hs.modJob _ _).rejoin _).carve _ _ _ _ _
  · exact (hs.modJob _ _).carve _ _ _ _ _

theorem State.memWf.execDispatch (hs : s.memWf) (w : WgRef) (core : BitVec 8) : Out.memWf (execDispatch w core s) := by
  unfold Sys2Proof.Machine.execDispatch
  apply State.memWf.next
  split
  · exact hs
  · dsimp only
    split
    · exact hs.dispatch _ _ _ _
    · exact hs

theorem State.memWf.removeWg (hs : s.memWf) (g : Wg) : (s.removeWg g).memWf := by
  have h1 := (hs.releaseDump g.ref).releaseFrames g.ref g.frames
  exact h1.same

theorem State.memWf.settleOrphans (hs : s.memWf) (g : Wg) (j : Job) : (s.settleOrphans g j).memWf :=
  hs.foldl _ (fun _ _ ht => ht.translateOrphan _ _ _ _)

theorem State.memWf.execWorkgroupRetirement (hs : s.memWf) (w : WgRef) : Out.memWf (execWorkgroupRetirement w s) := by
  unfold Sys2Proof.Machine.execWorkgroupRetirement
  apply State.memWf.next
  split
  · split
    · dsimp only
      split
      · exact ((hs.settleOrphans _ _).carve _ _ _ _ _).sqRestart _
      · exact (((hs.settleOrphans _ _).removeWg _).withdrawAll _).modJob _ _
    · exact hs
  · exact hs

theorem State.memWf.discardStore (hs : s.memWf) (r : FragRef) (g : Wg) (j : Job) (p : Posted) :
    (s.discardStore r g j p).memWf := by
  unfold State.discardStore
  exact (by split <;> exact hs.dropStore _ _ _ _ _ _)

theorem State.memWf.discardWg (hs : s.memWf) (g : Wg) (j : Job) : (s.discardWg g j).memWf :=
  (((hs.finishAtoms _).foldl _ (fun _ _ ht => ht.discardStore _ _ _ _)).removeWg _).withdrawAll _

/-! ## The loader -/

theorem State.memWf.loadByte (hs : s.memWf) (j : Job) (va : Word64) (b : Byte) : (s.loadByte j va b).memWf := by
  unfold State.loadByte
  split
  · exact hs
  · split
    · exact hs
    · exact hs.storePlain _ _ _ _

theorem State.memWf.loadBytes (hs : s.memWf) (j : Job) (va : Word64) (n : Nat) (at' : Nat → Byte) :
    (s.loadBytes j va n at').memWf :=
  hs.foldl _ (fun _ _ ht => ht.loadByte _ _ _)

theorem State.memWf.loadImage (hs : s.memWf) (j : Job) (c : Container) (img : Nat) : (s.loadImage j c img).memWf := by
  unfold State.loadImage
  dsimp only
  split
  · exact hs.foldl _ (fun _ _ ht => ht.loadBytes _ _ _ _)
  · exact (hs.foldl _ (fun _ _ ht => ht.loadBytes _ _ _ _)).foldl _ (fun _ _ ht => ht.loadBytes _ _ _ _)

theorem State.memWf.withContainer (hs : s.memWf) (p : Part) (va : Word64) : (s.withContainer p va).memWf := by
  unfold State.withContainer
  split
  · exact hs
  · dsimp only
    split
    · exact hs.same
    · exact hs

theorem State.memWf.loadFor {s0 : State} (hs : s0.memWf) (j : Job) (part : Nat) : (s0.loadFor j part).1.memWf := by
  unfold State.loadFor
  split
  · exact hs
  · dsimp only
    split
    · exact hs.withContainer _ _
    · split
      · split
        · exact hs.withContainer _ _
        · split
          · exact hs.withContainer _ _
          · split
            · exact hs.withContainer _ _
            · exact ((hs.withContainer _ _).loadImage _ _ _).same
      · exact hs.withContainer _ _

theorem State.memWf.askUnload (hs : s.memWf) (id : Nat) : (s.askUnload id).memWf := hs.same

theorem State.memWf.unloadIdle (hs : s.memWf) : s.unloadIdle.memWf := hs.same

/-! ## Translation tables -/

theorem State.memWf.putWord (hs : s.memWf) (p : Phys) (v : Word64) : (s.putWord p v).memWf := by
  unfold State.putWord
  split
  · exact hs.storeDevice _ _ _
  · exact hs

theorem State.memWf.clearTable (hs : s.memWf) (p : Phys) (n : Nat) : (s.clearTable p n).memWf :=
  hs.foldl _ (fun _ _ ht => ht.putWord _ _)

theorem State.memWf.pageEntry (hs : s.memWf) (make : Bool) (t : Tree) (va : Nat) (ls : List Nat) (tab : Nat) :
    (s.pageEntry make t va ls tab).1.memWf := by
  induction ls generalizing s tab with
  | nil => exact hs
  | cons l ls ih =>
    unfold State.pageEntry
    split
    · exact hs
    · split
      · exact hs
      · split
        · exact hs
        · split
          · exact ih hs _
          · split
            · dsimp only
              split
              · exact hs
              · split
                · exact hs
                · exact ih ((hs.clearTable _ _).putWord _ _) _
            · exact hs
          · exact hs

theorem State.memWf.mapPage (hs : s.memWf) {t : Tree} {bits : Word64} {va : Nat} {u : State}
    (h : s.mapPage t bits va = some u) : u.memWf := by
  unfold State.mapPage at h
  dsimp only at h
  split at h
  · cases h
  · next he =>
    split at h
    · cases h
    · cases h
      exact ((hs.pageEntry _ _ _ _ _).of_fst he).putWord _ _

theorem State.memWf.mapPages (hs : s.memWf) {t : Tree} {bits : Word64} {vas : List Nat} {u : State}
    (h : s.mapPages t bits vas = some u) : u.memWf := by
  induction vas generalizing s with
  | nil =>
    cases h
    exact hs
  | cons va vas ih =>
    unfold State.mapPages at h
    split at h
    · cases h
    · next hp => exact ih (hs.mapPage hp) h

/-! ## Launch and completion -/

theorem State.memWf.giveResult (hs : s.memWf) (c : CallSrc) (status : Byte) (v : Word64) :
    (s.giveResult c status v).memWf := by
  unfold State.giveResult
  split
  · exact hs
  · exact hs.same
  · exact hs.same

theorem State.memWf.giveLate (hs : s.memWf) (c : Caller) (status : Byte) (v : Nat) : (s.giveLate c status v).memWf := by
  unfold State.giveLate
  split
  · exact hs.giveResult _ _ _
  · exact hs.same

theorem State.memWf.respond (hs : s.memWf) (status : Byte) : (s.respond status).memWf := by
  unfold State.respond
  exact hs.same

theorem State.memWf.storeWord (hs : s.memWf) (j : Job) (va v : Word64) : (s.storeWord j va v).memWf := by
  unfold State.storeWord
  split
  · exact hs.storePlain _ _ _ _
  · exact hs

theorem State.memWf.makePools (hs : s.memWf) {j : Job} {tab : Word64} {ks : List Nat} {u : State}
    (h : s.makePools j tab ks = .ok u ∨ s.makePools j tab ks = .error u) : u.memWf := by
  induction ks generalizing s with
  | nil =>
    rcases h with h | h <;> cases h
    exact hs
  | cons k ks ih =>
    have stop : ∀ r, r = Except.error s → r = .ok u ∨ r = .error u → u.memWf := by
      rintro r rfl (h | h) <;> cases h
      exact hs
    generalize hr : s.makePools j tab (k :: ks) = r at h
    unfold State.makePools at hr
    split at hr
    · exact stop r hr.symm h
    · extract_lets d spill base d1 at hr
      split at hr
      · exact stop r hr.symm h
      · split at hr
        · exact stop r hr.symm h
        · next hp =>
          obtain ⟨t, hm, hc⟩ := Option.bind_eq_some_iff.mp hp
          exact ih ((State.memWf.createPool (hs.mapPages hm) hc).storeWord _ _ _) (hr.symm ▸ h)

theorem State.memWf.dropPools (hs : s.memWf) (j : JobRef) : (s.dropPools j).memWf := hs.same

theorem State.memWf.checkJob (hs : s.memWf) (q : Queued) (j : Job) (privileged : Bool) :
    (s.checkJob q j privileged).1.memWf := by
  unfold State.checkJob
  split
  · exact hs
  · split
    · exact hs
    · split
      · exact hs
      · split
        · exact hs
        · split
          · next hp => exact (hs.makePools (.inr hp)).dropPools _
          · next hp =>
            have h1 := hs.makePools (.inl hp)
            split
            · exact h1.dropPools _
            · split
              · exact h1.dropPools _
              · exact h1

theorem State.memWf.chosen (hs : s.memWf) (q : Queued) (j : Job) : (s.chosen q j).1.memWf := by
  unfold State.chosen
  split
  · exact hs
  · exact hs.loadFor _ _

theorem State.memWf.check (hs : s.memWf) (q : Queued) (j : Job) (privileged : Bool) : (s.check q j privileged).1.memWf := by
  unfold State.check
  split
  · exact hs
  · split
    · next hc => exact (hs.chosen _ _).of_fst hc
    · next hc =>
      have h1 := (hs.chosen _ _).of_fst hc
      split
      · exact h1
      · exact (h1.askUnload _).checkJob _ _ _

theorem State.memWf.start (hs : s.memWf) (q : Queued) (id : Nat) (privileged : Bool) : (s.start q id privileged).memWf := by
  unfold State.start
  extract_lets j0 j s0 s1 signal
  have h0 : s0.memWf := hs.same
  have h1 : s1.memWf := by
    unfold s1
    split
    · exact h0.giveLate _ _ _
    · exact h0
  split
  · exact h1.same
  · split
    · next hc => exact ((h1.check _ _ _).of_fst hc).storeWord _ _ _
    · next hc =>
      have h2 := (h1.check _ _ _).of_fst hc
      exact h2.same

theorem State.memWf.startNext (hs : s.memWf) (q : Queued) (privileged : Bool) {popped : State} (hs' : popped.memWf) :
    (s.startNext q privileged popped).memWf := by
  unfold State.startNext
  split
  · exact hs'.start _ _ _
  · split
    · exact hs
    · exact (hs'.modPart _ _).start _ _ _

theorem State.memWf.execLaunchStart (hs : s.memWf) (queue : BitVec 5) : Out.memWf (execLaunchStart queue s) := by
  unfold Sys2Proof.Machine.execLaunchStart
  apply State.memWf.next
  split
  · exact hs
  · split
    · exact hs
    · split
      · split
        · exact hs
        · exact hs.startNext _ _ (hs.modPart _ _)
      · split
        · exact hs.startNext _ _ hs.same
        · exact hs.startNext _ _ hs

theorem State.memWf.report (hs : s.memWf) (j : Job) (d : Nat) : (s.report j d).memWf := hs.modJob _ _

theorem State.memWf.execDieReport (hs : s.memWf) (j : JobRef) (d : BitVec 2) : Out.memWf (execDieReport j d s) := by
  unfold Sys2Proof.Machine.execDieReport
  apply State.memWf.next
  split
  · exact hs
  · split
    · exact hs
    · split
      · exact hs.report _ _
      · split
        · dsimp only
          split
          · exact (hs.foldl _ (fun _ _ ht => ht.discardWg _ _)).report _ _
          · exact hs.foldl _ (fun _ _ ht => ht.discardWg _ _)
        · exact hs

theorem State.memWf.execCompletionSignal (hs : s.memWf) (j : JobRef) : Out.memWf (execCompletionSignal j s) := by
  apply State.memWf.next
  split
  · exact hs
  · next x _ =>
    split
    · have h1 := hs.storeWord x x.signalVa x.signal
      have h2 := (State.memWf.dropPools (h1.same (t := { State.storeWord s x x.signalVa x.signal with
        jobs := (s.storeWord x x.signalVa x.signal).jobs.filter (fun y => y.ref != j) })) j).unloadIdle
      exact State.memWf.ite h2.same h2
    · exact hs

theorem State.memWf.execParkLimitExpiry (hs : s.memWf) (j : JobRef) : Out.memWf (execParkLimitExpiry j s) := by
  unfold Sys2Proof.Machine.execParkLimitExpiry
  apply State.memWf.next
  split
  · split
    · exact hs
    · dsimp only
      split
      · exact hs
      · split
        · exact hs
        · split
          · exact hs
          · split
            · exact hs.request _ _
            · split
              · exact hs
              · exact hs.same
  · exact hs

theorem State.memWf.lastReport (hs : s.memWf) (r : JobRef) : (s.lastReport r).memWf := by
  unfold State.lastReport
  split
  · exact hs
  · dsimp only
    split
    · exact hs.modJob _ _
    · split
      · exact (hs.foldl _ (fun _ _ ht => ht.discardWg _ _)).modJob _ _
      · exact hs

theorem State.memWf.loseDie (hs : s.memWf) (d : Nat) : (s.loseDie d).memWf := by
  unfold State.loseDie
  refine State.memWf.foldl ?_ _ (fun _ _ ht => ht.lastReport _)
  refine State.memWf.same (s := List.foldl _ s _) ?_
  exact hs.foldl _ (fun _ _ ht => (ht.foldl _ (fun _ _ hu => hu.discardWg _ _)).modJob _ _)

theorem State.memWf.execDieLoss (hs : s.memWf) (d : BitVec 2) : Out.memWf (execDieLoss d s) := by
  unfold Sys2Proof.Machine.execDieLoss
  apply State.memWf.next
  split
  · exact hs
  · split
    · exact hs
    · exact (hs.modDie _ _).loseDie _

theorem State.memWf.resumeJobs (hs : s.memWf) (part : Nat) (ids : List Nat) : (s.resumeJobs part ids).memWf :=
  hs.foldl _ (fun _ _ ht => ht.modJob _ _)

theorem State.memWf.takeCheckpoint (hs : s.memWf) (x : Stop) (area : Word64) (hold : Bool) :
    (s.takeCheckpoint x area hold).memWf := by
  unfold State.takeCheckpoint
  split
  · exact hs
  · dsimp only
    split
    · exact ((hs.writeBack _ _).same).foldl _ (fun _ _ ht => ht.giveAway _ _)
    · exact (hs.writeBack _ _).same

theorem State.memWf.endStop (hs : s.memWf) (x : Stop) : (s.endStop x).memWf := by
  unfold State.endStop
  dsimp only
  split
  · split
    · exact hs.same.giveLate _ _ _
    · exact hs.same
  · split
    · exact (hs.same.takeCheckpoint _ _ _).respond _
    · exact ((hs.same.takeCheckpoint _ _ _).respond _).resumeJobs _ _

theorem State.memWf.moveStop (hs : s.memWf) (x : Stop) : (s.moveStop x).memWf := by
  unfold State.moveStop
  dsimp only
  split
  · exact hs.endStop _
  · split
    · exact hs.same
    · split
      · exact (hs.modJob _ _).foldl _ (fun _ _ ht => ht.request _ _)
      · split
        · exact hs
        · exact hs.same
      · exact hs.same

theorem State.memWf.execGraphStopJob (hs : s.memWf) (part : BitVec 4) : Out.memWf (execGraphStopJob part s) := by
  unfold Sys2Proof.Machine.execGraphStopJob
  apply State.memWf.next
  split
  · exact hs
  · exact (hs.resumeJobs _ _).moveStop _

/-! ## Collectives -/

theorem State.memWf.collError (hs : s.memWf) (c : Cmd) (code sub : BitVec 8) : (s.collError c code sub).memWf :=
  (hs.setCmd _).dropBytes _

theorem State.memWf.failGroup (hs : s.memWf) (part num : Nat) (fired : Bool) : (s.failGroup part num fired).memWf :=
  hs.foldl _ (fun _ _ ht => ht.collError _ _ _)

theorem State.memWf.combineColl (hs : s.memWf) (c : Cmd) (g : Group) (own : List Byte) (contribs : List (Nat × List Byte)) :
    (s.combineColl c g own contribs).memWf := by
  unfold State.combineColl
  dsimp only
  split
  · exact hs
  · split
    · exact hs.collError _ _ _
    · exact hs.setCmd _

theorem State.memWf.execCollectiveResult (hs : s.memWf) (cmd : Nat) (contribs : Contribs) :
    Out.memWf (execCollectiveResult cmd contribs s) := by
  unfold Sys2Proof.Machine.execCollectiveResult
  apply State.memWf.next
  split
  · exact hs
  · split
    · split
      · exact hs
      · split
        · exact hs.collError _ _ _
        · split
          · exact hs.collError _ _ _
          · split
            · exact hs
            · split
              · exact hs.cmdPage _ _ _ _ _ _
              · exact hs.combineColl _ _ _ _
    · exact hs

theorem State.memWf.execPeerGroupChange (hs : s.memWf) (part : BitVec 4) (group : BitVec 8) (rank : BitVec 10)
    (created : Bool) : Out.memWf (execPeerGroupChange part group rank created s) := by
  unfold Sys2Proof.Machine.execPeerGroupChange
  apply State.memWf.next
  split
  · exact hs
  · dsimp only
    split
    · exact hs
    · split
      · exact hs.modPart _ _
      · exact (hs.modPart _ _).failGroup _ _ _

/-! ## Translation invalidation -/

theorem State.memWf.tlbi (hs : s.memWf) (c : Cur) (kind : BitVec 2) (v : Word64) : (s.tlbi c kind v).memWf :=
  hs.same.setFrag _

theorem State.memWf.settleStore (hs : s.memWf) (r : FragRef) (id : Nat) : (s.settleStore r id).memWf := by
  unfold State.settleStore
  split
  · exact hs.translateStore _ _
  · exact hs

theorem State.memWf.settleStores (hs : s.memWf) (mine : JobRef → Bool) (t : Nat → Bool) : (s.settleStores mine t).memWf := by
  unfold State.settleStores
  exact (hs.foldl _ (fun _ _ ht => ht.foldl _ (fun _ _ ht => ht.settleStore _ _))).foldl _ (fun _ _ ht => by
    split
    · exact ht
    · exact ht.foldl _ (fun _ _ ht => ht.translateOrphan _ _ _ _))

theorem State.memWf.settleFlight (hs : s.memWf) (r : FragRef) : (s.settleFlight r).memWf := by
  refine hs.foldl _ (fun t _ ht => ?_)
  split
  · exact ht
  · split
    · exact ht.aheadOf _ _ _
    · exact ht

theorem State.memWf.settleAccesses (hs : s.memWf) (mine : JobRef → Bool) (t : Nat → Bool) :
    (s.settleAccesses mine t).memWf := by
  unfold State.settleAccesses
  extract_lets s1 s2 s3
  have h2 : s2.memWf := (hs.settleStores mine t).foldl _ (fun _ _ ht => ht.settleFlight _)
  have h3 : s3.memWf := h2.foldl _ (fun _ _ ht => ht.foldl _ (fun _ _ hu => hu.landChunk _ _))
  exact h3.landIf _

theorem State.memWf.squashStarted (hs : s.memWf) (mine : JobRef → Bool) (t : Nat → Bool) : (s.squashStarted mine t).memWf :=
  hs.same

theorem State.memWf.tlbiDone {u : State} (hs : u.memWf) (t : TlbiWait) : (u.tlbiDone t).memWf := hs.same.modFrag _ _

theorem State.memWf.execTlbiCompletion (hs : s.memWf) (id : Nat) : Out.memWf (execTlbiCompletion id s) := by
  unfold Sys2Proof.Machine.execTlbiCompletion
  apply State.memWf.next
  split
  · exact hs
  · dsimp only
    split
    · exact hs
    · exact (hs.settleAccesses _ _).tlbiDone _

theorem State.memWf.execTlbiDrainExpiry (hs : s.memWf) (id : Nat) : Out.memWf (execTlbiDrainExpiry id s) := by
  unfold Sys2Proof.Machine.execTlbiDrainExpiry
  apply State.memWf.next
  split
  · exact hs
  · split
    · exact (hs.settleAccesses _ _).tlbiDone _
    · exact hs

/-! ## System calls -/

theorem State.memWf.unstated (hs : s.memWf) (a : Asked) : (s.unstated a).1.memWf := hs

theorem State.memWf.lanesCall (hs : s.memWf) {eff : State → Asked → State × Answer}
    (heff : ∀ a b, State.memWf a → (eff a b).1.memWf) (d : Nat) (r : SqRec) (j : Job) (is : List Nat) (m : Sparse 8) :
    (State.lanesCall eff d r j is m s).1.memWf := by
  induction is generalizing s m with
  | nil => exact hs
  | cons i is ih =>
    unfold State.lanesCall
    dsimp only
    split
    · next he => exact ih ((heff _ _ hs).of_fst he) _
    · next he => exact ih ((heff _ _ hs).of_fst he) _
    · next he => exact (heff _ _ hs).of_fst he

theorem State.memWf.callTrap (hs : s.memWf) (d : Nat) (r : SqRec) (fault sub : BitVec 8) :
    (s.callTrap d r fault sub).memWf := by
  unfold State.callTrap
  exact State.memWf.fireReply (by
    split
    · exact hs.modDie _ _
    · exact State.memWf.ite (((hs.modDie _ _).noteWake _).raise _ _) (hs.modDie _ _)) _

theorem State.memWf.putReplies (hs : s.memWf) (d : Nat) (r : SqRec) (status : Option Byte) (m : Sparse 8) :
    (s.putReplies d r status m).memWf :=
  hs.modDie _ _

theorem State.memWf.svcCall (hs : s.memWf) (idem : Bool) {eff : State → Asked → State × Answer}
    (heff : ∀ a b, State.memWf a → (eff a b).1.memWf) (d : Nat) (r : SqRec) : (s.svcCall idem eff d r).memWf := by
  unfold State.svcCall
  split
  · exact hs
  · split
    · exact hs.putReplies _ _ _ _
    · split
      · exact hs.callTrap _ _ _ _
      · next he =>
        have h1 := (hs.lanesCall heff _ _ _ _ _).of_fst he
        exact (h1.ite (h1.modJob _ _)).putReplies _ _ _ _

theorem State.memWf.plainCall (hs : s.memWf) {eff : State → Asked → State × Answer}
    (heff : ∀ a b, State.memWf a → (eff a b).1.memWf) (c : CallSrc) (part : Nat) (a0 a1 : Word64) :
    (s.plainCall eff c part a0 a1).memWf := by
  unfold State.plainCall
  split
  · next he => exact ((heff _ _ hs).of_fst he).giveResult _ _ _
  · next he => exact (heff _ _ hs).of_fst he
  · exact hs.giveResult _ _ _

theorem State.memWf.call (hs : s.memWf) (idem : Bool) (n : Nat → Bool)
    {eff : State → Asked → State × Answer} (heff : ∀ a b, State.memWf a → (eff a b).1.memWf) (c : CallSrc) :
    (s.call idem n eff c).memWf := by
  unfold State.call
  split
  · split
    · exact hs
    · exact hs.svcCall _ (fun _ _ h0 => heff _ _ h0) _ _
  · exact hs.plainCall (fun _ _ h0 => heff _ _ h0) _ _ _ _
  · split
    · exact hs
    · exact hs.plainCall (fun _ _ h0 => heff _ _ h0) _ _ _ _

theorem State.memWf.callWrite (hs : s.memWf) (a : Asked) (va : Word64) (bs : List Byte) : (s.callWrite a va bs).memWf := by
  induction bs generalizing s va with
  | nil => exact hs
  | cons b bs ih =>
    apply ih
    split
    · exact hs.storePlain _ _ _ _
    · exact hs

theorem State.memWf.nullCall (hs : s.memWf) (a : Asked) : (s.nullCall a).1.memWf := hs

theorem State.memWf.completeLaunch (hs : s.memWf) (part : Nat) (addr : Word64) (r : BitVec 2048) (traps : List Word64)
    (armed : Bool) (who : Option Caller) : (s.completeLaunch part addr r traps armed who).1.memWf := by
  unfold State.completeLaunch
  extract_lets
  split
  · exact hs.loadFor _ _
  · exact hs

theorem State.memWf.launch (hs : s.memWf) (a : Asked) : (s.launch a).1.memWf := by
  unfold State.launch
  split
  · split
    · exact hs.unstated _
    · split
      · exact hs
      · split
        · next he => exact ((hs.completeLaunch _ _ _ _ _ _).of_fst he).unstated _
        · next he => exact ((hs.completeLaunch _ _ _ _ _ _).of_fst he).modPart _ _
  · exact hs.unstated _

theorem State.memWf.execLaunch (hs : s.memWf) (c : CallSrc) : Out.memWf (execLaunch c s) := by
  unfold Sys2Proof.Machine.execLaunch
  apply State.memWf.next
  split
  · exact hs.call _ _ (fun _ _ h0 => h0.launch _) _
  · exact hs

theorem State.memWf.ownWrite (hs : s.memWf) (pa : Nat) (bs : List Byte) : (s.ownWrite pa bs).memWf := by
  induction bs generalizing s pa with
  | nil => exact hs
  | cons b bs ih => exact ih (hs.storeDevice _ _ _) _

theorem State.memWf.writeRecord (hs : s.memWf) (pa : Nat) (q : Queued) : (s.writeRecord pa q).memWf := hs.ownWrite _ _

theorem State.memWf.bindRecord (hs : s.memWf) (b entry : Nat) (q : Queued) : (s.bindRecord b entry q).memWf := by
  unfold State.bindRecord
  have h1 := hs.writeRecord s.ownPlace { q with addr := BitVec.ofNat 64 s.ownPlace }
  exact h1.same

theorem State.memWf.armLaunch (hs : s.memWf) (a : Asked) : (s.armLaunch a).1.memWf := by
  unfold State.armLaunch
  split
  · exact hs.unstated _
  · dsimp only
    split
    · exact hs.unstated _
    · split
      · exact hs
      · split
        · next he => exact ((hs.completeLaunch _ _ _ _ _ _).of_fst he).unstated _
        · next he => exact ((hs.completeLaunch _ _ _ _ _ _).of_fst he).bindRecord _ _ _

theorem State.memWf.stopGraph {t : State} (hs : t.memWf) (a : Asked) : (t.stopGraph a).1.memWf := by
  unfold State.stopGraph
  dsimp only
  split
  · exact hs.same
  · exact hs.same

theorem State.memWf.resumeGraph {t : State} (hs : t.memWf) (a : Asked) : (t.resumeGraph a).1.memWf := hs.resumeJobs _ _

theorem State.memWf.copyBytes (hs : s.memWf) (p q : Phys) (i n : Nat) : (s.copyBytes p q i n).memWf := by
  induction n generalizing s i with
  | zero => exact hs
  | succ n ih => exact ih (hs.storePlain _ _ _ _) _

theorem State.memWf.movePage (hs : s.memWf) {part ipa : Nat} {place : BitVec 2} {u : State}
    (h : s.movePage part ipa place = some u) : u.memWf := by
  unfold State.movePage at h
  split at h
  · cases h; exact hs
  · split at h
    · cases h; exact hs
    · dsimp only at h
      split at h
      · cases h; exact hs
      · split at h
        · cases h
        · cases h
          have h1 := ((hs.settleAccesses (fun j => j.part == part) (fun _ => true)).squashStarted (fun j => j.part == part)
            (fun _ => true)).putWord
          exact (State.memWf.copyBytes (h1 _ _).same _ _ _ _).putWord _ _

theorem State.memWf.movePages (hs : s.memWf) {r : Residency} {place : BitVec 2} {vas : List Nat} {u : State}
    (h : s.movePages r place vas = some u) : u.memWf := by
  induction vas generalizing s with
  | nil => cases h; exact hs
  | cons va vas ih =>
    unfold State.movePages at h
    split at h
    · exact ih hs h
    · split at h
      · cases h
      · next hp => exact ih (hs.movePage hp) h

theorem State.memWf.placeTensor (hs : s.memWf) {n : Nat} {place : BitVec 2} {u : State} (h : s.placeTensor n place = some u) :
    u.memWf := by
  unfold State.placeTensor at h
  split at h
  · cases h; exact hs
  · obtain ⟨t, ht, rfl⟩ := Option.map_eq_some_iff.mp h
    exact (hs.movePages ht).same

theorem State.memWf.placeAll (hs : s.memWf) {place : BitVec 2} {ns : List Nat} {u : State} (h : s.placeAll place ns = some u) :
    u.memWf := by
  induction ns generalizing s with
  | nil => cases h; exact hs
  | cons n ns ih =>
    unfold State.placeAll at h
    split at h
    · cases h
    · next hp => exact ih (hs.placeTensor hp) h

theorem State.memWf.placeBest (hs : s.memWf) {r : Residency} {u : State} (h : s.placeBest r = some u) : u.memWf := by
  unfold State.placeBest at h
  dsimp only at h
  split at h
  · cases h
  · next hp =>
    split at h
    · exact (hs.placeAll hp).placeTensor h
    · exact hs.placeTensor h
    · cases h

theorem State.memWf.resCreate (hs : s.memWf) (a : Asked) : (s.resCreate a).1.memWf := by
  unfold State.resCreate
  split
  · exact hs
  · split
    · next hp => exact State.memWf.placeBest hs.same hp
    · exact hs

theorem State.memWf.onHandle {t : State} (hs : t.memWf)
    {eff : State → Residency → State × Answer} (heff : ∀ a b, State.memWf a → (eff a b).1.memWf) (a : Asked) :
    (onHandle eff t a).1.memWf := by
  unfold Sys2Proof.Machine.onHandle
  split
  · exact hs.unstated _
  · exact heff _ _ hs

theorem State.memWf.moved (hs : s.memWf) (r : Residency) (place : BitVec 2) : (s.moved r place).1.memWf := by
  unfold State.moved
  split
  · next hp => exact hs.placeTensor hp
  · exact hs

theorem State.memWf.resDemote (hs : s.memWf) (a : Asked) : (s.resDemote a).1.memWf :=
  hs.onHandle (fun _ _ ht => ht.moved _ _) a

theorem State.memWf.resEvict (hs : s.memWf) (a : Asked) : (s.resEvict a).1.memWf :=
  hs.onHandle (fun _ _ ht => ht.moved _ _) a

theorem State.memWf.resPromote (hs : s.memWf) (a : Asked) : (s.resPromote a).1.memWf := by
  refine hs.onHandle (fun _ _ ht => ?_) a
  split
  · next hp => exact ht.placeBest hp
  · exact ht

theorem State.memWf.resFree (hs : s.memWf) (a : Asked) : (s.resFree a).1.memWf :=
  hs.onHandle (fun _ _ ht => ht.same) a

theorem State.memWf.mapCall (hs : s.memWf) (a : Asked) : (s.mapCall a).1.memWf := by
  unfold State.mapCall
  dsimp only
  split
  · exact hs
  · split
    · next hp => exact hs.mapPages hp
    · exact hs

theorem State.memWf.unmapPage (hs : s.memWf) (t : Tree) (va : Nat) : (s.unmapPage t va).memWf := by
  unfold State.unmapPage
  split
  · exact hs
  · exact hs.putWord _ _

theorem State.memWf.unmapCall {t : State} (hs : t.memWf) (a : Asked) : (t.unmapCall a).1.memWf :=
  hs.foldl _ (fun _ _ ht => ht.unmapPage _ _)

theorem State.memWf.protectCall {t : State} (hs : t.memWf) (a : Asked) : (t.protectCall a).1.memWf := by
  unfold State.protectCall
  split
  · exact hs.unstated _
  · dsimp only
    split
    · exact hs
    · split
      · exact hs.same
      · exact hs.unstated _

theorem State.memWf.zeroKeys (hs : s.memWf) (m : Word64) : (s.zeroKeys m).memWf := hs.same

theorem State.memWf.teardownCall {t : State} (hs : t.memWf) (a : Asked) : (t.teardownCall a).1.memWf := by
  unfold State.teardownCall
  split
  · exact hs.unstated _
  · split
    · exact hs
    · exact hs.same

theorem State.memWf.attestCall {t : State} (hs : t.memWf) (a : Asked) : (t.attestCall a).1.memWf := by
  unfold State.attestCall
  split
  · exact (hs.callWrite _ _ _).same
  · exact hs.unstated _

theorem State.memWf.mcLoad {t : State} (hs : t.memWf) (a : Asked) : (t.mcLoad a).1.memWf := by
  unfold State.mcLoad
  split
  · exact hs
  · split
    · exact hs.unstated _
    · exact hs.same

theorem State.memWf.collGroup {t : State} (hs : t.memWf) (a : Asked) : (t.collGroup a).1.memWf := by
  unfold State.collGroup
  split
  · exact hs.unstated _
  · dsimp only
    split
    · exact hs.unstated _
    · split
      · exact hs
      · split
        · exact hs
        · exact hs.modPart _ _

theorem State.memWf.collFree {t : State} (hs : t.memWf) (a : Asked) : (t.collFree a).1.memWf := by
  unfold State.collFree
  exact State.memWf.modPart (by
    split
    · exact hs
    · exact hs.failGroup _ _ _) _ _

theorem State.memWf.handlerCall {t : State} (hs : t.memWf) (status : BitVec 8) (result : Word64) (a : Asked) :
    (State.handlerCall status result t a).1.memWf := by
  unfold State.handlerCall
  split
  · exact hs
  · exact hs

theorem State.memWf.noHandler (hs : s.memWf) (a : Asked) : (s.noHandler a).1.memWf := hs

theorem State.memWf.execControlProgramCall (hs : s.memWf) (c : CallSrc) (status : BitVec 8) (result : Word64) :
    Out.memWf (execControlProgramCall c status result s) := by
  unfold Sys2Proof.Machine.execControlProgramCall
  split
  · exact (hs.call _ _ (fun _ _ h0 => h0.handlerCall _ _ _) _).next
  · exact (hs.call _ _ (fun _ _ h0 => h0.noHandler _) _).next

/-! ## The monitor -/

theorem State.memWf.freezeIf (hs : s.memWf) (r : FragRef) : (s.freezeIf r).memWf := by
  unfold State.freezeIf
  split
  · exact hs
  · split
    · exact hs.setFrag _
    · exact hs

theorem State.memWf.freezeGroup {t : State} (hs : t.memWf) (g : WgRef) : (t.freezeGroup g).memWf :=
  (((hs.enterIf _ _).modWg _ _).withdrawTraps _).foldl _ (fun _ _ ht => ht.freezeIf _)

theorem State.memWf.thawGroup (hs : s.memWf) (g : WgRef) : (s.thawGroup g).memWf := ((hs.modWg _ _).modFrags _ _).applyHeld _

theorem State.memWf.execFreezePointHit (hs : s.memWf) (r : FragRef) : Out.memWf (execFreezePointHit r s) := by
  unfold Sys2Proof.Machine.execFreezePointHit
  apply State.memWf.next
  split
  · exact hs
  · split
    · exact hs.freezeGroup _
    · exact hs

theorem State.memWf.execStepEnd (hs : s.memWf) (r : FragRef) : Out.memWf (execStepEnd r s) := by
  unfold Sys2Proof.Machine.execStepEnd
  apply State.memWf.next
  split
  · exact hs
  · split
    · exact (hs.modFrag _ _).freezeIf _
    · exact hs

/-- A monitor's request changes memory as its effect does. -/
theorem State.memWf.request1 (hs : s.memWf) (j : JobRef) {eff : Job → State × Byte} (heff : ∀ a, (eff a).1.memWf) :
    (s.request1 j eff).memWf := by
  unfold State.request1
  split
  · exact hs.respond _
  · split
    · exact hs.respond _
    · split
      · exact (hs.modJob _ _).respond _
      · exact (heff _).respond _

theorem State.memWf.execFreeze (hs : s.memWf) (j : JobRef) (wg : BitVec 32) : Out.memWf (execFreeze j wg s) := by
  refine (hs.request1 j (fun _ => ?_)).next
  dsimp only
  split
  · exact hs
  · exact hs.foldl _ (fun _ _ ht => ht.freezeGroup _)

theorem State.memWf.execThaw (hs : s.memWf) (j : JobRef) (wg : BitVec 32) : Out.memWf (execThaw j wg s) := by
  refine (hs.request1 j (fun _ => ?_)).next
  dsimp only
  split
  · exact hs
  · split
    · exact hs
    · exact hs.foldl _ (fun _ _ ht => ht.thawGroup _)

theorem State.memWf.execStep (hs : s.memWf) (r : FragRef) (count : BitVec 16) : Out.memWf (execStep r count s) := by
  refine (hs.request1 _ (fun _ => ?_)).next
  split
  · exact hs
  · split
    · exact hs
    · split
      · exact hs
      · exact hs.setFrag _

theorem State.memWf.execFreezept (hs : s.memWf) (j : JobRef) (slot : BitVec 3) (addr : Word64) :
    Out.memWf (execFreezept j slot addr s) :=
  (hs.request1 _ (fun _ => hs.modJob _ _)).next

/-- Bytes that the monitor's READ copies to the host are written one by one. -/
theorem State.memWf.hostImage (hs : s.memWf) (a : Nat) (bs : List Byte) :
    State.memWf { s with hostMem := s.hostMem.setList a bs } := by
  obtain ⟨hm, hh, hp⟩ := hs
  exact ⟨hm, Memory.wf_setList _ _ _ hh, hp⟩

theorem State.memWf.execRead (hs : s.memWf) (w : WaveRef) (host : Word64) : Out.memWf (execRead w host s) := by
  unfold Sys2Proof.Machine.execRead
  refine (hs.request1 _ (fun _ => ?_)).next
  split
  · exact hs
  · dsimp only
    split
    · exact hs
    · exact hs.hostImage _ _

theorem State.memWf.execWrite (hs : s.memWf) (w : WaveRef) (host : Word64) : Out.memWf (execWrite w host s) := by
  refine (hs.request1 _ (fun _ => ?_)).next
  split
  · exact hs
  · dsimp only
    split
    · exact hs
    · exact hs.same

theorem State.memWf.execLog (hs : s.memWf) (j : JobRef) (area bytes : Word64) (mode : BitVec 2) :
    Out.memWf (execLog j area bytes mode s) := by
  refine (hs.request1 _ (fun _ => ?_)).next
  split
  · exact hs
  · exact hs.modJob _ _

theorem State.memWf.execCheckpoint (hs : s.memWf) (part : BitVec 4) (graph area : Word64) (hold : Bool) :
    Out.memWf (execCheckpoint part graph area hold s) := by
  unfold Sys2Proof.Machine.execCheckpoint
  apply State.memWf.next
  extract_lets g s1
  have h1 : s1.memWf := hs.respond 3
  clear_value s1
  split
  · exact h1.same
  · exact hs.same

/-- The recursion's equation. The name that a job takes is sought in a list that evaluation must not unroll, so the search is
made a variable first. -/
theorem State.newIds_cons (s : State) (part i : Nat) (is : List Nat) : s.newIds part (i :: is) =
    match s.nextJobid part with
    | none => none
    | some n =>
      (State.newIds { s.modPart part (fun p => { p with lastJob := some n }) with
        jobs := s.jobs ++ [({ part := part, addr := 0, record := 0, traps := [], armed := false, copies := none, caller := none } :
          Queued).job n 0] } part is).map (fun r => (r.1, (i, n) :: r.2)) := by
  delta State.newIds State.newIds._f
  generalize State.nextJobid = next
  rfl

theorem State.memWf.newIds (hs : s.memWf) {part : Nat} {is : List Nat} {u : State} {ids : List (Nat × Nat)}
    (h : s.newIds part is = some (u, ids)) : u.memWf := by
  induction is generalizing s ids with
  | nil =>
    cases h
    exact hs
  | cons i is ih =>
    rw [State.newIds_cons] at h
    split at h
    · cases h
    · obtain ⟨⟨t, xs⟩, ht, he⟩ := Option.map_eq_some_iff.mp h
      obtain ⟨rfl, -⟩ := Prod.mk.inj he
      exact ih hs.same ht

theorem State.memWf.putBack (hs : s.memWf) (c : Checkpoint) (ids : List (Nat × Nat)) (frames : List (Nat × Nat)) :
    (s.putBack c ids frames).memWf :=
  hs.same

theorem State.memWf.framesSay (hs : s.memWf) (was now : Checkpoint) (ids : List (Nat × Nat)) :
    (s.framesSay was now ids).memWf :=
  hs.foldl _ (fun _ _ ht => ht.applyFrames _ _ _)

theorem State.memWf.execRestore (hs : s.memWf) (part : BitVec 4) (area : Word64) : Out.memWf (execRestore part area s) := by
  unfold Sys2Proof.Machine.execRestore
  apply State.memWf.next
  split
  · exact hs.respond _
  · extract_lets c
    split
    · next s1 ids ns hi _ =>
      extract_lets frames s2 s3 s4 s5
      have h2 : s2.memWf := (hs.newIds hi).foldl _ (fun _ _ ht => ht.writeBack _ _)
      have h3 : s3.memWf := (h2.modPart _ _).putBack _ _ _
      have h4 : s4.memWf := by
        unfold s4
        split
        · exact h3
        · exact h3.fillFrames _ _
      have h5 : s5.memWf := by
        refine h4.foldl _ (fun _ _ ht => ?_)
        split
        · exact ht.writeVa _ _ _ _
        · exact ht
      exact (h5.framesSay _ _ _).respond _
    · exact hs.respond _

theorem State.memWf.nextOr (hs : s.memWf) {o : Out} (ho : Out.memWf o) : (nextOr s o).memWf := by
  unfold Sys2Proof.Machine.nextOr
  split
  · exact ho _ rfl
  · exact hs

theorem State.memWf.serveMonitor (hs : s.memWf) : s.serveMonitor.memWf := by
  unfold State.serveMonitor
  refine hs.nextOr ?_
  dsimp only
  have h3 := (hs.respond 3).next
  split
  · exact hs.execFreeze _ _
  · exact hs.execThaw _ _
  · split
    · exact hs.execStep _ _
    · exact h3
  · split
    · exact hs.execFreezept _ _ _
    · exact h3
  · exact hs.execRead _ _
  · exact hs.execWrite _ _
  · split
    · exact hs.execCheckpoint _ _ _ _
    · exact h3
  · exact hs.execRestore _ _
  · split
    · exact hs.execLog _ _ _ _
    · exact h3
  · exact h3

/-! ## Control registers -/

theorem State.memWf.discardJob (hs : s.memWf) (j : Job) : (s.discardJob j).memWf :=
  ((hs.foldl _ (fun _ _ ht => ht.discardWg _ _)).same).unloadIdle

theorem State.memWf.resetPart (hs : s.memWf) (p : Part) : (s.resetPart p).memWf := by
  unfold State.resetPart
  extract_lets s1 c busy
  have h1 : s1.memWf := hs.foldl _ (fun _ _ ht => ht.discardJob _)
  exact (h1.zeroKeys p.keyslots).same

theorem State.memWf.execReset (hs : s.memWf) (part : BitVec 4) : Out.memWf (execReset part s) := by
  unfold Sys2Proof.Machine.execReset
  apply State.memWf.next
  split
  · exact hs
  · exact hs.resetPart _

theorem State.memWf.execRegisterWrite (hs : s.memWf) (r : CtlReg) (v : BitVec 512) : Out.memWf (execRegisterWrite r v s) := by
  unfold Sys2Proof.Machine.execRegisterWrite
  apply State.memWf.next
  split
  · exact hs.modPart _ _
  · exact hs.modPart _ _
  · exact hs.modPart _ _
  · exact hs.modPart _ _
  · exact hs.modPart _ _
  · exact hs.modPart _ _
  · exact hs.modPart _ _
  · exact hs.modPart _ _
  · exact hs.same
  · exact hs.same
  · exact hs.same
  · exact hs.same
  · exact hs.same
  · split
    · exact hs.same.serveMonitor
    · exact hs
  · exact hs.modPart _ _
  · exact hs.modPart _ _

theorem State.memWf.execFloorRaise (hs : s.memWf) (version : Nat) (signed : Bool) :
    Out.memWf (execFloorRaise version signed s) := by
  unfold Sys2Proof.Machine.execFloorRaise
  apply State.memWf.next
  split
  · exact hs.same
  · exact hs

theorem State.memWf.afterReset (hs : s.memWf) (f : Firmware) : (s.afterReset f).memWf := hs.same

theorem State.memWf.execModuleReset (hs : s.memWf) : Out.memWf (execModuleReset s) := by
  unfold Sys2Proof.Machine.execModuleReset
  apply State.memWf.next
  extract_lets b f s0 s1
  have h0 : s0.memWf := hs.afterReset _
  have h1 : s1.memWf := State.memWf.ite h0 h0.same
  exact State.memWf.ite h1.same h1

theorem State.memWf.execPowerLoss (hs : s.memWf) : Out.memWf (execPowerLoss s) := by
  obtain ⟨-, hh, hp⟩ := hs
  exact State.memWf.next ⟨rfl, hh, hp⟩

theorem State.memWf.clearCore (hs : s.memWf) (die core : Nat) : (s.clearCore die core).memWf := hs.same

theorem State.memWf.clearPage (hs : s.memWf) (pa : Nat) : (s.clearPage pa).memWf := by
  obtain ⟨hm, hh, hp⟩ := hs
  exact ⟨Memory.wf_erase _ _ _ hm, hh, hp⟩

theorem State.memWf.scrubNext (hs : s.memWf) (x : Context) : (s.scrubNext x).memWf := by
  unfold State.scrubNext
  dsimp only
  split
  · exact hs.clearCore _ _
  · exact hs.clearPage _

theorem State.memWf.execScrubUnit (hs : s.memWf) (ctx : Nat) : Out.memWf (execScrubUnit ctx s) := by
  unfold Sys2Proof.Machine.execScrubUnit
  apply State.memWf.next
  split
  · exact hs
  · split
    · exact hs
    · dsimp only
      split
      · exact (hs.scrubNext _).same
      · split
        · exact ((hs.scrubNext _).same).modPart _ _
        · exact (hs.scrubNext _).same

/-! ## Network, harts and module events -/

theorem State.memWf.dropFrame (hs : s.memWf) (r : Nat) : (s.dropFrame r).memWf := hs.same

theorem State.memWf.putBytes (hs : s.memWf) (part : Nat) (xs : List (Phys × Byte)) : (s.putBytes part xs).memWf := by
  induction xs generalizing s with
  | nil => exact hs
  | cons x xs ih => exact ih (hs.storePlain _ _ _ _)

theorem State.memWf.ringWrite (hs : s.memWf) (r entry : Nat) (f : List Byte) : (s.ringWrite r entry f).memWf := by
  unfold State.ringWrite
  dsimp only
  split
  · exact hs.dropFrame _
  · split
    · exact hs.dropFrame _
    · split
      · exact hs.dropFrame _
      · split
        · exact hs.dropFrame _
        · exact (hs.putBytes _ _).putBytes _ _

theorem State.memWf.renew (hs : s.memWf) (b : Nat) : (s.renew b).memWf := by
  unfold State.renew
  split
  · exact hs
  · split
    · exact hs
    · extract_lets q j args r s1 d l k addr q1 e s2
      have h1 : s1.memWf := hs.foldl _ (fun _ _ ht => ht.storeWord _ _ _)
      have h2 : s2.memWf := h1.writeRecord _ _
      clear_value s2
      exact h2.same

theorem State.memWf.fireBinding (hs : s.memWf) (b entry : Nat) (places : List Phys) (payload : List Byte) :
    (s.fireBinding b entry places payload).memWf := by
  unfold State.fireBinding
  extract_lets s e q e1 s1 s2 j s3
  have h1 : s1.memWf := (hs.renew b).same
  have h3 : s3.memWf := (h1.putBytes _ _).storeWord _ _ _
  exact h3.same

theorem State.memWf.armedFrame (hs : s.memWf) (entry : Nat) (e : BitVec 128) (f : List Byte) :
    (s.armedFrame entry e f).memWf := by
  unfold State.armedFrame
  dsimp only
  split
  · split
    · exact hs.same
    · exact hs.ringWrite _ _ _
    · exact hs
  · split
    · split
      · exact hs.same
      · exact hs.ringWrite _ _ _
      · exact hs
    · split
      · split
        · exact hs.same
        · exact hs.ringWrite _ _ _
        · exact hs
      · exact hs.fireBinding _ _ _ _

theorem State.memWf.execFrameArrival (hs : s.memWf) (frame : List Byte) : Out.memWf (execFrameArrival frame s) := by
  unfold Sys2Proof.Machine.execFrameArrival
  apply State.memWf.next
  split
  · exact hs.same
  · split
    · exact hs.same
    · exact hs.ringWrite _ _ _
    · exact hs.armedFrame _ _ _
    · exact hs

theorem State.memWf.remoteWrite (hs : s.memWf) (tgt : RemoteAddr) (i : Nat) (bs : List Byte) :
    (s.remoteWrite tgt i bs).memWf := by
  induction bs generalizing s i with
  | nil => exact hs
  | cons b bs ih =>
    apply ih
    split
    · exact hs.storeDevice _ _ _
    · exact hs

theorem State.memWf.execPeerAtomicArrival (hs : s.memWf) (tgt : RemoteAddr) (ty : BitVec 5) (op : BitVec 4) (b c : Word64) :
    Out.memWf (execPeerAtomicArrival tgt ty op b c s) := by
  unfold Sys2Proof.Machine.execPeerAtomicArrival
  apply State.memWf.next
  split
  · exact hs
  · split
    · split
      · exact hs.storeDevice _ _ _
      · exact hs.touchLine _
    · exact hs

theorem State.memWf.execUcieModuleFailure (hs : s.memWf) (d : BitVec 2) (m : BitVec 4) :
    Out.memWf (execUcieModuleFailure d m s) := by
  unfold Sys2Proof.Machine.execUcieModuleFailure
  apply State.memWf.next
  split
  · exact hs
  · split
    · exact hs
    · dsimp only
      split
      · exact hs.same.loseDie _
      · exact hs.same

theorem State.memWf.failGroups (hs : s.memWf) : s.failGroups.memWf := hs.foldl _ (fun _ _ ht => ht.failGroup _ _ _)

theorem State.memWf.execPortFailure (hs : s.memWf) (plane : BitVec 5) (module : BitVec 10) :
    Out.memWf (execPortFailure plane module s) := by
  unfold Sys2Proof.Machine.execPortFailure
  apply State.memWf.next
  dsimp only
  split
  · exact hs.same.failGroups
  · exact hs

theorem State.memWf.corePut (hs : s.memWf) (h pa n v : Nat) : (s.corePut h pa n v).memWf := by
  unfold State.corePut
  split
  · exact hs
  · split
    · exact hs.sendLate _ _ _ _ _
    · exact hs.perform _ _ _ _

theorem State.memWf.coreStore (hs : s.memWf) (h pa n v : Nat) : (s.coreStore h pa n v).memWf := by
  unfold State.coreStore
  split
  · exact hs.corePut _ _ _ _
  · exact hs.foldl _ (fun _ _ ht => ht.corePut _ _ _ _)

theorem State.memWf.coreLoad (hs : s.memWf) (h pa n : Nat) : (s.coreLoad h pa n).2.memWf := hs.same

theorem State.memWf.coreOld (hs : s.memWf) (pa n : Nat) : (s.coreOld pa n).2.memWf := by
  unfold State.coreOld
  dsimp only
  split
  · exact hs.landAt _
  · exact hs

theorem State.memWf.coreGets (hs : s.memWf) (hart : Nat) (rd : BitVec 5) (v : Word64) : (s.coreGets hart rd v).memWf := by
  unfold State.coreGets
  split
  · exact hs
  · exact hs.same

theorem State.memWf.corePast (hs : s.memWf) (hart : Nat) (short : Bool) : (s.corePast hart short).memWf := hs.same

theorem State.memWf.coreGetsF (hs : s.memWf) (hart : Nat) (fd : BitVec 5) (v : Word64) : (s.coreGetsF hart fd v).memWf :=
  hs.same

theorem State.memWf.coreGetsV (hs : s.memWf) (hart : Nat) (vd : BitVec 5) (o n v : Nat) : (s.coreGetsV hart vd o n v).memWf :=
  hs.same

theorem State.memWf.coreWrite (hs : s.memWf) (hart : Nat) (x : CoreReg × Word64) : (s.coreWrite hart x).memWf := by
  unfold State.coreWrite
  split
  · exact hs.coreGets _ _ _
  · exact hs.coreGetsF _ _ _
  · exact hs.coreGetsV _ _ _ _ _
  · exact hs.same

theorem State.memWf.hartPeek (hs : s.memWf) (hart pa : Nat) : (s.hartPeek hart pa).memWf := by
  unfold State.hartPeek
  split
  · exact hs
  · exact hs.same

theorem State.memWf.coreFence (hs : s.memWf) (hart : Nat) (io : Bool) : (s.coreFence hart io).memWf := by
  unfold State.coreFence
  split
  · exact (hs.landGroup _).same
  · exact hs

theorem State.memWf.execControlCoreAccess (hs : s.memWf) (hart : BitVec 5) (pa : BitVec 44) (op : CoreOp) :
    Out.memWf (execControlCoreAccess hart pa op s) := by
  unfold Sys2Proof.Machine.execControlCoreAccess
  apply State.memWf.next
  split
  · exact ((hs.coreLoad _ _ _).coreGets _ _ _).corePast _ _
  · exact (hs.coreStore _ _ _ _).corePast _ _
  · exact ((hs.coreLoad _ _ _).coreGetsF _ _ _).corePast _ _
  · exact (hs.coreStore _ _ _ _).corePast _ _
  · exact (hs.coreLoad _ _ _).coreGetsV _ _ _ _ _
  · exact hs.coreStore _ _ _ _
  · exact (hs.foldl _ (fun _ _ ht => ht.coreWrite _ _)).same
  · split
    · exact (State.memWf.coreGets (by
    split
    · exact (hs.coreOld _ _).perform _ _ _ _
    · exact hs.coreOld _ _) _ _ _).corePast _ _
    · exact hs
  · split
    · exact (((hs.coreGets _ _ _).same).same).corePast _ _
    · exact hs
  · split
    · split
      · exact (((hs.coreStore _ _ _ _).same).coreGets _ _ _).corePast _ _
      · exact (hs.same.coreGets _ _ _).corePast _ _
    · exact hs
  · exact (hs.coreFence _ _).corePast _ _

/-! ## Every instruction -/

theorem State.memWf.exec (hs : s.memWf) (i : Instr) : Out.memWf (exec i s) := by
  unfold Sys2Proof.Machine.exec
  cases i with
  | saddR | ssub | smul | smulh | sandR | sorR | sxorR | sshlR | sshrR | ssraR | smin | smax | scmp => exact hs.aluR _ _ _ _
  | ssel | sli => exact hs.scalarRun _ (fun _ => hs.putS _ _ _)
  | saddI | sandI | sorI | sxorI | sshlI | sshrI | ssraI | slui => exact hs.aluI _ _ _
  | sld => exact hs.scalarRun _ (fun _ => hs.loadScalar _ _ (fun _ _ => hs.putS _ _ _))
  | sst => exact hs.execSst _ _ _
  | sldk => exact hs.scalarRun _ (fun _ => State.memWf.ite (hs.trapScalar _ _ _ _) (hs.putS _ _ _))
  | sysrd => exact hs.execSysrd _ _
  | syswrExec | syswrFmode | syswrFflags | call | nop | yieldSlot | smode | ljump => exact hs.scalarRun _ (fun _ => hs.setFrag _)
  | syswrPev | ifence => exact hs.scalarRun _ (fun _ => (hs.setWave _).setFrag _)
  | syswrEvmask | disarm => exact hs.scalarRun _ (fun _ => ((hs.setWave _).setFrag _).settle _)
  | syswrReadonly => exact hs.scalarRun _ (fun _ => hs.trapScalar _ _ _ _)
  | bc | bcMask => exact hs.scalarRun _ (fun _ => hs.branchIf _ _ _)
  | split => exact hs.execSplit _ _ _
  | jmp => exact hs.scalarRun _ (fun _ => hs.branch _ _)
  | waitaddr => exact hs.execWaitaddr _ _ _
  | cpstart => exact hs.execCpstart _ _
  | cptest => exact hs.scalarRun _ (fun _ => hs.loadScalar _ _ (fun _ _ => hs.logged _ _ (fun _ _ h0 => h0.putS _ _ _)))
  | endFrag => exact hs.scalarRun _ (fun _ => hs.endFrag _)
  | ret | ljumpReg => exact hs.scalarRun _ (fun _ => State.memWf.ite (hs.trapScalar _ _ _ _) (hs.setFrag _))
  | reconv => exact hs.execReconv _
  | efence => exact hs.execEfence _
  | entrydone => exact hs.execEntrydone
  | exitdone => exact hs.execExitdone
  | trap => exact hs.scalarRun _ (fun _ => hs.raise _ _)
  | tret => exact hs.execTret
  | svc => exact hs.execSvc _
  | svcret => exact hs.scalarRun _ (fun _ => (hs.setFrag _).sqDone _ _)
  | tlbiPage | tlbiJob | tlbiPartition => exact hs.scalarRun _ (fun _ => State.memWf.ite (hs.trapScalar _ _ _ _) (hs.tlbi _ _ _))
  | lissue => exact hs.execLissue _
  | rep => exact hs.scalarRun _ (fun _ => State.memWf.ite hs (hs.setFrag _))
  | armBarrier => exact hs.execArmBarrier _ _ _
  | armBitmap => exact hs.scalarRun _ (fun _ => hs.loadScalar _ _ (fun _ _ => hs.bind _ _ _ _ _ _ _))
  | armMailbox | armAddr => exact hs.scalarRun _ (fun _ => hs.armWord _ _ (fun _ _ => hs.bind _ _ _ _ _ _ _))
  | armPool => exact hs.execArmPool _ _ _
  | armReply => exact hs.scalarRun _ (fun _ => hs.bind _ _ _ _ _ _ _)
  | armTimer => exact hs.execArmTimer _ _ _
  | armBaton => exact hs.execArmBaton _ _ _
  | await => exact hs.execAwait _
  | barinit => exact hs.execBarinit _
  | bararrive => exact hs.execBararrive _ _
  | barwait => exact hs.execBarwait _
  | batonTake => exact hs.execBatonTake
  | batonPass => exact hs.execBatonPass
  | vadd | vsub | vmul | vmad => exact hs.laneExact _ _ _ _
  | vmulh | vdiv | vrem | vmin | vmax | vabs | vand | vor | vxor | vshl | vshr | vsra | vpopc | vclz | vctz | vbrev | vbfe
  | vbfi | vmov | vli | fclass => exact hs.laneMap _ _ _ _
  | vcmp | fcmp | xballot => exact hs.laneRun _ _ _ (fun _ _ h0 => h0.endMask _ _ _ _) _
  | vsel | vlane | qpack | qunpack | xscan | mpopc | acczero | accread | accwrite =>
    exact hs.laneRun _ _ _ (fun _ _ h0 => h0.laneEnd _ _ _) _
  | fadd | fsub | fmul | ffma | fmin | fmax | fdiv | fsqrt | frcp | frsq | fexp2 | flog2 | fsin | fcos | ftanh =>
    exact hs.laneFloat _ _ _ _
  | cvt => exact hs.execCvt _
  | cvtn => exact hs.execCvtn _
  | vld | vldb | vlds => exact hs.laneLoad _ _ _
  | vst | vstb | vsts => exact hs.laneStore _ _ _
  | vatom => exact hs.execVatom _
  | vpref => exact hs.laneRun _ _ _ (fun _ _ h0 => h0.laneSkip _) _
  | xbcast | xperm => exact hs.permute _ _
  | xred => exact hs.execXred _
  | mand | mor | mxor | mandn | mnot | mmov => exact hs.maskOp _ _ _ _
  | mma => exact hs.mmaRun _ (fun _ _ _ _ _ h0 => h0.productEnd _ _ _ _ _)
  | mvstream => exact hs.execMvstream _
  | bload => exact hs.bloadRun _ (fun _ _ _ _ h0 => (h0.laneSkip _).modWg _ _)
  | pinitCreate => exact hs.execPinitCreate _
  | pinitDestroy => exact hs.poolRun _ _ (fun _ _ h0 => h0.withPool _ (fun _ => (h0.setPool _).laneEnd _ _ _))
  | pput => exact hs.execPput _
  | ptake => exact hs.execPtake _
  | pstat => exact hs.poolRun _ _ (fun _ _ h0 => h0.withPool _ (fun _ => h0.logged _ _ (fun _ _ h0 => h0.laneEnd _ _ _)))
  | rload => exact hs.execRload _
  | extensionOpcode => exact hs.execExtensionOpcode _ _
  | fqtail => exact (hs.fqTail _ _).next
  | fqdoneRetry | fqdoneKill => exact (hs.fqDone _ _ _).next
  | sqtail => exact (hs.sqTail _ _).next
  | sqdone => exact (hs.sqDone _ _).next
  | sqrestart => exact (hs.sqRestart _).next
  | serviceFaultVerdict => exact hs.execServiceFaultVerdict _ _
  | freeze => exact hs.execFreeze _ _
  | thaw => exact hs.execThaw _ _
  | step => exact hs.execStep _ _
  | freezept => exact hs.execFreezept _ _ _
  | read => exact hs.execRead _ _
  | write => exact hs.execWrite _ _
  | checkpoint => exact hs.execCheckpoint _ _ _ _
  | restore => exact hs.execRestore _ _
  | log => exact hs.execLog _ _ _ _
  | reset => exact hs.execReset _
  | clusters | parklimit | qos => exact (hs.modPart _ _).next
  | clkstep | firmwareFlip | thermalTrip => exact hs.same.next
  | gate | margincommit | faultQueueWrite | serviceQueuePost | flitCrcFailure | marginProposal => exact (hs.modDie _ _).next
  | registerWrite => exact hs.execRegisterWrite _ _
  | null => exact (hs.call _ _ (fun _ _ h0 => h0.nullCall _) _).next
  | launch => exact hs.execLaunch _
  | stopgraph => exact (hs.call _ _ (fun _ _ h0 => h0.stopGraph _) _).next
  | resumegraph => exact (hs.call _ _ (fun _ _ h0 => h0.resumeGraph _) _).next
  | rescreate => exact (hs.call _ _ (fun _ _ h0 => h0.resCreate _) _).next
  | resdemote => exact (hs.call _ _ (fun _ _ h0 => h0.resDemote _) _).next
  | resevict => exact (hs.call _ _ (fun _ _ h0 => h0.resEvict _) _).next
  | respromote => exact (hs.call _ _ (fun _ _ h0 => h0.resPromote _) _).next
  | resfree => exact (hs.call _ _ (fun _ _ h0 => h0.resFree _) _).next
  | map => exact (hs.call _ _ (fun _ _ h0 => h0.mapCall _) _).next
  | unmap => exact (hs.call _ _ (fun _ _ h0 => h0.unmapCall _) _).next
  | armlaunch => exact (hs.call _ _ (fun _ _ h0 => h0.armLaunch _) _).next
  | protect => exact (hs.call _ _ (fun _ _ h0 => h0.protectCall _) _).next
  | teardown => exact (hs.call _ _ (fun _ _ h0 => h0.teardownCall _) _).next
  | attest => exact (hs.call _ _ (fun _ _ h0 => h0.attestCall _) _).next
  | mcload => exact (hs.call _ _ (fun _ _ h0 => h0.mcLoad _) _).next
  | collgroup => exact (hs.call _ _ (fun _ _ h0 => h0.collGroup _) _).next
  | collfree => exact (hs.call _ _ (fun _ _ h0 => h0.collFree _) _).next
  | controlProgramCall => exact hs.execControlProgramCall _ _ _
  | launchStart => exact hs.execLaunchStart _
  | dieReport => exact hs.execDieReport _ _
  | completionSignal => exact hs.execCompletionSignal _
  | workgroupRetirement => exact hs.execWorkgroupRetirement _
  | dispatch => exact hs.execDispatch _ _
  | parkLimitExpiry => exact hs.execParkLimitExpiry _
  | preemptionRequest => exact (hs.request _ _).next
  | drainLimitExpiry => exact hs.execDrainLimitExpiry _
  | copySquash => exact hs.execCopySquash _
  | saveCompletion => exact hs.execSaveCompletion _
  | exitDeadlineExpiry => exact hs.execExitDeadlineExpiry _
  | graphStopJob => exact hs.execGraphStopJob _
  | starvationBoost | dataReturn => exact (hs.modFrag _ _).next
  | postedStoreTranslation => exact hs.execPostedStoreTranslation _
  | copyFire => exact hs.execCopyFire _ _
  | chunkLand => exact (hs.landChunk _ _).next
  | copyCompletion => exact hs.execCopyCompletion _
  | collectiveResult => exact hs.execCollectiveResult _ _
  | timerTokenFire => exact hs.execTimerTokenFire _ _
  | poolSummary => exact (hs.modPool _ _).next
  | poolCensus => exact hs.execPoolCensus _
  | tlbiCompletion => exact hs.execTlbiCompletion _
  | tlbiDrainExpiry => exact hs.execTlbiDrainExpiry _
  | freezePointHit => exact hs.execFreezePointHit _
  | stepEnd => exact hs.execStepEnd _
  | frameArrival => exact hs.execFrameArrival _
  | remoteWriteArrival => exact (hs.remoteWrite _ _ _).next
  | dieLoss => exact hs.execDieLoss _
  | ucieModuleFailure => exact hs.execUcieModuleFailure _ _
  | moduleReset => exact hs.execModuleReset
  | powerLoss => exact hs.execPowerLoss
  | floorRaise => exact hs.execFloorRaise _ _
  | scrubUnit => exact hs.execScrubUnit _
  | controlCoreAccess => exact hs.execControlCoreAccess _ _ _
  | peerAtomicArrival => exact hs.execPeerAtomicArrival _ _ _ _ _
  | portFailure => exact hs.execPortFailure _ _
  | peerGroupChange => exact hs.execPeerGroupChange _ _ _ _

/-! ## Turns -/

theorem State.memWf.issueBy (hs : s.memWf) (f : Frag) (q : QEntry) : (s.issueBy f q).memWf := hs.same

theorem State.memWf.afterPark (hs : s.memWf) (f : Frag) (stalled : Bool) : (s.afterPark f stalled).memWf := by
  unfold State.afterPark
  split
  · exact hs
  · split
    · exact hs.noteWake _
    · split
      · exact hs
      · dsimp only
        split
        · exact hs.modFrag _ _
        · exact (hs.modFrag _ _).noteWake _

theorem State.memWf.afterIssue (hs : s.memWf) (before : State) (r : FragRef) (i : Instr) (scalar : Bool) :
    (s.afterIssue before r i scalar).memWf := by
  unfold State.afterIssue
  split
  · exact (hs.modFrag _ _).afterPark _ _
  · exact hs.afterPark _ _
  · exact hs

theorem State.memWf.issueInstr (hs : s.memWf) (r : FragRef) (q : QEntry) (i : Instr) (scalar : Bool)
    {run : Instr → State → Out} (hrun : ∀ a b, State.memWf b → Out.memWf (run a b)) :
    Out.memWf (s.issueInstr r q i scalar run) := by
  unfold State.issueInstr
  split
  · exact hs.next
  · next f _ =>
    dsimp only
    split
    · next hr => exact (State.memWf.afterIssue (hrun _ _ (hs.issueBy f q) _ hr) _ _ _ _).next
    · exact Out.memWf_fault _
    · exact Out.memWf_refused _

theorem State.memWf.issueAfter (hs : s.memWf) (r : FragRef) (q : QEntry) (i : Instr) (scalar : Bool) :
    Out.memWf (s.issueAfter r q i scalar) :=
  (hs.enterBefore _ _).issueInstr _ _ _ _ (fun _ _ h1 => h1.exec _)

theorem State.memWf.issueLane (hs : s.memWf) (c : Cur) (q : QEntry) : Out.memWf (s.issueLane c q) := by
  unfold State.issueLane
  split
  · exact hs.issueAfter _ _ _ _
  · exact (hs.trapLane _ _ _ _ _).next

theorem State.memWf.badScalar (hs : s.memWf) (c : Cur) (w : BitVec 32) (e : BadCode) : (s.badScalar c w e).memWf := by
  unfold State.badScalar
  dsimp only
  split
  · split
    · exact hs.afterStores _ (hs.repMisuse _)
    · exact hs.repMisuse _
  · split
    · exact hs.exitOverrun _
    · split
      · exact hs.afterStores _ (hs.trapScalar _ _ _ _)
      · exact hs.trapScalar _ _ _ _

theorem State.memWf.runScalar (hs : s.memWf) (c : Cur) (w : BitVec 32) : Out.memWf (s.runScalar c w) := by
  unfold State.runScalar
  split
  · exact (hs.badScalar _ _ _).next
  · exact hs.issueAfter _ _ _ _

theorem State.memWf.issueScalar (hs : s.memWf) (c : Cur) : Out.memWf (s.issueScalar c) := by
  unfold State.issueScalar
  split
  · exact ((hs.modFrag _ _).freezeIf _).next
  · split
    · exact (hs.freezeGroup _).next
    · split
      · exact (hs.pageScalar _ _ _ _).next
      · exact (hs.setWave _).runScalar _ _

theorem State.memWf.runFrag (hs : s.memWf) (r : FragRef) : Out.memWf (s.runFrag r) := by
  unfold State.runFrag
  split
  · exact hs.next
  · split
    · exact hs.next
    · split
      · exact hs.issueLane _ _
      · exact hs.issueScalar _

theorem State.memWf.laneAhead (hs : s.memWf) (r : FragRef) (l : Nat) : (s.laneAhead r l).memWf := by
  unfold State.laneAhead
  split
  · exact hs
  · exact hs.aheadOf _ _ _

theorem State.memWf.matrixLate (hs : s.memWf) (r : FragRef) : Out.memWf (s.matrixLate r) := by
  unfold State.matrixLate
  split
  · exact hs.next
  · split
    · exact hs.issueInstr _ _ _ _ (fun _ _ h1 => h1.matrixLater _)
    · exact hs.issueInstr _ _ _ _ (fun _ _ h1 => h1.matrixLater _)
    · exact hs.next

theorem State.memWf.peek (hs : s.memWf) (r : FragRef) (va : Word64) : (s.peek r va).memWf := by
  unfold State.peek
  split
  · exact hs
  · split
    · exact hs
    · split
      · exact hs
      · split
        · exact hs
        · exact hs.setFrag _

theorem State.memWf.walkRead (hs : s.memWf) (r : FragRef) (va : Word64) : (s.walkRead r va).memWf := by
  unfold State.walkRead
  split
  · exact hs
  · split
    · exact hs
    · exact hs.setFrag _

theorem State.memWf.activate (hs : s.memWf) (r : FragRef) : (s.activate r).memWf := by
  unfold State.activate
  split
  · exact hs
  · split
    · exact hs
    · exact State.memWf.setFrag (by
    split
    · exact hs
    · exact hs.setFrag _) _

theorem State.memWf.tlbFill (hs : s.memWf) (j : Job) (va : Word64) : (s.tlbFill j va).memWf := by
  unfold State.tlbFill
  split
  · exact hs
  · split
    · exact hs
    · split
      · exact hs
      · exact hs.same

theorem State.memWf.blockFill (hs : s.memWf) (w : WaveRef) (lane : Bool) (va : Word64) : (s.blockFill w lane va).memWf := by
  unfold State.blockFill
  split
  · exact hs
  · split
    · exact hs.fillFetch _ _ _ _
    · exact hs.fillFetch _ _ _ _

theorem State.memWf.runTurn (hs : s.memWf) (t : Turn) : Out.memWf (s.runTurn t) := by
  unfold State.runTurn
  split
  · split
    · exact hs.exec _
    · exact hs.next
  · exact hs.runFrag _
  · exact hs.same.next
  · exact (hs.activate _).next
  · exact (hs.modFrag _ _).next
  · apply State.memWf.next
    split
    · exact hs.tlbFill _ _
    · exact hs
  · exact (hs.blockFill _ _ _).next
  · exact (hs.refreshWave _).next
  · exact (hs.laneAhead _ _).next
  · exact (hs.storePiece _ _).next
  · exact (hs.snapshot _ _ _).next
  · exact (hs.engineRead _ _).next
  · exact (hs.engineWrite _ _).next
  · exact (hs.arrive _).next
  · apply State.memWf.next
    split
    · exact hs
    · exact hs.readAhead _ _ _ _
  · exact (hs.peek _ _).next
  · exact (hs.walkRead _ _).next
  · exact (hs.engineWalk _ _).next
  · exact (hs.hartPeek _ _).next
  · exact hs.matrixLate _
  · exact (hs.enterEngine _ _).next

theorem State.memWf.settlePoints (hs : s.memWf) : s.settlePoints.memWf :=
  hs.foldl _ (fun _ _ ht => (ht.vectorIf _).freezeIf _)

theorem State.memWf.redispatch (hs : s.memWf) : s.redispatch.memWf := by
  unfold State.redispatch
  exact hs.foldl _ (fun _ _ ht => by
    split
    · exact State.memWf.ite (((ht.settleOrphans _ _).carve _ _ _ _ _).sqRestart _) ht
    · exact ht)

theorem State.memWf.settleResumes (hs : s.memWf) : s.settleResumes.memWf := hs.foldl _ (fun _ _ ht => ht.resumed _)

theorem State.memWf.settleEngine (hs : s.memWf) : s.settleEngine.memWf := hs.foldl _ (fun _ _ ht => ht.enterIf _ _)

theorem State.memWf.settleAtoms (hs : s.memWf) : s.settleAtoms.memWf := hs.foldl _ (fun _ _ ht => ht.finishHalfway _)

theorem State.memWf.afterStep (hs : s.memWf) : s.afterStep.memWf :=
  hs.settleAtoms.settleEngine.settlePoints.settleResumes.redispatch.settleRemote.refresh

/-! ## The step -/

theorem State.memWf.tick (hs : s.memWf) : s.tick.memWf := hs.same

theorem State.memWf.nextTurn (hs : s.memWf) : s.nextTurn.2.memWf := by
  unfold State.nextTurn
  split
  · exact hs.same
  · exact hs

theorem State.memWf.step (hs : s.memWf) : Out.memWf (step s) := by
  unfold Sys2Proof.Machine.step
  dsimp only
  split
  · next hr => exact (State.memWf.afterStep (hs.tick.nextTurn.runTurn _ _ hr)).next
  · exact Out.memWf_fault _
  · exact Out.memWf_refused _

end Sys2Proof.Machine

open Sys2Proof Sys2Proof.Machine

/-- Settles O5: a step is a turn and what follows every step, and each of the two keeps the canonical form. -/
theorem stepKeepsMemoryCanonical : Obligations.StepKeepsMemoryCanonical :=
  fun _ t hs ht => State.memWf.step hs t ht

end

section
/-! A die lost in the middle of a service wave's VATOM (R13, R163, R199). R199 finishes the VATOM as the workgroup is
discarded; its last lane stands at FQDONE and stores an answer with KILL there, so the fragment that waits on the
answered fault traps. A kernel job's trap is a service fault, which the host hears of before it hears of the die. -/

namespace Sys2Proof.Machine

open Sys2Proof

/-- The operands of a VATOM that swaps a captured 64-bit scalar in. -/
def killSwapOps : LaneOps :=
  { ty := 0x09, msel := 0, rnd := 0, sat := 0, kA := 0, kB := 1, kC := 0, flags := 6, dest := 2, a := 4, b := 6, c := 0, w2 := 0 }

/-- It with 2^32 to swap in, which at FQDONE answers sequence number 0 with KILL. -/
def killSwap : QEntry := { word := laneWord 0x206 killSwapOps, b := 2 ^ 32 }

/-- The fragment that runs it in two lanes, the first of them performed in plain memory, the second at die 0's FQDONE. -/
def killerFrag (f : Frag) : Frag :=
  { f with
    exec := 3
    queue := [killSwap]
    flight := some
      { places := [.phys { pa := 0x7000, key := none }, .phys { pa := 0x2F000040010, key := none }], got := [(0, 0)] } }

/-- Another fragment of its wave, parked on a page fault of its own. -/
def faultedFrag (f : Frag) : Frag :=
  { f with
    ref := { f.ref with frag := 1 }
    slot := .parked (.page 0 (f.scalarTrap fltPage 0x01 0x8000))
    queue := []
    flight := none }

/-- That fault's entry in the fault queue, open and with sequence number 0. -/
def faultedEntry (f : Frag) : FqEntry :=
  { vaddr := 0x8000, ipa := 0, pc := f.spc, job := f.ref.wave.wg.job, waveid := 0, waiters := 1, seq := 0, issuer := 0
    gone := false, write := false, fetch := false, kmode := true, cause := 0x01, opened := true
    who := [.frag f.ref 0] }

/-- The service job's wave with the two fragments, on die 0, whose fault queue holds the entry. -/
def killBeforeLoss : State :=
  let j : Job := { placedJob with ref := { part := 16, id := 0 } }
  let g : WgRef := { job := j.ref, wg := 0 }
  let killer := killerFrag (j.freshFrag g 0 0 1 0)
  let faulted := faultedFrag (j.freshFrag g 0 0 1 0)
  ({ State.reset with
      frags := [killer, faulted], waves := [j.freshWave g 0 0], wgs := [j.freshWg g 0 1 0], jobs := [j] } : State).modDie 0 (fun d =>
    { d with fq := { d.fq with head := 1, entries := [faultedEntry faulted] } })

theorem killBeforeLoss_die : ∃ x, killBeforeLoss.die? (0#2).toNat = some x ∧ x.lost = false := ⟨_, rfl, rfl⟩

theorem killBeforeLoss_reports : killBeforeLoss.reports = [] := rfl

theorem exec_dieLoss_live {s : State} {d : BitVec 2} {x : Die} (hx : s.die? d.toNat = some x) (hlive : x.lost = false) :
    exec (.dieLoss d) s =
      .next ((s.modDie d.toNat (fun y => { y with failed := BitVec.allOnes 16 })).loseDie d.toNat) := by
  simp [execDieLoss, hx, hlive]

/-- The discarded workgroup's VATOM is finished first: its store at FQDONE traps the fragment that waits there. -/
theorem killBeforeLoss_loseDie :
    ((killBeforeLoss.modDie (0#2).toNat (fun y => { y with failed := BitVec.allOnes 16 })).loseDie (0#2).toNat).reports =
      [.serviceFault 0, .dieLost 0] := by
  decide +kernel

end Sys2Proof.Machine

open Sys2Proof Sys2Proof.Machine

/-- Refutes O59: a lost die's report need not be all that its loss adds. Where a workgroup of the service job on it has
a VATOM half performed, the loss finishes it, and an answer with KILL so stored at FQDONE adds a service fault. -/
theorem not_networkAndModuleEvents : ¬ Obligations.NetworkAndModuleEvents := by
  unfold Obligations.NetworkAndModuleEvents
  rintro ⟨-, -, -, -, -, hdie, -⟩
  obtain ⟨x, hx, hlive⟩ := killBeforeLoss_die
  obtain ⟨-, -, hloss, -⟩ := hdie killBeforeLoss 0 0 x hx
  obtain ⟨t, -, ht, -, -, hreports, -⟩ := hloss hlive
  obtain rfl := Host.Outcome.next.inj ((exec_dieLoss_live hx hlive).symm.trans ht)
  rw [killBeforeLoss_loseDie, killBeforeLoss_reports] at hreports
  exact absurd hreports (by decide)

end

section
/-! The lane loads (R151, R153, R168, R364, R365, R366): what the checks of the four forms find, and what a load gives where each
active lane's element holds a value in the plain scratchpad or in plain device memory. -/

namespace Sys2Proof.Machine

open Sys2Proof

/-! ## The state as the instruction begins -/

@[simp] theorem Frag.laneBegin_flight (f : Frag) : f.laneBegin.flight = f.flight := by
  unfold Frag.laneBegin
  split
  · split <;> rfl
  · rfl

/-- A translation reads no fragment but through its party. -/
theorem State.translate_setFrag (s : State) (x : Frag) (w : Who) (va : Word64) (u : Use) :
    (s.setFrag x).translate w va u = s.translate w va u := rfl

theorem State.who_setFrag (s : State) (x : Frag) (c : Cur) (scalar : Bool) : (s.setFrag x).who c scalar = s.who c scalar := rfl

theorem Holds.setFrag {s : State} {c : Cur} {u : Use} {e : Piece} {v : Nat} (h : Holds s c u e v) (x : Frag) :
    Holds (s.setFrag x) c u e v := by
  unfold Holds at h ⊢
  rwa [State.translate_setFrag, State.who_setFrag]

/-! ## An element that holds a value -/

section
variable {s : State} {w : Who} {g : Wg} {p : Phys} {n : Nat}

theorem State.physByte_plain (h : PlainBytes s p n) {i : Nat} (hi : i < n) : s.physByte w p i = Sparse.get s.mem (p.pa + i) := by
  obtain ⟨hregion, hkey⟩ := h i hi
  simp only [State.physByte, hregion, State.deviceByte, if_pos hkey]

theorem State.readFrom_plain (h : PlainBytes s p n) (k i : Nat) (hk : i + k ≤ n) :
    s.readFrom w g (.phys p) i k = Sparse.bytesNat s.mem (p.pa + i) k := by
  induction k generalizing i with
  | zero => rfl
  | succ k ih =>
    rw [State.readFrom, Sparse.bytesNat, ih (i + 1) (by omega), State.locByte, State.physByte_plain h (by omega)]
    rfl

theorem State.readLoc_plain (h : PlainBytes s p n) : s.readLoc w g (.phys p) n = Sparse.bytesNat s.mem p.pa n :=
  State.readFrom_plain h n 0 (by omega)

theorem State.readFrom_scratch (o k i : Nat) : s.readFrom w g (.scratch o) i k = Sparse.bytesNat g.scratch (o + i) k := by
  induction k generalizing i with
  | zero => rfl
  | succ k ih =>
    rw [State.readFrom, Sparse.bytesNat, ih]
    rfl

theorem State.readLoc_scratch (o : Nat) : s.readLoc w g (.scratch o) n = Sparse.bytesNat g.scratch o n :=
  State.readFrom_scratch o n 0

theorem State.isRemote_plain (h : PlainBytes s p n) (hn : n ≠ 0) : s.isRemote (.phys p) = false := by
  have hregion : regionOf p.pa = .device := (h 0 (by omega)).1
  simp only [State.isRemote, State.remoteWord, hregion, Option.isSome_none]

end

/-- An element that holds a value has a place, is read there as that value, and is in neither host nor peer memory. -/
theorem Holds.place {s : State} {c : Cur} {u : Use} {e : Piece} {v : Nat} (h : Holds s c u e v) (hn : e.size ≠ 0) :
    ∃ l, s.pieceLoc (s.who c false) c.g e u = .ok l ∧ s.readLoc (s.who c false) c.g l e.size = v ∧ s.isRemote l = false := by
  unfold Holds at h
  split at h
  · next hscratch =>
    obtain ⟨hstash, hv⟩ := h
    exact ⟨.scratch e.addr.toNat, by simp [State.pieceLoc, hscratch, State.locScratch, hstash],
      State.readLoc_scratch _ |>.trans hv, rfl⟩
  · next hglobal =>
    obtain ⟨p, hp, hplain, hv⟩ := h
    exact ⟨.phys p, by simp [State.pieceLoc, hglobal, State.locGlobal, hp], (State.readLoc_plain hplain).trans hv,
      State.isRemote_plain hplain hn⟩

/-- A read of other memory takes nothing that was read ahead of host or peer memory. -/
theorem State.takePeek_near {s : State} {l : Loc} (h : s.isRemote l = false) (ps : List (Nat × RemoteWord × Word64)) :
    s.takePeek l ps = ps := by
  cases l with
  | scratch => rfl
  | phys p =>
    have hp : s.remoteWord p = none := by simpa [State.isRemote] using h
    simp [State.takePeek, hp]

theorem State.takePeeks_near {s : State} {ls : List (Loc × Piece)} (h : ∀ y ∈ ls, s.isRemote y.1 = false)
    (ps : List (Nat × RemoteWord × Word64)) : ls.foldl (fun ps y => s.takePeek y.1 ps) ps = ps := by
  induction ls with
  | nil => rfl
  | cons y ls ih =>
    rw [List.foldl_cons, State.takePeek_near (h y (by simp)), ih (fun z hz => h z (by simp [hz]))]

theorem State.pieceLocs_map {s : State} {w : Who} {g : Wg} {u : Use} {e : Nat → Piece} {L : Nat → Loc} {ls : List Nat}
    (h : ∀ l ∈ ls, s.pieceLoc w g (e l) u = .ok (L l)) : s.pieceLocs w g u (ls.map e) = .ok (ls.map (fun l => (L l, e l))) := by
  induction ls with
  | nil => rfl
  | cons l ls ih =>
    simp only [List.map_cons, State.pieceLocs, h l (by simp), ih (fun k hk => h k (by simp [hk]))]

/-! ## The checks of R365 -/

theorem alignFault_none {ps : List Piece} (h : ∀ p ∈ ps, p.addr.toNat % p.size = 0) : alignFault ps = none := by
  induction ps with
  | nil => rfl
  | cons p ps ih => simp [alignFault, h p (by simp), ih (fun q hq => h q (by simp [hq]))]

/-- The element of an active lane: in the record form, in the record that the instruction names. -/
def Lane.element (x : Lane) (form : LaneForm) (l : Nat) : Piece := x.piece form ((x.c.j.record? (memRecord x.f)).getD 0) l

/-- The active lanes with their elements. -/
def Lane.elements (x : Lane) (form : LaneForm) : List (Nat × Piece) := x.lanes.map (fun l => (l, x.element form l))

/-- Each active lane's element is naturally aligned. -/
def Lane.Aligned (x : Lane) (form : LaneForm) : Prop := ∀ l ∈ x.lanes, (x.element form l).addr.toNat % tyBytes x.f.ty = 0

@[simp] theorem Lane.element_size (x : Lane) (form : LaneForm) (l : Nat) : (x.element form l).size = tyBytes x.f.ty := by
  cases form <;> rfl

theorem Lane.element_record {x : Lane} {r : BitVec 256} (h : x.c.j.record? (memRecord x.f) = some r) (l : Nat) :
    x.element .recordForm l = recordPiece r (x.off l) (tyBytes x.f.ty) := by
  simp only [Lane.element, h, Option.getD_some, Lane.piece]

theorem Lane.Aligned.alignFault_elements {x : Lane} {form : LaneForm} (h : x.Aligned form) :
    alignFault ((x.elements form).map (·.2)) = none := by
  refine alignFault_none fun p hp => ?_
  obtain ⟨y, hy, rfl⟩ := List.mem_map.mp hp
  obtain ⟨l, hl, rfl⟩ := List.mem_map.mp hy
  simpa using h l hl

theorem Lane.dataPoisoned_load {x : Lane} (h : ∀ l ∈ x.lanes, x.rawPoisoned (x.opA x.f.ty) l = false) :
    x.dataPoisoned false false = false := by
  simp only [Lane.dataPoisoned, List.any_eq_false]
  intro l hl
  simp [h l hl]

theorem extentFault_none {r : BitVec 256} {n : Nat} {offs : List Nat} (h : ∀ o ∈ offs, o + n ≤ recSize r) :
    extentFault r n offs = none := by
  rw [extentFault, if_neg]
  simpa using h

theorem extentFault_some {r : BitVec 256} {n : Nat} {offs : List Nat} (h : ∃ o ∈ offs, recSize r < o + n) :
    extentFault r n offs = some { flt := fltRecord, sub := 0x02, addr := 0 } := by
  rw [extentFault, if_pos]
  simpa using h

theorem recordFault_missing {c : Cur} {i : Nat} {store : Bool} (h : c.j.record? i = none) :
    recordFault c i store = some (fltRecord, 0x01) := by
  simp only [recordFault, h]

theorem recordFault_none {c : Cur} {i : Nat} {store : Bool} {r : BitVec 256} (h : c.j.record? i = some r)
    (hro : (store && recRo r) = false) (hin : recScratch r = true → (recBase r).toNat + recSize r ≤ c.j.scratchSize) :
    recordFault c i store = none := by
  have hbeyond : recordBeyond c r = false := by simpa [recordBeyond] using hin
  simp [recordFault, h, hro, hbeyond]

section
variable {x : Lane} {store : Bool} {r : BitVec 256}

theorem Lane.check_record_missing (h : x.c.j.record? (memRecord x.f) = none) :
    x.check .recordForm store = .error { flt := fltRecord, sub := 0x01, addr := 0 } := by
  simp only [Lane.check, recordFault_missing h]

theorem Lane.check_record_extent (h : x.c.j.record? (memRecord x.f) = some r) (hro : (store && recRo r) = false)
    (hin : recScratch r = true → (recBase r).toNat + recSize r ≤ x.c.j.scratchSize)
    (hext : ∃ l ∈ x.lanes, recSize r < x.off l + tyBytes x.f.ty) :
    x.check .recordForm store = .error { flt := fltRecord, sub := 0x02, addr := 0 } := by
  obtain ⟨l, hl, hlt⟩ := hext
  have hfault := extentFault_some ⟨x.off l, List.mem_map_of_mem hl, hlt⟩
  simp only [Lane.check, recordFault_none h hro hin, h, Option.getD_some, hfault]

theorem Lane.check_record_ok (h : x.c.j.record? (memRecord x.f) = some r) (hro : (store && recRo r) = false)
    (hin : recScratch r = true → (recBase r).toNat + recSize r ≤ x.c.j.scratchSize)
    (hext : ∀ l ∈ x.lanes, x.off l + tyBytes x.f.ty ≤ recSize r) (hclean : x.dataPoisoned store false = false)
    (halign : x.Aligned .recordForm) : x.check .recordForm store = .ok (x.elements .recordForm) := by
  have hfault := extentFault_none (List.forall_mem_map.mpr hext)
  have halign := halign.alignFault_elements
  simp only [Lane.elements, Lane.element, h, Option.getD_some] at halign ⊢
  simp only [Lane.check, recordFault_none h hro hin, h, Option.getD_some, hfault, hclean, reduceCtorEq, if_false, halign,
    Bool.false_eq_true]

theorem Lane.check_addr_ok (hclean : x.dataPoisoned store false = false) (halign : x.Aligned .addrForm) :
    x.check .addrForm store = .ok (x.elements .addrForm) := by
  have halign := halign.alignFault_elements
  simp only [Lane.elements, Lane.element] at halign ⊢
  simp only [Lane.check, hclean, reduceCtorEq, if_false, halign, Bool.false_eq_true]

/-- The block form is aligned where its first element, lane 0's, is (R365). -/
theorem Lane.check_blocked_ok (hclean : x.dataPoisoned store false = false)
    (halign : (x.q.a + BitVec.ofNat 64 (memDisp x.f)).toNat % tyBytes x.f.ty = 0) :
    x.check .blocked store = .ok (x.elements .blocked) := by
  have hfirst : alignFault [x.element .blocked 0] = none :=
    alignFault_none (by simpa [Lane.element, Lane.piece] using halign)
  simp only [Lane.elements, Lane.element] at hfirst ⊢
  simp only [Lane.check, hclean, if_true, hfirst, Bool.false_eq_true, if_false]

theorem Lane.check_scratch_ok (hclean : x.dataPoisoned store false = false)
    (hin : ∀ l ∈ x.lanes, x.off l + memDisp x.f + tyBytes x.f.ty ≤ x.c.j.scratchSize) (halign : x.Aligned .scratch) :
    x.check .scratch store = .ok (x.elements .scratch) := by
  have halign := halign.alignFault_elements
  simp only [Lane.elements, Lane.element] at halign ⊢
  have hin : x.lanes.any (fun l => decide (x.c.j.scratchSize < x.off l + memDisp x.f + tyBytes x.f.ty)) = false := by
    simpa using hin
  simp only [Lane.check, hclean, hin, reduceCtorEq, if_false, halign, Bool.false_eq_true]

theorem Lane.check_scratch_range (hclean : x.dataPoisoned store false = false)
    (hout : ∃ l ∈ x.lanes, x.c.j.scratchSize < x.off l + memDisp x.f + tyBytes x.f.ty) :
    x.check .scratch store = .error { flt := fltScratch, sub := 0x05, addr := 0 } := by
  have hout : x.lanes.any (fun l => decide (x.c.j.scratchSize < x.off l + memDisp x.f + tyBytes x.f.ty)) = true := by
    simpa using hout
  simp only [Lane.check, hclean, hout, Bool.false_eq_true, if_false, if_true]

end

/-! ## A load -/

theorem Lane.lanes_inactive {x : Lane} (h : x.act = 0) : x.lanes = [] := by simp [Lane.lanes, lanesOf, h]

theorem Lane.active_of_mem {x : Lane} {l : Nat} (h : l ∈ x.lanes) : x.act ≠ 0 := by
  intro h0
  rw [Lane.lanes_inactive h0] at h
  cases h

/-- The low word of A, as an instruction's offset (R195). -/
theorem laneAt_off (s : State) (c : Cur) (f : LaneOps) (l : Nat) :
    (laneAt s c f).off l = ((laneAt s c f).raw ((laneAt s c f).opA f.ty) l).toNat % 2 ^ 32 := by
  simp [Lane.off, laneAt]

section
variable {s : State} {c : Cur} {f : LaneOps} {op : BitVec 10} {form : LaneForm}

theorem exec_vld_addr (h : memAddrForm f = true) : exec (.vld f) s = laneLoad s 0x200 f .addrForm := by
  rw [exec_vld, execVld, if_pos h]

theorem exec_vld_record (h : memAddrForm f = false) : exec (.vld f) s = laneLoad s 0x200 f .recordForm := by
  rw [exec_vld, execVld, if_neg (by simp [h])]

/-- A load whose check fails traps. -/
theorem laneLoad_trap {flt sub : BitVec 8} {addr : Word64} (hr : LaneReady s c op f) (hs : Settled s c) (hact : (laneAt s c f).act ≠ 0)
    (hc : (laneAt s c f).check form false = .error { flt := flt, sub := sub, addr := addr }) :
    laneLoad s op f form = laneTrapResult s (laneAt s c f) flt sub addr := by
  unfold laneLoad laneMemRun
  rw [laneRun_effect s op f _ _ true c hr (fun _ => hs) rfl, if_neg hact]
  simp only [hc]
  rfl

theorem Lane.elements_zip {α : Type} (x : Lane) (form : LaneForm) (k : Nat → α) :
    ((x.elements form).map (·.1)).zip (x.lanes.map k) = x.lanes.map (fun l => (l, k l)) := by
  rw [Lane.elements, List.map_map]
  exact List.zip_map'

theorem Lane.elements_pieces (x : Lane) (form : LaneForm) : (x.elements form).map (·.2) = x.lanes.map (x.element form) := by
  rw [Lane.elements, List.map_map]
  rfl

/-- Where no lane was performed before, each place is found now. -/
theorem State.laneLocs_fresh {x : Lane} (h : x.c.f.flight = none) (s : State) (w : Who) (u : Use) (ps : List Piece) :
    s.laneLocs w x u ps = s.pieceLocs w x.c.g u ps := by
  simp only [State.laneLocs, h]

theorem Lane.got_fresh {x : Lane} (h : x.c.f.flight = none) (l : Nat) : x.got l = none := by
  simp only [Lane.got, h]

theorem Lane.write_congr {x : Lane} {h k : Nat → Word64} (hk : ∀ l ∈ x.lanes, h l = k l) (w : Wave) (t : BitVec 5) (r : BitVec 8) :
    x.write w t r h = x.write w t r k :=
  List.foldl_rel (r := Eq) rfl (fun l hl a b hab => by rw [hk l hl, hab])

/-- Of elements in plain memory each is found, is read as its value, and is in neither host nor peer memory. -/
theorem Lane.places {x : Lane} {u : Use} {V : Nat → Nat} (hn : tyBytes x.f.ty ≠ 0)
    (hV : ∀ l ∈ x.lanes, Holds s x.c u (x.element form l) (V l)) :
    ∃ L : Nat → Loc, ∀ l ∈ x.lanes, s.pieceLoc (s.who x.c false) x.c.g (x.element form l) u = .ok (L l)
      ∧ s.readLoc (s.who x.c false) x.c.g (L l) (tyBytes x.f.ty) = V l ∧ s.isRemote (L l) = false := by
  have hplace : ∀ l, ∃ k, l ∈ x.lanes → s.pieceLoc (s.who x.c false) x.c.g (x.element form l) u = .ok k
      ∧ s.readLoc (s.who x.c false) x.c.g k (tyBytes x.f.ty) = V l ∧ s.isRemote k = false := by
    intro l
    by_cases hl : l ∈ x.lanes
    · obtain ⟨k, hk⟩ := (hV l hl).place (by simpa using hn)
      exact ⟨k, fun _ => by simpa using hk⟩
    · exact ⟨.scratch 0, fun h => absurd h hl⟩
  exact Classical.axiomOfChoice hplace

/-- A load writes each active lane with what its element holds, where its checks pass and no lane was performed before. -/
theorem laneLoad_result {V : Nat → Nat} (hr : LaneReady s c op f) (hs : Settled s c) (hf : c.f.flight = none)
    (hn : tyBytes f.ty ≠ 0) (hc : (laneAt s c f).check form false = .ok ((laneAt s c f).elements form))
    (hV : ∀ l ∈ (laneAt s c f).lanes, Holds s (laneAt s c f).c .read ((laneAt s c f).element form l) (V l)) :
    laneLoad s op f form = laneResult s (laneAt s c f) f.ty f.dest (fun l => loaded f.ty (V l)) 0 := by
  unfold laneLoad laneMemRun laneResult
  rw [laneRun_effect s op f _ _ true c hr (fun _ => hs) rfl, Frag.flag_zero]
  have hflight : (laneAt s c f).c.f.flight = none := by simpa [laneAt] using hf
  by_cases hact : (laneAt s c f).act = 0
  · rw [if_pos hact, Lane.write, Lane.lanes_inactive hact]
    rfl
  · obtain ⟨L, hL⟩ := Lane.places (s := s.setFrag c.f.laneBegin) hn (fun l hl => (hV l hl).setFrag _)
    have hlocs := State.pieceLocs_map (fun l hl => (hL l hl).1)
    have hpeeks := State.takePeeks_near (s := s.setFrag c.f.laneBegin)
      (ls := (laneAt s c f).lanes.map (fun l => (L l, (laneAt s c f).element form l)))
      (by simpa using fun l hl => (hL l hl).2.2) (laneAt s c f).c.f.peeks
    have hwrite := Lane.write_congr (h := fun l => loaded f.ty ((s.setFrag c.f.laneBegin).readLoc
        ((s.setFrag c.f.laneBegin).who (laneAt s c f).c false) (laneAt s c f).c.g (L l) (tyBytes f.ty)))
      (fun l hl => congrArg (loaded f.ty) (hL l hl).2.1) (laneAt s c f).c.w f.ty f.dest
    rw [if_neg hact]
    simp only [hc, Lane.elements_pieces, Lane.elements_zip, State.laneLocs_fresh hflight, hlocs, hpeeks,
      List.map_map, List.foldl_map, Lane.got_fresh hflight, Option.getD_none, Function.comp_apply,
      Lane.element_size]
    rw [← hwrite]
    rfl

end

end Sys2Proof.Machine

open Sys2Proof Sys2Proof.Machine

/-- Settles O46: the checks of each form pass, or find the fault named, and a load whose checks pass writes what its elements
hold. -/
theorem laneLoadResults : Obligations.LaneLoadResults := by
  unfold Obligations.LaneLoadResults
  intro s c f hs hf hn
  simp only [← laneAt_off]
  refine ⟨fun hr => ⟨fun haddr hclean V hV => ?_, fun hrecord => ⟨fun r hrec hclean hin hbeyond V hV => ?_, fun hact hrec => ?_,
      fun hact r hrec hglobal hext => ?_⟩⟩, fun hr hclean halign V hV => ?_, fun hr hclean => ⟨fun hin V hV => ?_, fun hout => ?_⟩⟩
  · -- VLD, the address form
    rw [exec_vld_addr haddr]
    exact laneLoad_result hr hs hf hn (Lane.check_addr_ok (Lane.dataPoisoned_load hclean) fun l hl => (hV l hl).1)
      fun l hl => (hV l hl).2
  · -- VLD, the record form: in the extent, then no record, then beyond the extent
    rw [exec_vld_record hrecord]
    have helement := Lane.element_record (x := laneAt s c f) hrec
    refine laneLoad_result hr hs hf hn (Lane.check_record_ok hrec rfl hbeyond (fun l hl => (hin l hl).1)
      (Lane.dataPoisoned_load hclean) fun l hl => ?_) fun l hl => ?_
    · rw [helement]
      exact (hV l hl).1
    · rw [helement]
      exact (hV l hl).2
  · rw [exec_vld_record hrecord]
    exact laneLoad_trap hr hs hact (Lane.check_record_missing hrec)
  · rw [exec_vld_record hrecord]
    exact laneLoad_trap hr hs hact (Lane.check_record_extent hrec rfl (by simp [hglobal]) hext)
  · -- VLDB
    exact laneLoad_result hr hs hf hn (Lane.check_blocked_ok (Lane.dataPoisoned_load hclean) halign) fun l hl => (hV l hl).2
  · -- VLDS: in the allocation, then beyond it
    exact laneLoad_result hr hs hf hn (Lane.check_scratch_ok (Lane.dataPoisoned_load hclean) hin fun l hl => (hV l hl).1)
      fun l hl => (hV l hl).2
  · obtain ⟨l, hl, -⟩ := id hout
    exact laneLoad_trap hr hs (Lane.active_of_mem hl) (Lane.check_scratch_range (Lane.dataPoisoned_load hclean) hout)

end
